-- ==== Sys2Proof/Word.lean ====
section
/-! DEFINITION. The word types of the device and the names of its fixed sizes. -/

namespace Sys2Proof

/-- A byte of memory, the smallest addressable unit of a RAW page (R29, R85). -/
abbrev Byte := BitVec 8

/-- A 64-bit word: the granularity of full/empty and tag bits (R41). -/
abbrev Word := BitVec 64

/-- A virtual or physical address (R6, R295). -/
abbrev Addr := BitVec 54

/-- A line of 64 bytes, and a vector register (R14, R67). -/
abbrev Line := BitVec 512

/-- Scale of the slice operands of an opcode (R53). -/
inductive Scale where
  /-- width codes 00..11 name 1, 2, 4 and 8 slices -/
  | n
  /-- width codes 00..11 name 2, 4, 8 and 16 slices -/
  | d
  deriving DecidableEq, Repr

/-- Signedness class of an opcode: how a narrower source is extended (R54). -/
inductive Cls where
  /-- sign-extended -/
  | S
  /-- zero-extended -/
  | Z
  deriving DecidableEq, Repr

/-- Extension sets (R77). -/
inductive ExtSet where
  /-- base: every cell -/
  | B
  /-- vector: general cells -/
  | V
  /-- stage: the stager cell -/
  | S
  /-- matrix drive: the driver cell -/
  | M
  /-- system: general cells -/
  | Y
  deriving DecidableEq, Repr

end Sys2Proof
end

