-- ==== Sys2Proof/Machine/Bits.lean ====
section
/-! DEFINITION. Bit-field, extension and counting helpers on numbers. Operand values are natural numbers
below 2 to the power of their width. -/

namespace Sys2Proof.Machine

open Sys2Proof

/-- Bits [lo + n - 1 : lo] of a number. -/
def field (v lo n : Nat) : Nat := (v >>> lo) % 2 ^ n

/-- Bit i of a number. -/
def bitAt (v i : Nat) : Bool := v.testBit i

/-- A Boolean as 0 or 1. -/
def bit (b : Bool) : Nat := if b then 1 else 0

/-- The signed value of the low w bits. -/
def toSigned (v w : Nat) : Int :=
  let u := v % 2 ^ w
  if w ≠ 0 ∧ 2 ^ (w - 1) ≤ u then (u : Int) - 2 ^ w else u

/-- An integer modulo 2^w. -/
def wrap (x : Int) (w : Nat) : Nat := (x % (2 ^ w : Int)).toNat

/-- Sign-extend or truncate from width a to width w. -/
def sext (v a w : Nat) : Nat := wrap (toSigned v a) w

/-- Zero-extend or truncate to width w. -/
def zext (v w : Nat) : Nat := v % 2 ^ w

/-- A source of width a brought to width w by the class of the opcode (R54). -/
def bring (c : Cls) (v a w : Nat) : Nat :=
  match c with
  | .S => sext v a w
  | .Z => zext v w

/-- An operand of width a read as an integer by the class. -/
def readInt (c : Cls) (v a : Nat) : Int :=
  match c with
  | .S => toSigned v a
  | .Z => (v % 2 ^ a : Nat)

/-- The number of 1 bits among the low w. -/
def popCount (v : Nat) : Nat → Nat
  | 0 => 0
  | w + 1 => popCount v w + bit (v.testBit w)

/-- The number of 0 bits above the highest 1 bit within w bits; w for zero. -/
def countLeading (v : Nat) : Nat → Nat
  | 0 => 0
  | w + 1 => if v.testBit w then 0 else 1 + countLeading v w

/-- The number of 0 bits below the lowest 1 bit among the bits from i on, at most n of them. -/
def countTrailingFrom (v i : Nat) : Nat → Nat
  | 0 => 0
  | n + 1 => if v.testBit i then 0 else 1 + countTrailingFrom v (i + 1) n

/-- The number of 0 bits below the lowest 1 bit; w for zero. -/
def countTrailing (v w : Nat) : Nat := countTrailingFrom v 0 w

/-- The number whose bit i, for i below n, is f i. -/
def ofBits (f : Nat → Bool) : Nat → Nat
  | 0 => 0
  | n + 1 => ofBits f n + bit (f n) * 2 ^ n

/-- Bit i of the result is bit w - 1 - i of the source. -/
def bitReverse (v w : Nat) : Nat := ofBits (fun i => v.testBit (w - 1 - i)) w

/-- The row (r) and column (c) interleaved: bit 2i + 1 from r, bit 2i from c, i below h (R26). -/
def zipBits (r c h : Nat) : Nat :=
  ofBits (fun i => if i % 2 = 1 then r.testBit (i / 2) else c.testBit (i / 2)) (2 * h)

/-- The bits of odd number of the low a bits: the row of an address (R26). -/
def unzipRow (v a : Nat) : Nat := ofBits (fun i => v.testBit (2 * i + 1)) (a / 2)

/-- The bits of even number of the low a bits: the column of an address (R26). -/
def unzipCol (v a : Nat) : Nat := ofBits (fun i => v.testBit (2 * i)) (a / 2)

/-- v with its low n bits cleared. -/
def clearLow (v n : Nat) : Nat := (v >>> n) <<< n

/-- The floor of the base-2 logarithm, 0 for 0. -/
def log2 (n : Nat) : Nat := n.log2

/-- Item i of a list with a default. -/
def nth {α : Type} (l : List α) (i : Nat) (d : α) : α := l.getD i d

/-- A list with item i replaced. -/
def setNth {α : Type} (l : List α) (i : Nat) (a : α) : List α := l.set i a

/-- The value a key-value list gives a key. -/
def lookupNat {α : Type} (k : Nat) : List (Nat × α) → Option α
  | [] => none
  | (k', a) :: t => if k' = k then some a else lookupNat k t

/-- A key-value list in rising order of keys with the value of one key replaced. -/
def insertNat {α : Type} (k : Nat) (a : α) : List (Nat × α) → List (Nat × α)
  | [] => [(k, a)]
  | (k', a') :: t =>
    if k < k' then (k, a) :: (k', a') :: t
    else if k = k' then (k, a) :: t
    else (k', a') :: insertNat k a t

/-- The same with the value of one key replaced, or removed. -/
def updateNat {α : Type} (k : Nat) (v : Option α) (l : List (Nat × α)) : List (Nat × α) :=
  match v with
  | some a => insertNat k a l
  | none => l.filter fun x => x.1 != k

/-- A number as n little-endian bytes. -/
def toBytes (v : Nat) : Nat → List Byte
  | 0 => []
  | n + 1 => BitVec.ofNat 8 (v % 256) :: toBytes (v / 256) n

/-- Little-endian bytes as a number (R3). -/
def ofBytes : List Byte → Nat
  | [] => 0
  | b :: t => b.toNat + 256 * ofBytes t

/-- Lanes of width e put together. -/
def joinLanes (e : Nat) (l : List Nat) : Nat :=
  match l with
  | [] => 0
  | v :: t => v % 2 ^ e + 2 ^ e * joinLanes e t

/-- The least number from lo on, fewer than n steps up, for which p holds. -/
def findFrom (p : Nat → Bool) (lo : Nat) : Nat → Option Nat
  | 0 => none
  | n + 1 => if p lo then some lo else findFrom p (lo + 1) n

end Sys2Proof.Machine
end

