-- ==== Sys2Proof/Machine/Formats.lean ====
section
/-! DEFINITION. Number formats and rounding (R85 to R101): exact values as dyadic numbers, and one
rounding into a target. -/

namespace Sys2Proof.Machine

open Sys2Proof

/-- An exact value: a signed dyadic number, an infinity or NaN. -/
inductive FVal where
  /-- (-1)^neg × m × 2^e -/
  | num (neg : Bool) (m : Nat) (e : Int)
  | inf (neg : Bool)
  | nan
  deriving DecidableEq, Repr

/-- How a floating-point format uses its top codes (R88). -/
inductive Specials where
  /-- every code is finite -/
  | none
  /-- NaN at E and M all ones, no infinity -/
  | nanOnly
  /-- infinities and NaNs at E all ones -/
  | ieee
  deriving DecidableEq, Repr

/-- A floating-point format: exponent bits, mantissa bits, bias and special codes (R88). -/
structure FloatFmt where
  e : Nat
  m : Nat
  bias : Nat
  sp : Specials
  deriving DecidableEq, Repr

def e2m1 : FloatFmt := ⟨2, 1, 1, .none⟩
def e2m3 : FloatFmt := ⟨2, 3, 1, .none⟩
def e3m2 : FloatFmt := ⟨3, 2, 3, .none⟩
def e4m3 : FloatFmt := ⟨4, 3, 7, .nanOnly⟩
def e5m2 : FloatFmt := ⟨5, 2, 15, .ieee⟩
def fp16 : FloatFmt := ⟨5, 10, 15, .ieee⟩
def bf16 : FloatFmt := ⟨8, 7, 127, .ieee⟩
def fp32 : FloatFmt := ⟨8, 23, 127, .ieee⟩

/-- An element type: an integer of a width, or a float. -/
inductive ElemTy where
  | int (signed : Bool) (w : Nat)
  | flt (f : FloatFmt)
  deriving DecidableEq, Repr

/-- The bits of an element of a type. -/
def ElemTy.width : ElemTy → Nat
  | .int _ w => w
  | .flt f => 1 + f.e + f.m

/-- The exact value of an integer. -/
def ofInt (x : Int) : FVal := .num (x < 0) x.natAbs 0

/-- The value of a float code (R87, R88). -/
def floatVal (f : FloatFmt) (c : Nat) : FVal :=
  let M := field c 0 f.m
  let E := field c f.m f.e
  let neg := bitAt c (f.m + f.e)
  let top := 2 ^ f.e - 1
  let fin : FVal :=
    if E = 0 then .num neg M (1 - (f.bias : Int) - f.m)
    else .num neg (2 ^ f.m + M) ((E : Int) - f.bias - f.m)
  match f.sp with
  | .none => fin
  | .nanOnly => if E = top ∧ M = 2 ^ f.m - 1 then .nan else fin
  | .ieee => if E = top then (if M = 0 then .inf neg else .nan) else fin

/-- The value of an element code. -/
def elemVal (t : ElemTy) (c : Nat) : FVal :=
  match t with
  | .int s w => ofInt (readInt (if s then .S else .Z) c w)
  | .flt f => floatVal f c

/-- The canonical NaN of a format (R89). -/
def canonicalNan (f : FloatFmt) : Nat :=
  match f.sp with
  | .none => 0
  | .nanOnly => 2 ^ (f.e + f.m) - 1
  | .ieee => if f.m = 2 then 2 ^ (f.e + f.m) - 1 else (2 ^ f.e - 1) * 2 ^ f.m + 2 ^ (f.m - 1)

/-- The magnitude code of the largest finite value (R88). -/
def maxFinite (f : FloatFmt) : Nat :=
  match f.sp with
  | .none => 2 ^ (f.e + f.m) - 1
  | .nanOnly => 2 ^ (f.e + f.m) - 2
  | .ieee => (2 ^ f.e - 1) * 2 ^ f.m - 1

/-- Does rounding m ÷ 2^s (s > 0, quotient lo) go away from zero in a mode (R93, R94)? -/
def roundsAway (mode rho : Nat) (neg : Bool) (lo rem s : Nat) : Bool :=
  match mode with
  | 0 => decide (2 ^ s < 2 * rem) || (decide (2 * rem = 2 ^ s) && lo % 2 == 1)
  | 1 => false
  | 2 => neg && rem != 0
  | 3 => !neg && rem != 0
  | _ => decide (65536 ≤ rem * 65536 / 2 ^ s + rho)

/-- m × 2^e rounded to a multiple of 2^q: the multiple. -/
def roundAt (mode rho : Nat) (neg : Bool) (m : Nat) (e q : Int) : Nat :=
  if q ≤ e then m * 2 ^ (e - q).toNat
  else
    let s := (q - e).toNat
    let lo := m >>> s
    let rem := m % 2 ^ s
    if rem = 0 then lo else if roundsAway mode rho neg lo rem s then lo + 1 else lo

/-- A finite magnitude that rounded past the largest finite value, resolved (R96). -/
def overflowCode (f : FloatFmt) (mode : Nat) (neg : Bool) : Nat :=
  match f.sp with
  | .ieee =>
    let toInf := match mode with
      | 1 => false
      | 2 => neg
      | 3 => !neg
      | _ => true
    if toInf then (2 ^ f.e - 1) * 2 ^ f.m else maxFinite f
  | _ => maxFinite f

/-- An exact value rounded once into a float format (R94, R96). A nonzero value that rounds to 0 keeps its sign in every
mode (log 105). -/
def roundFloat (f : FloatFmt) (mode rho : Nat) (x : FVal) : Nat :=
  let sgn (neg : Bool) (c : Nat) : Nat := c + bit neg * 2 ^ (f.e + f.m)
  match x with
  | .nan => canonicalNan f
  | .inf neg =>
    match f.sp with
    | .none => sgn neg (maxFinite f)
    | .nanOnly => canonicalNan f
    | .ieee => sgn neg ((2 ^ f.e - 1) * 2 ^ f.m)
  | .num neg m e =>
    if m = 0 then sgn neg 0
    else
      let emin : Int := 1 - (f.bias : Int)
      let lead : Int := (m.log2 : Int) + e
      let q : Int := max lead emin - f.m
      let k := roundAt mode rho neg m e q
      let (k, q) := if k = 2 ^ (f.m + 1) then (2 ^ f.m, q + 1) else (k, q)
      let code := if k < 2 ^ f.m then k else (q + f.m + f.bias).toNat * 2 ^ f.m + (k - 2 ^ f.m)
      if maxFinite f < code then sgn neg (overflowCode f mode neg) else sgn neg code

/-- An exact value rounded to an integer and clamped (R94, R96). -/
def roundInt (lo hi : Int) (mode rho : Nat) (x : FVal) : Int :=
  match x with
  | .nan => 0
  | .inf neg => if neg then lo else hi
  | .num neg m e =>
    let k := roundAt mode rho neg m e 0
    let v : Int := if neg then -(k : Int) else k
    if v < lo then lo else if hi < v then hi else v

/-- The least and greatest value of an integer type. -/
def intRange (signed : Bool) (w : Nat) : Int × Int :=
  if signed then (-(2 ^ (w - 1) : Int), 2 ^ (w - 1) - 1) else (0, 2 ^ w - 1)

/-- Round of R146 into an element type: one rounding (R95). -/
def roundTo (t : ElemTy) (mode rho : Nat) (x : FVal) : Nat :=
  match t with
  | .int s w => wrap (roundInt (intRange s w).1 (intRange s w).2 mode rho x) w
  | .flt f => roundFloat f mode rho x

/-- The exact product (R99, R210): zero times infinity is NaN. -/
def mulF : FVal → FVal → FVal
  | .nan, _ => .nan
  | _, .nan => .nan
  | .inf a, .inf b => .inf (a != b)
  | .inf a, .num b m _ => if m = 0 then .nan else .inf (a != b)
  | .num b m _, .inf a => if m = 0 then .nan else .inf (a != b)
  | .num a m e, .num b m' e' => .num (a != b) (m * m') (e + e')

/-- A value times 2^k. -/
def scaleF (x : FVal) (k : Int) : FVal :=
  match x with
  | .num n m e => .num n m (e + k)
  | y => y

/-- A value with its sign inverted. -/
def negF : FVal → FVal
  | .num n m e => .num (!n) m e
  | .inf n => .inf (!n)
  | .nan => .nan

def isNanF : FVal → Bool
  | .nan => true
  | _ => false

/-- The integer that m × 2^e is, in units of 2^lo, for lo at most e. -/
def inUnits (n : Bool) (m : Nat) (e lo : Int) : Int :=
  let v : Int := (m * 2 ^ (e - lo).toNat : Nat)
  if n then -v else v

/-- The exact sum of two values: infinities of both signs give NaN; a zero is -0 only when both terms
are -0 (R89). -/
def addF : FVal → FVal → FVal
  | .nan, _ => .nan
  | _, .nan => .nan
  | .inf a, .inf b => if a = b then .inf a else .nan
  | .inf a, _ => .inf a
  | _, .inf b => .inf b
  | .num a m e, .num b m' e' =>
    let lo := min e e'
    let v := inUnits a m e lo + inUnits b m' e' lo
    if v = 0 then .num (a && b && m == 0 && m' == 0) 0 0 else .num (v < 0) v.natAbs lo

/-- The exact sum of a list of values; none for an empty list (R100). -/
def sumF : List FVal → Option FVal
  | [] => none
  | x :: t => match sumF t with
    | none => some x
    | some y => some (addF x y)

/-- Is a below b by value? -/
def ltF (a b : FVal) : Bool :=
  match a, b with
  | .nan, _ => false
  | _, .nan => false
  | .inf s, .inf t => s && !t
  | .inf s, _ => s
  | _, .inf t => !t
  | .num s m e, .num t m' e' =>
    decide (inUnits s m e (min e e') < inUnits t m' e' (min e e'))

/-- Are two values equal (R213)? -/
def eqF (a b : FVal) : Bool :=
  match a, b with
  | .nan, _ => false
  | _, .nan => false
  | .inf s, .inf t => s == t
  | .num s m e, .num t m' e' =>
    decide (inUnits s m e (min e e') = inUnits t m' e' (min e e'))
  | _, _ => false

/-- Below, with -0 below +0 (R210). -/
def ltZero (a b : FVal) : Bool :=
  ltF a b || (eqF a b && (match a, b with
    | .num s 0 _, .num t 0 _ => s && !t
    | _, _ => false))

/-- FP32 addition to nearest even (R98, R189). -/
def fp32Add (a b : Nat) : Nat := roundFloat fp32 0 0 (addF (floatVal fp32 a) (floatVal fp32 b))

/-- The codes of FMT (R28) grouped by container and value. -/
inductive FmtKind where
  | raw
  | raw64
  /-- bit planes of a precision, with a scale for BPS -/
  | planes (k : Nat) (scaled : Bool)
  /-- a plain element type -/
  | plain (t : ElemTy)
  /-- an MX element type; `fix` says that the code is an integer of units 2^-6 -/
  | mx (t : ElemTy) (fix : Bool)
  | reserved
  deriving DecidableEq, Repr

/-- The format that an FMT code names (R28). -/
def fmtKind (f : Nat) : FmtKind :=
  if f = 0 then .raw
  else if f = 1 then .raw64
  else if f < 32 then .reserved
  else if f < 39 then .planes (f - 30) false
  else if f < 46 then .planes (f - 37) true
  else match f with
    | 46 => .plain (.int true 4)
    | 47 => .plain (.int false 4)
    | 48 => .plain (.int true 8)
    | 49 => .plain (.int false 8)
    | 50 => .plain (.flt e2m1)
    | 51 => .plain (.flt e2m3)
    | 52 => .plain (.flt e3m2)
    | 53 => .plain (.flt e4m3)
    | 54 => .plain (.flt e5m2)
    | 55 => .plain (.flt fp16)
    | 56 => .plain (.flt bf16)
    | 57 => .plain (.flt fp32)
    | 58 => .mx (.flt e2m1) false
    | 59 => .mx (.flt e2m3) false
    | 60 => .mx (.flt e3m2) false
    | 61 => .mx (.flt e4m3) false
    | 62 => .mx (.flt e5m2) false
    | _ => .mx (.int true 8) true

/-- The container of a unit in bits (R29). -/
def containerBits (f : Nat) : Nat :=
  match fmtKind f with
  | .raw => 8
  | .raw64 => 64
  | .planes _ _ => 8
  | .plain t => if t.width = 6 then 8 else t.width
  | .mx t _ => if t.width = 6 then 8 else t.width
  | .reserved => 8

/-- Does a format carry a scale strip (R33)? -/
def hasStrip (f : Nat) : Bool :=
  match fmtKind f with
  | .planes _ s => s
  | .mx _ _ => true
  | _ => false

/-- Scale bytes of a 32 × 32 square (R33): 1 for BPS, 32 for MX. -/
def stripBytes (f : Nat) : Nat :=
  match fmtKind f with
  | .planes _ _ => 1
  | _ => 32

/-- A 6-bit format, whose bytes read and store zero in the top two bits (R29). -/
def sixBit (f : Nat) : Bool :=
  match fmtKind f with
  | .plain t => t.width == 6
  | .mx t _ => t.width == 6
  | _ => false

/-- The element type of a format; bit planes read as sign-extended bytes (R32). -/
def fmtElem (f : Nat) : ElemTy :=
  match fmtKind f with
  | .plain t => t
  | .mx t _ => t
  | .planes _ _ => .int true 8
  | .raw64 => .int false 64
  | _ => .int false 8

/-- The value of an element code without its scale (R86 to R92). -/
def codeVal (f c : Nat) : FVal :=
  match fmtKind f with
  | .mx t true => scaleF (elemVal t c) (-6)
  | _ => elemVal (fmtElem f) c

/-- A value under an E8M0 scale (R90, R91): the NaN scale makes NaN. -/
def scaled (x : FVal) (X : Nat) : FVal := if X = 255 then .nan else scaleF x ((X : Int) - 127)

/-- An exact value rounded into an element of a format, its scale already divided out (R94 to R96). -/
def codeOf (f mode rho : Nat) (x : FVal) : Nat :=
  match fmtKind f with
  | .planes k _ => wrap (roundInt (-(2 ^ (k - 1) : Int)) (2 ^ (k - 1) - 1) mode rho x) 8
  | .mx t true => roundTo t mode rho (scaleF x 6)
  | _ => match fmtElem f, x with
    | .flt g, .nan => if g.sp = .none then 0 else canonicalNan g
    | t, y => roundTo t mode rho y

/-- Unit z of a block of Z-ordered units: its local row and column (R26). -/
def rowOf (z : Nat) : Nat := unzipRow z 54
def colOf (z : Nat) : Nat := unzipCol z 54

/-- The Z-index of a row and a column (R26). -/
def zOf (r c : Nat) : Nat := zipBits r c 27

end Sys2Proof.Machine
end

