-- ==== Sys2Proof/Syntax.lean ====
section
/-! DEFINITION. The instruction set: one constructor for each row of spec/opcode_table.json, in the
table's order. The 245 rows that carry bits hold the operand fields of the word (R134, R137); the 91
rows without bits are the steps of the device's other agents (spec/95_what_each_step_holds.md), with
the data that says which of them takes place. -/

namespace Sys2Proof

/-- A hart name word (R7): p [21:18], d [17:16], s [15:13], t [12:9], c [8:4], h [3:0]. -/
abbrev Name := BitVec 22

/-- The instructions and steps of the device. Field names follow the opcode table. -/
inductive Instr where
  /-- R149: Signed add at n-scale: D := (A + B) mod 2^w. -/
  | addN (b : BitVec 8) (a : BitVec 8) (d : BitVec 8)
  /-- R149: Signed add at d-scale: D := (A + B) mod 2^w. -/
  | addD (b : BitVec 8) (a : BitVec 8) (d : BitVec 8)
  /-- R149: Unsigned add at n-scale. -/
  | adduN (b : BitVec 8) (a : BitVec 8) (d : BitVec 8)
  /-- R149: Unsigned add at d-scale. -/
  | adduD (b : BitVec 8) (a : BitVec 8) (d : BitVec 8)
  /-- R149: Signed subtract at n-scale. -/
  | subN (b : BitVec 8) (a : BitVec 8) (d : BitVec 8)
  /-- R149: Signed subtract at d-scale. -/
  | subD (b : BitVec 8) (a : BitVec 8) (d : BitVec 8)
  /-- R149: Unsigned subtract at n-scale. -/
  | subuN (b : BitVec 8) (a : BitVec 8) (d : BitVec 8)
  /-- R149: Unsigned subtract at d-scale. -/
  | subuD (b : BitVec 8) (a : BitVec 8) (d : BitVec 8)
  /-- R149: Signed multiply, low half, at n-scale. -/
  | mulN (b : BitVec 8) (a : BitVec 8) (d : BitVec 8)
  /-- R149: Signed multiply, low half, at d-scale. -/
  | mulD (b : BitVec 8) (a : BitVec 8) (d : BitVec 8)
  /-- R149: Unsigned multiply, low half, at n-scale. -/
  | muluN (b : BitVec 8) (a : BitVec 8) (d : BitVec 8)
  /-- R149: Unsigned multiply, low half, at d-scale. -/
  | muluD (b : BitVec 8) (a : BitVec 8) (d : BitVec 8)
  /-- R149: Bitwise and at n-scale. -/
  | andN (b : BitVec 8) (a : BitVec 8) (d : BitVec 8)
  /-- R149: Bitwise and at d-scale. -/
  | andD (b : BitVec 8) (a : BitVec 8) (d : BitVec 8)
  /-- R149: Bitwise or at n-scale. -/
  | orN (b : BitVec 8) (a : BitVec 8) (d : BitVec 8)
  /-- R149: Bitwise or at d-scale. -/
  | orD (b : BitVec 8) (a : BitVec 8) (d : BitVec 8)
  /-- R149: Bitwise exclusive or at n-scale. -/
  | xorN (b : BitVec 8) (a : BitVec 8) (d : BitVec 8)
  /-- R149: Bitwise exclusive or at d-scale. -/
  | xorD (b : BitVec 8) (a : BitVec 8) (d : BitVec 8)
  /-- R149: A and not B at n-scale. -/
  | andnN (b : BitVec 8) (a : BitVec 8) (d : BitVec 8)
  /-- R149: A and not B at d-scale. -/
  | andnD (b : BitVec 8) (a : BitVec 8) (d : BitVec 8)
  /-- R155: Shift left by a register amount, F form, n-scale. -/
  | shlRegN (b : BitVec 8) (a : BitVec 8)
  /-- R155: Shift left by a register amount, F form, d-scale. -/
  | shlRegD (b : BitVec 8) (a : BitVec 8)
  /-- R155: Logical shift right by a register amount, n-scale. -/
  | shrRegN (b : BitVec 8) (a : BitVec 8)
  /-- R155: Logical shift right by a register amount, d-scale. -/
  | shrRegD (b : BitVec 8) (a : BitVec 8)
  /-- R155: Arithmetic shift right by a register amount, n-scale. -/
  | sraRegN (b : BitVec 8) (a : BitVec 8)
  /-- R155: Arithmetic shift right by a register amount, d-scale. -/
  | sraRegD (b : BitVec 8) (a : BitVec 8)
  /-- R155: Rotate left by a register amount, n-scale. -/
  | rolRegN (b : BitVec 8) (a : BitVec 8)
  /-- R155: Rotate left by a register amount, d-scale. -/
  | rolRegD (b : BitVec 8) (a : BitVec 8)
  /-- R152: High half of a signed product, n-scale. -/
  | mulhN (b : BitVec 8) (a : BitVec 8)
  /-- R152: High half of a signed product, d-scale. -/
  | mulhD (b : BitVec 8) (a : BitVec 8)
  /-- R152: High half of an unsigned product, n-scale. -/
  | mulhuN (b : BitVec 8) (a : BitVec 8)
  /-- R152: High half of an unsigned product, d-scale. -/
  | mulhuD (b : BitVec 8) (a : BitVec 8)
  /-- R153: Signed divide toward zero, n-scale. -/
  | divN (b : BitVec 8) (a : BitVec 8)
  /-- R153: Signed divide toward zero, d-scale. -/
  | divD (b : BitVec 8) (a : BitVec 8)
  /-- R153: Unsigned divide, n-scale. -/
  | divuN (b : BitVec 8) (a : BitVec 8)
  /-- R153: Unsigned divide, d-scale. -/
  | divuD (b : BitVec 8) (a : BitVec 8)
  /-- R153: Signed remainder, n-scale. -/
  | remN (b : BitVec 8) (a : BitVec 8)
  /-- R153: Signed remainder, d-scale. -/
  | remD (b : BitVec 8) (a : BitVec 8)
  /-- R153: Unsigned remainder, n-scale. -/
  | remuN (b : BitVec 8) (a : BitVec 8)
  /-- R153: Unsigned remainder, d-scale. -/
  | remuD (b : BitVec 8) (a : BitVec 8)
  /-- R154: Signed minimum into A, n-scale. -/
  | minN (b : BitVec 8) (a : BitVec 8)
  /-- R154: Signed minimum into A, d-scale. -/
  | minD (b : BitVec 8) (a : BitVec 8)
  /-- R154: Signed maximum into A, n-scale. -/
  | maxN (b : BitVec 8) (a : BitVec 8)
  /-- R154: Signed maximum into A, d-scale. -/
  | maxD (b : BitVec 8) (a : BitVec 8)
  /-- R154: Compare equal at full width, result 1 or 0, n-scale. -/
  | cmpEqN (b : BitVec 8) (a : BitVec 8)
  /-- R154: Compare equal, d-scale. -/
  | cmpEqD (b : BitVec 8) (a : BitVec 8)
  /-- R154: Compare not equal, n-scale. -/
  | cmpNeN (b : BitVec 8) (a : BitVec 8)
  /-- R154: Compare not equal, d-scale. -/
  | cmpNeD (b : BitVec 8) (a : BitVec 8)
  /-- R154: Signed less-than compare, n-scale. -/
  | cmpLtN (b : BitVec 8) (a : BitVec 8)
  /-- R154: Signed less-than compare, d-scale. -/
  | cmpLtD (b : BitVec 8) (a : BitVec 8)
  /-- R154: Signed greater-or-equal compare, n-scale. -/
  | cmpGeN (b : BitVec 8) (a : BitVec 8)
  /-- R154: Signed greater-or-equal compare, d-scale. -/
  | cmpGeD (b : BitVec 8) (a : BitVec 8)
  /-- R154: Unsigned less-than compare, n-scale. -/
  | cmpLtuN (b : BitVec 8) (a : BitVec 8)
  /-- R154: Unsigned less-than compare, d-scale. -/
  | cmpLtuD (b : BitVec 8) (a : BitVec 8)
  /-- R154: Unsigned greater-or-equal compare, n-scale. -/
  | cmpGeuN (b : BitVec 8) (a : BitVec 8)
  /-- R154: Unsigned greater-or-equal compare, d-scale. -/
  | cmpGeuD (b : BitVec 8) (a : BitVec 8)
  /-- R156: Move A zero-extended or truncated to D, n-scale. -/
  | movZxN (a : BitVec 8) (d : BitVec 8)
  /-- R156: Move A zero-extended or truncated to D, d-scale. -/
  | movZxD (a : BitVec 8) (d : BitVec 8)
  /-- R156: Move A sign-extended or truncated to D, n-scale. -/
  | movSxN (a : BitVec 8) (d : BitVec 8)
  /-- R156: Move A sign-extended or truncated to D, d-scale. -/
  | movSxD (a : BitVec 8) (d : BitVec 8)
  /-- R156: Population count of A, n-scale. -/
  | popcN (a : BitVec 8) (d : BitVec 8)
  /-- R156: Population count of A, d-scale. -/
  | popcD (a : BitVec 8) (d : BitVec 8)
  /-- R156: Count leading zeros of A, n-scale. -/
  | clzN (a : BitVec 8) (d : BitVec 8)
  /-- R156: Count leading zeros of A, d-scale. -/
  | clzD (a : BitVec 8) (d : BitVec 8)
  /-- R156: Count trailing zeros of A, n-scale. -/
  | ctzN (a : BitVec 8) (d : BitVec 8)
  /-- R156: Count trailing zeros of A, d-scale. -/
  | ctzD (a : BitVec 8) (d : BitVec 8)
  /-- R156: Bit reverse of A at D's width, n-scale. -/
  | brevN (a : BitVec 8) (d : BitVec 8)
  /-- R156: Bit reverse of A at D's width, d-scale. -/
  | brevD (a : BitVec 8) (d : BitVec 8)
  /-- R156: Extract the row bits (odd bits) of A, n-scale. -/
  | unzipRN (a : BitVec 8) (d : BitVec 8)
  /-- R156: Extract the row bits of A, d-scale. -/
  | unzipRD (a : BitVec 8) (d : BitVec 8)
  /-- R156: Extract the column bits (even bits) of A, n-scale. -/
  | unzipCN (a : BitVec 8) (d : BitVec 8)
  /-- R156: Extract the column bits of A, d-scale. -/
  | unzipCD (a : BitVec 8) (d : BitVec 8)
  /-- R157: Load immediate, extended by xi when XIV is set, n-scale. -/
  | liN (i : BitVec 16) (d : BitVec 8)
  /-- R157: Load immediate, extended by xi when XIV is set, d-scale. -/
  | liD (i : BitVec 16) (d : BitVec 8)
  /-- R155: Shift left by an immediate amount, n-scale. -/
  | shlImmN (s : BitVec 6) (a : BitVec 8) (d : BitVec 8)
  /-- R155: Shift left by an immediate amount, d-scale. -/
  | shlImmD (s : BitVec 6) (a : BitVec 8) (d : BitVec 8)
  /-- R155: Logical shift right by an immediate amount, n-scale. -/
  | shrImmN (s : BitVec 6) (a : BitVec 8) (d : BitVec 8)
  /-- R155: Logical shift right by an immediate amount, d-scale. -/
  | shrImmD (s : BitVec 6) (a : BitVec 8) (d : BitVec 8)
  /-- R155: Arithmetic shift right by an immediate amount, n-scale. -/
  | sraImmN (s : BitVec 6) (a : BitVec 8) (d : BitVec 8)
  /-- R155: Arithmetic shift right by an immediate amount, d-scale. -/
  | sraImmD (s : BitVec 6) (a : BitVec 8) (d : BitVec 8)
  /-- R155: Rotate left by an immediate amount, n-scale. -/
  | rolImmN (s : BitVec 6) (a : BitVec 8) (d : BitVec 8)
  /-- R155: Rotate left by an immediate amount, d-scale. -/
  | rolImmD (s : BitVec 6) (a : BitVec 8) (d : BitVec 8)
  /-- R158: Extract a bit field of A from position p, n-scale. -/
  | extN (p : BitVec 6) (a : BitVec 8) (d : BitVec 8)
  /-- R158: Extract a bit field of A from position p, d-scale. -/
  | extD (p : BitVec 6) (a : BitVec 8) (d : BitVec 8)
  /-- R158: Insert A into D at bit position p, n-scale. -/
  | insN (p : BitVec 6) (a : BitVec 8) (d : BitVec 8)
  /-- R158: Insert A into D at bit position p, d-scale. -/
  | insD (p : BitVec 6) (a : BitVec 8) (d : BitVec 8)
  /-- R150: Select A if old D is nonzero, else B, n-scale. -/
  | selN (b : BitVec 8) (a : BitVec 8) (d : BitVec 8)
  /-- R150: Select A if old D is nonzero, else B, d-scale. -/
  | selD (b : BitVec 8) (a : BitVec 8) (d : BitVec 8)
  /-- R160: Interleave row A and column B bits, n-scale. -/
  | zipN (b : BitVec 8) (a : BitVec 8) (d : BitVec 8)
  /-- R160: Interleave row A and column B bits, d-scale. -/
  | zipD (b : BitVec 8) (a : BitVec 8) (d : BitVec 8)
  /-- R161: Descend a block word into quadrant B. -/
  | tdesc (b : BitVec 8) (a : BitVec 8) (d : BitVec 8)
  /-- R162: Ascend a block word by L levels. -/
  | tasc (l : BitVec 5) (a : BitVec 8) (d : BitVec 8)
  /-- R163: Read quadrant digit n of an address. -/
  | tdig (n : BitVec 5) (a : BitVec 8) (d : BitVec 8)
  /-- R169: Set the window bases of xw. -/
  | win (b : BitVec 8) (a : BitVec 8) (d : BitVec 8)
  /-- R166: Jump by a 24-bit halfword offset. -/
  | jump (o : BitVec 24)
  /-- R166: Jump and link NPC into D. -/
  | jal (o : BitVec 16) (d : BitVec 8)
  /-- R167: Jump to the address in A, linking NPC into D. -/
  | jr (a : BitVec 8) (d : BitVec 8)
  /-- R167: Return: jr with the link zr. -/
  | ret (a : BitVec 8)
  /-- R164: Branch if D is zero, n-scale. -/
  | bzN (o : BitVec 14) (d : BitVec 8)
  /-- R164: Branch if D is zero, d-scale. -/
  | bzD (o : BitVec 14) (d : BitVec 8)
  /-- R164: Branch if D is nonzero, n-scale. -/
  | bnzN (o : BitVec 14) (d : BitVec 8)
  /-- R164: Branch if D is nonzero, d-scale. -/
  | bnzD (o : BitVec 14) (d : BitVec 8)
  /-- R164: Decrement D and branch if nonzero, n-scale. -/
  | dbnzN (o : BitVec 14) (d : BitVec 8)
  /-- R164: Decrement D and branch if nonzero, d-scale. -/
  | dbnzD (o : BitVec 14) (d : BitVec 8)
  /-- R165: Branch if A equals B. -/
  | bEq (b : BitVec 8) (a : BitVec 8) (o : BitVec 8)
  /-- R165: Branch if A differs from B. -/
  | bNe (b : BitVec 8) (a : BitVec 8) (o : BitVec 8)
  /-- R165: Branch if A < B, signed. -/
  | bLt (b : BitVec 8) (a : BitVec 8) (o : BitVec 8)
  /-- R165: Branch if A >= B, signed. -/
  | bGe (b : BitVec 8) (a : BitVec 8) (o : BitVec 8)
  /-- R165: Branch if A < B, unsigned. -/
  | bLtu (b : BitVec 8) (a : BitVec 8) (o : BitVec 8)
  /-- R165: Branch if A >= B, unsigned. -/
  | bGeu (b : BitVec 8) (a : BitVec 8) (o : BitVec 8)
  /-- R176: Plain load through a capability, n-scale; destination marked empty until the deposit. -/
  | ldN (o : BitVec 8) (a : BitVec 8) (c : BitVec 4)
  /-- R176: Plain load through a capability, d-scale. -/
  | ldD (o : BitVec 8) (a : BitVec 8) (c : BitVec 4)
  /-- R179: Wait until full, read and set empty at the home, n-scale. -/
  | ldfeN (o : BitVec 8) (a : BitVec 8) (c : BitVec 4)
  /-- R179: Wait until full, read and set empty at the home, d-scale. -/
  | ldfeD (o : BitVec 8) (a : BitVec 8) (c : BitVec 4)
  /-- R179: Wait until full, read and leave full, n-scale. -/
  | ldffN (o : BitVec 8) (a : BitVec 8) (c : BitVec 4)
  /-- R179: Wait until full, read and leave full, d-scale. -/
  | ldffD (o : BitVec 8) (a : BitVec 8) (c : BitVec 4)
  /-- R177: Plain store through a capability, n-scale. -/
  | stN (o : BitVec 8) (a : BitVec 8) (c : BitVec 4)
  /-- R177: Plain store through a capability, d-scale. -/
  | stD (o : BitVec 8) (a : BitVec 8) (c : BitVec 4)
  /-- R179: Wait until empty, write and set full, n-scale. -/
  | stefN (o : BitVec 8) (a : BitVec 8) (c : BitVec 4)
  /-- R179: Wait until empty, write and set full, d-scale. -/
  | stefD (o : BitVec 8) (a : BitVec 8) (c : BitVec 4)
  /-- R179: Wait until full, write and leave full, n-scale. -/
  | stffN (o : BitVec 8) (a : BitVec 8) (c : BitVec 4)
  /-- R179: Wait until full, write and leave full, d-scale. -/
  | stffD (o : BitVec 8) (a : BitVec 8) (c : BitVec 4)
  /-- R178: Store and hold the hart until applied, n-scale. -/
  | stcN (o : BitVec 8) (a : BitVec 8) (c : BitVec 4)
  /-- R178: Store and hold the hart until applied, d-scale. -/
  | stcD (o : BitVec 8) (a : BitVec 8) (c : BitVec 4)
  /-- R182: Read cell commons slices into A, n-scale. -/
  | cmldN (o : BitVec 8) (a : BitVec 8)
  /-- R182: Read cell commons slices into A, d-scale. -/
  | cmldD (o : BitVec 8) (a : BitVec 8)
  /-- R182: Write A into cell commons, applied after 7 cycles, n-scale. -/
  | cmstN (o : BitVec 8) (a : BitVec 8)
  /-- R182: Write A into cell commons, d-scale. -/
  | cmstD (o : BitVec 8) (a : BitVec 8)
  /-- R183: Load a capability from an aligned pair of words, tag as LCAP allows. -/
  | ldcap (o : BitVec 8) (k : BitVec 4) (c : BitVec 4)
  /-- R183: Store a capability to an aligned pair of words with its tag. -/
  | stcap (o : BitVec 8) (k : BitVec 4) (c : BitVec 4)
  /-- R181: Store a run of slices to RAW memory. -/
  | spill (l : BitVec 8) (s : BitVec 8) (c : BitVec 4)
  /-- R181: Load a run of slices from RAW memory as one deposit. -/
  | fill (l : BitVec 8) (s : BitVec 8) (c : BitVec 4)
  /-- R184: Atomic add at the home, returning the old value. -/
  | amoAdd (o : BitVec 8) (a : BitVec 8) (c : BitVec 4)
  /-- R184: Atomic and, returning the old value. -/
  | amoAnd (o : BitVec 8) (a : BitVec 8) (c : BitVec 4)
  /-- R184: Atomic or, returning the old value. -/
  | amoOr (o : BitVec 8) (a : BitVec 8) (c : BitVec 4)
  /-- R184: Atomic exclusive or, returning the old value. -/
  | amoXor (o : BitVec 8) (a : BitVec 8) (c : BitVec 4)
  /-- R184: Atomic signed minimum, returning the old value. -/
  | amoMin (o : BitVec 8) (a : BitVec 8) (c : BitVec 4)
  /-- R184: Atomic signed maximum, returning the old value. -/
  | amoMax (o : BitVec 8) (a : BitVec 8) (c : BitVec 4)
  /-- R184: Atomic swap, returning the old value. -/
  | amoSwap (o : BitVec 8) (a : BitVec 8) (c : BitVec 4)
  /-- R185: Atomic compare-and-swap against the expected value after A. -/
  | amoCas (o : BitVec 8) (a : BitVec 8) (c : BitVec 4)
  /-- R186: Exact floating-point add into the location's accumulator, returning the prior reading. -/
  | amoFadd (o : BitVec 8) (a : BitVec 8) (c : BitVec 4)
  /-- R187: Return the word and reset it to zero atomically. -/
  | amaxRst (o : BitVec 8) (a : BitVec 8) (c : BitVec 4)
  /-- R186: Exact add of an FP16 addend into the accumulator, returning the prior reading. -/
  | amoFaddF16 (o : BitVec 8) (a : BitVec 8) (c : BitVec 4)
  /-- R188: Posted atomic add; returns nothing. -/
  | amoAddPost (o : BitVec 8) (a : BitVec 8) (c : BitVec 4)
  /-- R188: Posted atomic and. -/
  | amoAndPost (o : BitVec 8) (a : BitVec 8) (c : BitVec 4)
  /-- R188: Posted atomic or. -/
  | amoOrPost (o : BitVec 8) (a : BitVec 8) (c : BitVec 4)
  /-- R188: Posted atomic exclusive or. -/
  | amoXorPost (o : BitVec 8) (a : BitVec 8) (c : BitVec 4)
  /-- R188: Posted atomic signed minimum. -/
  | amoMinPost (o : BitVec 8) (a : BitVec 8) (c : BitVec 4)
  /-- R188: Posted atomic signed maximum. -/
  | amoMaxPost (o : BitVec 8) (a : BitVec 8) (c : BitVec 4)
  /-- R188: Posted atomic swap. -/
  | amoSwapPost (o : BitVec 8) (a : BitVec 8) (c : BitVec 4)
  /-- R188: Posted exact floating-point add. -/
  | amoFaddPost (o : BitVec 8) (a : BitVec 8) (c : BitVec 4)
  /-- R188: Posted exact FP16 add. -/
  | amoFaddF16Post (o : BitVec 8) (a : BitVec 8) (c : BitVec 4)
  /-- R189: Append an update entry to the target word's log at its home. -/
  | lapp (o : BitVec 8) (a : BitVec 8) (c : BitVec 4)
  /-- R190: Apply all log entries of a block in sorted order as one atomic step. -/
  | lmerge (d : BitVec 8) (c : BitVec 4)
  /-- R199: Claim indices from a span counter at the leader die. -/
  | spnext (b : BitVec 8) (a : BitVec 8) (d : BitVec 8)
  /-- R191: Open a transaction or raise its nesting depth. -/
  | tbegin (o : BitVec 16)
  /-- R119: Set the alternative target and the write-set mark. -/
  | orelse (o : BitVec 16)
  /-- R118: Commit the transaction at depth 1 or lower the depth. -/
  | tend
  /-- R119: Abandon the alternative, or discard the transaction and sleep on its read set. -/
  | retry
  /-- R191: Abort the transaction with status EXPLICIT and a code. -/
  | tabort (i : BitVec 8)
  /-- R123: Read the transaction status word. -/
  | tstat (d : BitVec 8)
  /-- R197: Enqueue a task with a timestamp at the tile's task unit. -/
  | tenq (b : BitVec 8) (a : BitVec 8) (d : BitVec 6)
  /-- R194: Create a hart in a cell, tile or sector slot. -/
  | hspawn (b : BitVec 8) (a : BitVec 8) (d : BitVec 8)
  /-- R195: Retire the hart, or end a task body. -/
  | hexit
  /-- R196: Migrate the hart to a cell or tile. -/
  | mig (a : BitVec 8)
  /-- R198: Send an active message to the handler slot of the owning cell. -/
  | amsg (o : BitVec 8) (a : BitVec 8) (c : BitVec 4) (h : BitVec 4)
  /-- R200: Bind a stream register to a copy-engine stream tag. -/
  | sbind (k : BitVec 2) (a : BitVec 8)
  /-- R200: Unbind a stream register and discard its elements. -/
  | sbindOff (k : BitVec 2)
  /-- R209: Lanewise add. -/
  | vadd (b : BitVec 8) (a : BitVec 8) (d : BitVec 8)
  /-- R209: Lanewise subtract. -/
  | vsub (b : BitVec 8) (a : BitVec 8) (d : BitVec 8)
  /-- R209: Lanewise multiply. -/
  | vmul (b : BitVec 8) (a : BitVec 8) (d : BitVec 8)
  /-- R209: Lanewise fused multiply-add into D. -/
  | vfma (b : BitVec 8) (a : BitVec 8) (d : BitVec 8)
  /-- R209: Lanewise minimum. -/
  | vmin (b : BitVec 8) (a : BitVec 8) (d : BitVec 8)
  /-- R209: Lanewise maximum. -/
  | vmax (b : BitVec 8) (a : BitVec 8) (d : BitVec 8)
  /-- R211: Lanewise absolute value. -/
  | vabs (a : BitVec 8) (d : BitVec 8)
  /-- R211: Lanewise negation. -/
  | vneg (a : BitVec 8) (d : BitVec 8)
  /-- R211: Lanewise population count. -/
  | vpopc (a : BitVec 8) (d : BitVec 8)
  /-- R212: Lanewise bitwise and. -/
  | vand (b : BitVec 8) (a : BitVec 8) (d : BitVec 8)
  /-- R212: Lanewise bitwise or. -/
  | vor (b : BitVec 8) (a : BitVec 8) (d : BitVec 8)
  /-- R212: Lanewise exclusive or. -/
  | vxor (b : BitVec 8) (a : BitVec 8) (d : BitVec 8)
  /-- R212: Lanewise shift left. -/
  | vshl (b : BitVec 8) (a : BitVec 8) (d : BitVec 8)
  /-- R212: Lanewise shift right. -/
  | vshr (b : BitVec 8) (a : BitVec 8) (d : BitVec 8)
  /-- R213: Lanewise compare producing all-ones or zero masks. -/
  | vcmp (b : BitVec 8) (a : BitVec 8) (d : BitVec 8)
  /-- R214: Lanewise select by the raw bits of D. -/
  | vsel (b : BitVec 8) (a : BitVec 8) (d : BitVec 8)
  /-- R218: Lanewise conversion with one rounding. -/
  | vcvt (r : BitVec 3) (s : BitVec 4) (a : BitVec 8) (d : BitVec 8)
  /-- R219: Tree reduction of all lanes into lane 0. -/
  | vred (o : BitVec 2) (a : BitVec 8) (d : BitVec 8)
  /-- R216: Permute lanes of A by the indices in B. -/
  | vperm (b : BitVec 8) (a : BitVec 8) (d : BitVec 8)
  /-- R215: Broadcast a scalar into every lane. -/
  | vbcast (s : BitVec 8) (d : BitVec 8)
  /-- R217: Compress the selected lanes low. -/
  | vcomp (b : BitVec 8) (a : BitVec 8) (d : BitVec 8)
  /-- R221: Intersect bitmap words and give offsets into both value arrays. -/
  | visect (b : BitVec 8) (a : BitVec 8) (d : BitVec 8)
  /-- R217: Expand packed lanes into the selected lanes. -/
  | vexp (b : BitVec 8) (a : BitVec 8) (d : BitVec 8)
  /-- R220: Grouped exact dot products accumulated into 32-bit lanes. -/
  | vdot (b : BitVec 8) (a : BitVec 8) (d : BitVec 8)
  /-- R223: Load one aligned 64-byte run into a vector register. -/
  | vld (o : BitVec 8) (d : BitVec 8) (c : BitVec 4)
  /-- R223: Store a vector register to one aligned 64-byte run. -/
  | vst (o : BitVec 8) (d : BitVec 8) (c : BitVec 4)
  /-- R224: Gather one element per active lane through an index register. -/
  | vgat (i : BitVec 8) (d : BitVec 8) (c : BitVec 4)
  /-- R224: Scatter one element per active lane through an index register. -/
  | vsct (i : BitVec 8) (d : BitVec 8) (c : BitVec 4)
  /-- R232: Claim the lowest free operand slot with a format. -/
  | mclaim (f : BitVec 6) (d : BitVec 8)
  /-- R233: Release a claimed, unpinned slot. -/
  | mrel (a : BitVec 8)
  /-- R234: Start a fill of a square of a slot from memory or pan. -/
  | mfill (b : BitVec 8) (a : BitVec 8)
  /-- R236: Set a slot's scales uniformly or from memory. -/
  | mscale (b : BitVec 8) (a : BitVec 8)
  /-- R239: Check, pin and queue a matrix product into an accumulator bank. -/
  | mmac (n : BitVec 1) (a : BitVec 8)
  /-- R242: Set part of the row or column mask. -/
  | mmask (b : BitVec 8) (a : BitVec 8)
  /-- R244: Queue a read of accumulator row segments into vector registers. -/
  | maccRd (b : BitVec 8) (a : BitVec 8) (v : BitVec 4)
  /-- R243: Queue the clearing of an accumulator bank to +0. -/
  | maccClr (n : BitVec 1)
  /-- R237: Wait for a nonzero tile semaphore and decrement it. -/
  | msemP (k : BitVec 3)
  /-- R237: Post an increment of a tile semaphore. -/
  | msemV (k : BitVec 3)
  /-- R246: Add to a chain's LIMIT, register it and ring its engine. -/
  | chadv (a : BitVec 8)
  /-- R249: Make every pending engine write in a region current at one point. -/
  | publish (a : BitVec 8)
  /-- R202: Derive a capability for a sub-block. -/
  | cder (s : BitVec 8) (a : BitVec 4) (d : BitVec 4)
  /-- R203: Narrow a capability's extents. -/
  | cbnd (s : BitVec 8) (a : BitVec 4) (d : BitVec 4)
  /-- R203: Mask a capability's permissions. -/
  | cperm (s : BitVec 8) (a : BitVec 4) (d : BitVec 4)
  /-- R203: Seal a capability with a type authorised by CB. -/
  | cseal (s : BitVec 8) (b : BitVec 4) (a : BitVec 4) (d : BitVec 4)
  /-- R203: Unseal a capability under CB's authority. -/
  | cunseal (b : BitVec 4) (a : BitVec 4) (d : BitVec 4)
  /-- R203: Read a selected field of a capability into slices. -/
  | cget (s : BitVec 8) (l : BitVec 4) (a : BitVec 4)
  /-- R203: Copy a capability register, tag included. -/
  | cmov (a : BitVec 4) (d : BitVec 4)
  /-- R288: Trap with class 15 and an immediate code. -/
  | ecall (i : BitVec 8)
  /-- R288: Trap with DBG.BREAK. -/
  | ebreak
  /-- R288: Return from a trap through the current bank. -/
  | tret
  /-- R307: Invalidate translations overlapping a block in a scope and wait for their users. -/
  | rinv (b : BitVec 8) (a : BitVec 8)
  /-- R110: Fence over the homes of the cell scope. -/
  | fenceCell
  /-- R110: Fence over the homes of the tile scope. -/
  | fenceTile
  /-- R110: Fence over the homes of the sector scope. -/
  | fenceSector
  /-- R110: Fence over the homes of the stack scope. -/
  | fenceStack
  /-- R110: Fence over every home of the domain. -/
  | fenceDomain
  /-- R171: Read a control and status register. -/
  | csrr (n : BitVec 12) (d : BitVec 8)
  /-- R171: Write a control and status register. -/
  | csrw (n : BitVec 12) (d : BitVec 8)
  /-- R171: Set bits of a control and status register. -/
  | csrs (n : BitVec 12) (d : BitVec 8)
  /-- R171: Clear bits of a control and status register. -/
  | csrc (n : BitVec 12) (d : BitVec 8)
  /-- R143: 16-bit granule move, as mov.zx. -/
  | movC (h : BitVec 5) (g : BitVec 5)
  /-- R143: 16-bit granule add. -/
  | addC (h : BitVec 5) (g : BitVec 5)
  /-- R143: 16-bit granule subtract. -/
  | subC (h : BitVec 5) (g : BitVec 5)
  /-- R143: 16-bit granule and. -/
  | andC (h : BitVec 5) (g : BitVec 5)
  /-- R143: 16-bit granule or. -/
  | orC (h : BitVec 5) (g : BitVec 5)
  /-- R143: 16-bit granule exclusive or. -/
  | xorC (h : BitVec 5) (g : BitVec 5)
  /-- R143: 16-bit load of a sign-extended 6-bit immediate. -/
  | liC (i : BitVec 6) (g : BitVec 5)
  /-- R143: 16-bit shift left of a granule. -/
  | shlC (a : BitVec 5) (g : BitVec 5)
  /-- R143: 16-bit shift right of a granule. -/
  | shrC (a : BitVec 5) (g : BitVec 5)
  /-- R143: 16-bit branch if a granule is zero. -/
  | bzC (o : BitVec 6) (g : BitVec 5)
  /-- R143: 16-bit branch if a granule is nonzero. -/
  | bnzC (o : BitVec 6) (g : BitVec 5)
  /-- R143: 16-bit jump. -/
  | jC (o : BitVec 11)
  /-- R143: 16-bit load through c1 or c2. -/
  | ldC (s : BitVec 1) (h : BitVec 5) (g : BitVec 5)
  /-- R143: 16-bit store through c1 or c2. -/
  | stC (s : BitVec 1) (h : BitVec 5) (g : BitVec 5)
  /-- R143: 16-bit tend. -/
  | tendC
  /-- R143: 16-bit retry. -/
  | retryC
  /-- R143: 16-bit hexit. -/
  | hexitC
  /-- R289: A DBG.STEP trap taken before the next issue attempt after a single-stepped instruction. -/
  | dbgStep (h : Name)
  /-- R59: A load reply, engine delivery or queued message lands in an empty register location and marks it full. -/
  | deposit (q : Bool) (p : Nat)
  /-- R114: A waiting hart is woken by a change to its read set and presents its instruction again. -/
  | wake (h : Name)
  /-- R84: A wait exceeds HWAITLIM and the hart traps with WAIT.LIMIT. -/
  | waitLimit (h : Name)
  /-- R292: A pending enabled interrupt is taken at an issue attempt. -/
  | interruptTake (h : Name)
  /-- R290: TIME reaches HTCMP and the TIMER interrupt becomes pending. -/
  | timer (h : Name)
  /-- R291: A write to HIPI with KIND 0 sends a software interrupt to the named hart. -/
  | hipiSoft (h : Name) (target : Name)
  /-- R291: A write to HIPI with KIND 2 sends a pre-emption request to the named hart. -/
  | hipiPreempt (h : Name) (target : Name)
  /-- R291: A sent interrupt reaches its target and sets the HIP bit. -/
  | ipiDelivery (i : Nat)
  /-- R64: A tx message reaches the destination cell and lands in the mailbox or its queue. -/
  | messageLand (i : Nat)
  /-- R79: A migrating hart with no unacknowledged stores reserves a slot and sends its context. -/
  | migrationDepart (h : Name)
  /-- R79: A migrating context arrives and the hart becomes present in its new slot. -/
  | migrationArrive (h : Name)
  /-- R74: A retired hart's slot becomes free once its stores and sends are acknowledged. -/
  | slotRelease (h : Name)
  /-- R105: A request is performed at its home at one point in the word's order. -/
  | accessPerform (r : Nat) (also : List Nat)
  /-- R47: A remote store is applied at the owning bank port and logged in its trace ring. -/
  | remoteStoreApply (r : Nat)
  /-- R69: A cmst is applied to the commons at the end of cycle t + 7. -/
  | commonsApply (cell : BitVec 18)
  /-- R321: A merge station releases held, combined atomics toward their home. -/
  | mergeStationRelease (rs : List Nat)
  /-- R318: A waypoint tile reinjects a message with the next leg's turn list. -/
  | waypointReinject (i : Nat)
  /-- R118: Every home of the write set has marked its lines; the writes are applied. -/
  | txnCommitPoint (h : Name)
  /-- R122: A transaction aborts on conflict, capacity, fault or interrupt and goes to its abort target. -/
  | txnAbort (h : Name)
  /-- R327: An enqueued task reaches its task unit, or spills to the spill area. -/
  | taskArrive (i : Nat)
  /-- R76: The task unit starts its queued task of least key on a free slot. -/
  | taskStart (tile : BitVec 13)
  /-- R328: Every 256 cycles each task unit reports its least uncommitted key and the leader returns the frontier. -/
  | frontierReport (n : BitVec 4)
  /-- R328: A finished task whose key equals the frontier commits. -/
  | taskCommit (h : Name)
  /-- R125: A task rolls back, cancels its children and is re-queued. -/
  | taskRollback (h : Name)
  /-- R198: Slot 15 starts the next queued active-message handler. -/
  | amsgHandlerStart (cell : BitVec 18)
  /-- R234: An mfill or mscale finishes writing its slot and the fill count falls. -/
  | fillEnd (tile : BitVec 13) (i : Nat)
  /-- R238: A posted msem.v is applied once the hart's earlier slot and bank work has ended. -/
  | msemVApply (tile : BitVec 13) (i : Nat)
  /-- R240: A queued mmac runs its 128 cycles, writes its bank and unpins its slots. -/
  | mmacEnd (tile : BitVec 13)
  /-- R243: A queued macc.clr runs and sets its bank to +0. -/
  | maccClrRun (tile : BitVec 13)
  /-- R244: A queued macc.rd delivers accumulator row segments into vector registers. -/
  | maccRdRun (tile : BitVec 13)
  /-- R247: An engine reads the next command line of a running chain at CUR. -/
  | commandFetch (tile : BitVec 13) (eng : Bool)
  /-- R251: The copy engine runs a copy command unit by unit in Z-order, writing pending or to a stream. -/
  | copyCommand (tile : BitVec 13)
  /-- R254: The quantizer chooses group scales and writes quantized codes pending. -/
  | quantizeCommand (tile : BitVec 13)
  /-- R304: A walker resolves a translation miss and wakes the parked hart. -/
  | walk (h : Name)
  /-- R309: An ATS translation completion arrives and is cached as an ATC entry. -/
  | atsCompletion (h : Name) (r : Bool) (w : Bool)
  /-- R309: A PRI page response arrives and resumes or faults the parked access. -/
  | priResponse (h : Name) (ok : Bool)
  /-- R309: A host Invalidate Request drops matching ATC entries and completes when their uses end. -/
  | hostInvalidate (pasid : BitVec 20) (page : Nat) (pages : Nat)
  /-- R323: A host request of 8 bytes to a BAR0 offset: a write of a value to MBOXk fills an empty mailbox or is dropped and
  sets MBOVF; a read, without a value, returns a word. -/
  | mboxWrite (off : BitVec 12) (v : Option (BitVec 64))
  /-- R323: A host write to MBOVF clears the bits written as 1. -/
  | mbovfClear (v : BitVec 64)
  /-- R8: A write to a register with no row of its own sets its writable fields. -/
  | registerWrite (off : BitVec 14) (v : BitVec 64)
  /-- R315: The manager checks a descriptor, wipes and stitches the tiles and opens the partition. -/
  | pmOpen
  /-- R315: The manager closes an idle partition, wiping its tiles. -/
  | pmClose
  /-- R315: The manager takes a tile out of service. -/
  | pmFence
  /-- R315: The manager returns a fenced tile to service. -/
  | pmUnfence
  /-- R329: The manager opens a span counter for a partition. -/
  | pmSpanOpen
  /-- R329: The manager closes a span counter. -/
  | pmSpanClose
  /-- R326: A stef to TCMD copies and clears a bank port's trace ring into the trace area. -/
  | traceCopy (n : BitVec 4)
  /-- R330: On the leader die's failure the replica becomes leader of the span counters. -/
  | leaderElection (d : BitVec 6)
  /-- R335: A tag mismatch or counter exhaustion destroys the key and stops the partition. -/
  | tamperStop (key : BitVec 5)
  /-- R340: An SPDM KEY_EXCHANGE establishes a secure session. -/
  | keyExchange
  /-- R332: IDE keys are set through IDE_KM in a secure session. -/
  | ideKm
  /-- R341: The TDI moves from CONFIG_UNLOCKED to CONFIG_LOCKED and returns a start nonce. -/
  | lockInterfaceRequest
  /-- R341: With the lock nonce, the TDI moves to RUN. -/
  | startInterfaceRequest (nonce : BitVec 256)
  /-- R342: The TDI stops, closing the HOSTF partition, and returns to CONFIG_UNLOCKED. -/
  | stopInterfaceRequest
  /-- R342: A function-level reset stops the interface as STOP does. -/
  | flr
  /-- R343: The vendor QUIESCE message starts the drain of host traffic. -/
  | quiesce
  /-- R343: The drain completes and the interface enters QUIESCED. -/
  | quiesceDrainDone
  /-- R341: The vendor RESUME message returns the interface from QUIESCED to RUN. -/
  | resume
  /-- R341: A write to BAR0's base or a locked control sends a locked interface to ERROR. -/
  | configWrite
  /-- R341: An IDE integrity failure sends a locked interface to ERROR. -/
  | ideIntegrityFailure
  /-- R344: Returns the TDISP interface report. -/
  | getDeviceInterfaceReport
  /-- R345: Returns a snapshot of the measurement blocks, signed on request. -/
  | getMeasurements (sign : Bool)
  /-- R353: Returns the boot status words of every die of the package. -/
  | getBootStatus
  /-- R339: A signed provisioning token moves BLANK to PROVIDER. -/
  | provisioningToken (ok : Bool) (dev : BitVec 256) (ctr : Nat) (provider : BitVec 256)
  /-- R339: A signed lease-start token moves PROVIDER to LEASED. -/
  | leaseStartToken (ok : Bool) (dev : BitVec 256) (ctr : Nat)
  /-- R339: A signed lease-end token moves LEASED to PROVIDER after a complete scrub. -/
  | leaseEndToken (ok : Bool) (dev : BitVec 256) (ctr : Nat)
  /-- R339: A signed retire token moves PROVIDER to RETIRED permanently. -/
  | retireToken (ok : Bool) (dev : BitVec 256) (ctr : Nat)
  /-- R356: A verified recovery message resets the device into RECOVERY. -/
  | recoveryMessage (ok : Bool) (ctr : Nat)
  /-- R357: A signed START_SCRUB request starts a lease scrub. -/
  | startScrub (ok : Bool) (dev : BitVec 256) (ctr : Nat)
  /-- R357: The lease scrub finishes and signs its scrub record. -/
  | leaseScrubComplete (clean : Bool)
  /-- R357: Returns the signed scrub record. -/
  | getScrubRecord
  /-- R358: In QUIESCED, starts verification of a staged image and sets ACTPEND. -/
  | activate (tenant : Bool)
  /-- R346: The verified image becomes active, digests switch and ACTPEND clears. -/
  | activationCommit
  /-- R353: Every die's boot hart starts in the boot ROM in firmware mode. -/
  | deviceReset
  /-- R353: Training of a stack completes; the boot continues. `failed` are the channels that failed it (R348), none if the
  stack as a whole did. -/
  | hbmTrainingComplete (die : BitVec 6) (stack : BitVec 1) (failed : Option (BitVec 32))
  /-- R353: A waiting die's boot ROM takes a start message and jumps to its address. -/
  | dieStart (die : BitVec 6)
  /-- R354: Setting BFCTL.LOCK makes the provider region read-only and locks TENWR. -/
  | bfctlLock
  /-- R354: A write to BFCTL.TENWR sets tenant-region writability while unlocked. -/
  | bfctlTenwr (v : Bool)
  /-- R348: Firmware sets FAILMAP bits, marking channels failed. -/
  | failmapWrite (i : BitVec 7) (v : BitVec 32)
  /-- R349: An HBM row activation updates the bank's tracker. -/
  | rowActivation (bank : Nat) (row : Nat)
  /-- R349: At each 32 ms refresh window every tracker entry is freed. -/
  | refreshWindow
  /-- R350: The scrubber reads, corrects and repairs one line. -/
  | scrubLine (stack : BitVec 7)
  /-- R351: A scrub pass reaches its deadline unfinished, sets LATE and escalates. -/
  | scrubDeadline (stack : BitVec 7)
  /-- R359: With all passes done and partitions closed, memory is wiped and FULL is set. -/
  | fullServiceSwitch
  /-- R144: A fetched word that is no instruction (an unassigned major, a nonzero reserved field, an undefined code or a forbidden special) raises ILLEGAL with HTVAL holding the word. -/
  | illegal (word : BitVec 32) (kind : BitVec 3) (site : BitVec 3)
  /-- R313: The manager takes a command word whose OP is not 1–6, or whose reserved bits are nonzero, and writes RESULT BADARG while changing nothing else. -/
  | pmBadArg
  /-- R358: The verification of a staged image ends in failure, so the activation is abandoned, ACTPEND is cleared and the old image is kept. -/
  | activationAbandoned
  /-- R332: A reset of the host port's link destroys the IDE keys. -/
  | linkReset
  /-- R332: The end of the SPDM secure session destroys the IDE keys that IDE_KM set within it. -/
  | sessionEnd
  /-- R110: The acknowledgement of an applied store, send or posted atomic reaches the issuing hart and lowers its count of unacknowledged stores, changing its completion word. -/
  | acknowledgement (h : Name)
  deriving DecidableEq, Repr

end Sys2Proof
end

