-- ==== Sys2Proof/Machine/Forms.lean ====
section
/-! DEFINITION. Checks 3 and 4 of R144 on an instruction word whose major and codes are known: operand
widths, element types and specials. A failed check gives the kind and site of ILLEGAL (R285, R286). -/

namespace Sys2Proof.Machine

open Sys2Proof

/-- The index of an operand byte (R51). -/
def opIdx (x : BitVec 8) : Nat := x.toNat % 64

/-- The width code of an operand byte (R53), and EW of a vector operand byte (R133). -/
def opCode (x : BitVec 8) : Nat := x.toNat / 64

/-- MOD of a vector operand byte (R133). -/
def opMod (x : BitVec 8) : Nat := x.toNat / 16 % 4

/-- VREG of a vector operand byte (R133). -/
def opVreg (x : BitVec 8) : Nat := x.toNat % 16

/-- zr, rx, tx, st0 to st3, hid (R52). -/
def isZr (x : BitVec 8) : Bool := opIdx x == 56
def isRx (x : BitVec 8) : Bool := opIdx x == 57
def isTx (x : BitVec 8) : Bool := opIdx x == 58
def isSt (x : BitVec 8) : Bool := 59 ≤ opIdx x && opIdx x ≤ 62
def isHid (x : BitVec 8) : Bool := opIdx x == 63
def isSpecial (x : BitVec 8) : Bool := 56 ≤ opIdx x

/-- A failed check. -/
abbrev FormFault := Option (Nat × Nat)

/-- A check that gives a kind and a site when it fails. -/
def need (ok : Bool) (kind site : Nat) : FormFault := if ok then none else some (kind, site)

/-- The first failed check. -/
def firstFault : List FormFault → FormFault
  | [] => none
  | none :: t => firstFault t
  | some f :: _ => some f

/-- A source may not be tx (R52). -/
def srcOk (x : BitVec 8) (site : Nat) : FormFault := need (!isTx x) 3 site

/-- A destination may not be st0 to st3 or hid (R48, R52). -/
def dstOk (x : BitVec 8) (site : Nat) : FormFault := need (!(isSt x || isHid x)) 3 site

/-- An operand that is both. -/
def bothOk (x : BitVec 8) (site : Nat) : FormFault := need (!(isTx x || isSt x || isHid x)) 3 site

/-- A data operand that a memory form writes: slices or zr (R175). -/
def dataDst (x : BitVec 8) : FormFault := need (!isSpecial x || isZr x) 3 1

/-- A data operand that must name slices (R185). -/
def slicesOnly (x : BitVec 8) (site : Nat) : FormFault := need (!isSpecial x) 3 site

/-- An undefined code, EW, MOD or width. -/
def codeOk (ok : Bool) : FormFault := need ok 2 0

/-- Width w or d of a d-scale operand (R184). -/
def wideOk (x : BitVec 8) : Bool := 2 ≤ opCode x

/-- A data operand that is only read: the width code of st0 to st3 is ignored (R48, R52). -/
def readOk (p : BitVec 8 → Bool) (x : BitVec 8) : Bool := isSt x || p x

/-- The addend widths of `amo.fadd` (h or w) and `amo.fadd.f16` (h) (R186). -/
def faddOk (x : BitVec 8) : Bool := opCode x == 1 || opCode x == 2
def f16Ok (x : BitVec 8) : Bool := opCode x == 1

/-- Classes of the type that a type byte names (R206): 0 signed, 1 unsigned, 2 float, 3 8-bit float,
4 none. -/
def typeClass (x : BitVec 8) : Nat :=
  match opCode x, opMod x with
  | _, 0 => 0
  | _, 1 => 1
  | 0, _ => 3
  | 1, _ => 2
  | 2, 2 => 2
  | _, _ => 4

def isIntTy (x : BitVec 8) : Bool := typeClass x ≤ 1
def isFltTy (x : BitVec 8) : Bool := typeClass x == 2
def isTy (x : BitVec 8) : Bool := typeClass x ≤ 3

/-- Operands A and B of D's EW with no meaning for MOD (R207). -/
def sameEw (d x : BitVec 8) : Bool := opCode x == opCode d
def plainV (d x : BitVec 8) : Bool := opCode x == opCode d && opMod x == 0

/-- The rounding mode of `vadd`, `vsub`, `vmul`, `vfma` (R208). -/
def vrm (a b : BitVec 8) : Nat := opMod a % 2 * 4 + opMod b

/-- `vadd`, `vsub`, `vmul`, `vfma` (R208, R209). -/
def arithV (b a d : BitVec 8) : Bool :=
  sameEw d a && sameEw d b &&
    ((isIntTy d && opMod a == 0 && opMod b < 2) ||
      (isFltTy d && opMod a < 2 && vrm a b ≤ 4))

/-- `vmin`, `vmax`: integers and floats but e4m3, e5m2 (R209). -/
def minV (b a d : BitVec 8) : Bool :=
  plainV d a && plainV d b && (isIntTy d || isFltTy d)

/-- Every type, no modifiers (R212, R214, R216, R217). -/
def anyV (b a d : BitVec 8) : Bool := plainV d a && plainV d b && isTy d

/-- The condition code of `vcmp` (R213). -/
def vcc (a b : BitVec 8) : Nat := opMod a * 4 + opMod b

/-- The pairs of types of `vdot` (R220). -/
def dotV (b a d : BitVec 8) : Bool :=
  opCode d == 2 && opCode a == opCode b && opCode a ≤ 1 &&
    ((opMod d < 2 && opMod a < 2 && opMod b < 2) || (opMod d == 2 && 2 ≤ opMod a && 2 ≤ opMod b))

/-- Does a CSRNUM name a register (R281)? -/
def csrExists (n : BitVec 12) : Bool :=
  let k := n.toNat
  k ≤ 7 || (0x10 ≤ k && k ≤ 0x13) || (0x100 ≤ k && k ≤ 0x10A) || (0x200 ≤ k && k ≤ 0x207)

/-- Checks 3 and 4 of R144 beyond the fixed bits of the word. -/
def formFault (i : Instr) : FormFault :=
  match i with
  | .addN b a d | .addD b a d | .adduN b a d | .adduD b a d | .subN b a d | .subD b a d
  | .subuN b a d | .subuD b a d | .mulN b a d | .mulD b a d | .muluN b a d | .muluD b a d
  | .andN b a d | .andD b a d | .orN b a d | .orD b a d | .xorN b a d | .xorD b a d
  | .andnN b a d | .andnD b a d | .zipN b a d | .zipD b a d | .tdesc b a d | .spnext b a d =>
    firstFault [srcOk a 1, srcOk b 2, dstOk d 3]
  | .selN b a d | .selD b a d | .hspawn b a d =>
    firstFault [srcOk a 1, srcOk b 2, bothOk d 3]
  | .shlRegN b a | .shlRegD b a | .shrRegN b a | .shrRegD b a | .sraRegN b a | .sraRegD b a
  | .rolRegN b a | .rolRegD b a | .mulhN b a | .mulhD b a | .mulhuN b a | .mulhuD b a
  | .divN b a | .divD b a | .divuN b a | .divuD b a | .remN b a | .remD b a | .remuN b a
  | .remuD b a | .minN b a | .minD b a | .maxN b a | .maxD b a | .cmpEqN b a | .cmpEqD b a
  | .cmpNeN b a | .cmpNeD b a | .cmpLtN b a | .cmpLtD b a | .cmpGeN b a | .cmpGeD b a
  | .cmpLtuN b a | .cmpLtuD b a | .cmpGeuN b a | .cmpGeuD b a =>
    firstFault [bothOk a 1, srcOk b 2]
  | .movZxN a d | .movZxD a d | .movSxN a d | .movSxD a d | .popcN a d | .popcD a d | .clzN a d
  | .clzD a d | .ctzN a d | .ctzD a d | .brevN a d | .brevD a d | .unzipRN a d | .unzipRD a d
  | .unzipCN a d | .unzipCD a d | .jr a d =>
    firstFault [srcOk a 1, dstOk d 3]
  | .ret a => srcOk a 1
  | .liN _ d | .liD _ d | .jal _ d | .tstat d => dstOk d 3
  | .shlImmN _ a d | .shlImmD _ a d | .shrImmN _ a d | .shrImmD _ a d | .sraImmN _ a d
  | .sraImmD _ a d | .rolImmN _ a d | .rolImmD _ a d | .extN _ a d | .extD _ a d =>
    firstFault [srcOk a 1, dstOk d 3]
  | .tasc _ a d | .tdig _ a d => firstFault [srcOk a 1, dstOk d 3]
  | .insN _ a d | .insD _ a d => firstFault [srcOk a 1, bothOk d 3]
  | .bzN _ d | .bzD _ d | .bnzN _ d | .bnzD _ d => srcOk d 3
  | .dbnzN _ d | .dbnzD _ d => bothOk d 3
  | .bEq b a _ | .bNe b a _ | .bLt b a _ | .bGe b a _ | .bLtu b a _ | .bGeu b a _ =>
    firstFault [srcOk a 1, srcOk b 2]
  | .ldN o a _ | .ldD o a _ | .ldfeN o a _ | .ldfeD o a _ | .ldffN o a _ | .ldffD o a _ =>
    firstFault [dataDst a, srcOk o 2]
  | .stN o a _ | .stD o a _ | .stefN o a _ | .stefD o a _ | .stffN o a _ | .stffD o a _
  | .stcN o a _ | .stcD o a _ => firstFault [srcOk a 1, srcOk o 2]
  | .cmldN o a | .cmldD o a => firstFault [dataDst a, srcOk o 2]
  | .cmstN o a | .cmstD o a => firstFault [srcOk a 1, srcOk o 2]
  | .ldcap o _ _ | .stcap o _ _ => srcOk o 2
  | .amoAdd o a _ | .amoAnd o a _ | .amoOr o a _ | .amoXor o a _ | .amoMin o a _ | .amoMax o a _
  | .amoSwap o a _ | .amaxRst o a _ =>
    firstFault [codeOk (wideOk a), dataDst a, srcOk o 2]
  | .amoCas o a _ => firstFault [codeOk (wideOk a), slicesOnly a 1, srcOk o 2]
  | .amoFadd o a _ => firstFault [codeOk (faddOk a), dataDst a, srcOk o 2]
  | .amoFaddF16 o a _ => firstFault [codeOk (f16Ok a), dataDst a, srcOk o 2]
  | .amoAddPost o a _ | .amoAndPost o a _ | .amoOrPost o a _ | .amoXorPost o a _
  | .amoMinPost o a _ | .amoMaxPost o a _ | .amoSwapPost o a _ | .lapp o a _ =>
    firstFault [codeOk (readOk wideOk a), srcOk a 1, srcOk o 2]
  | .amoFaddPost o a _ => firstFault [codeOk (readOk faddOk a), srcOk a 1, srcOk o 2]
  | .amoFaddF16Post o a _ => firstFault [codeOk (readOk f16Ok a), srcOk a 1, srcOk o 2]
  | .lmerge d _ => dataDst d
  | .tenq b a d =>
    firstFault [srcOk a 1, srcOk b 2, need (d.toNat < 56) 3 3]
  | .mig a | .mrel a | .chadv a | .publish a | .mmac _ a | .sbind _ a => srcOk a 1
  | .amsg o a _ _ => firstFault [dataDst a, srcOk o 2]
  | .vadd b a d | .vsub b a d | .vmul b a d | .vfma b a d => codeOk (arithV b a d)
  | .vmin b a d | .vmax b a d => codeOk (minV b a d)
  | .vabs a d | .vneg a d => codeOk (plainV d a && (isIntTy d || isFltTy d))
  | .vpopc a d => codeOk (plainV d a && isIntTy d)
  | .vand b a d | .vor b a d | .vxor b a d | .vsel b a d | .vperm b a d | .vcomp b a d
  | .vexp b a d => codeOk (anyV b a d)
  | .vshl b a d | .vshr b a d => codeOk (plainV d a && plainV d b && isIntTy d)
  | .vcmp b a d => codeOk (sameEw d a && sameEw d b && vcc a b ≤ 5 && (isIntTy d || isFltTy d))
  | .vcvt r s a d =>
    codeOk (isTy d && isTy a && r.toNat ≤ 4 && (s.toNat == 0 || r.toNat == 4))
  | .vred o a d => codeOk (o.toNat ≤ 2 && plainV d a && (isIntTy d || isFltTy d))
  | .vbcast s d => firstFault [codeOk (isTy d), srcOk s 1]
  | .visect b a d => codeOk (opCode d == 1 && opMod d == 1 && opCode a == 2 && opCode b == 2)
  | .vdot b a d => codeOk (dotV b a d)
  | .vld o d _ | .vst o d _ => firstFault [codeOk (opMod d < 2), srcOk o 2]
  | .vgat i d _ | .vsct i d _ =>
    codeOk (opMod d == 0 && opMod i == 0 && (opCode i == 1 || opCode i == 2))
  | .mclaim f d => firstFault [codeOk (32 ≤ f.toNat), dstOk d 3]
  | .mfill b a | .mscale b a | .mmask b a | .maccRd b a _ | .rinv b a =>
    firstFault [srcOk a 1, srcOk b 2]
  | .cder s _ _ | .cbnd s _ _ | .cperm s _ _ | .cseal s _ _ _ => srcOk s 2
  | .cget s l _ => firstFault [codeOk (l.toNat ≤ 10), dstOk s 2]
  | .csrr n d => firstFault [need (csrExists n) 5 0, dstOk d 3]
  | .csrw n d | .csrs n d | .csrc n d => firstFault [need (csrExists n) 5 0, srcOk d 3]
  | _ => none

end Sys2Proof.Machine
end

