-- ==== Sys2Proof/WellFormed.lean ====
section
/-! DEFINITION. Which terms of Instr are instructions that a word can hold: those with an encoding whose
operands pass checks 3 and 4 of R144. -/

namespace Sys2Proof

open Sys2Proof.Machine

/-- Is the constructor a word of the opcode map, and not a step of another agent? -/
def Instr.isWord (i : Instr) : Bool :=
  match i with
  | .dbgStep _ => false
  | .deposit _ _ => false
  | .wake _ => false
  | .waitLimit _ => false
  | .interruptTake _ => false
  | .timer _ => false
  | .hipiSoft _ _ => false
  | .hipiPreempt _ _ => false
  | .ipiDelivery _ => false
  | .messageLand _ => false
  | .migrationDepart _ => false
  | .migrationArrive _ => false
  | .slotRelease _ => false
  | .accessPerform _ _ => false
  | .remoteStoreApply _ => false
  | .commonsApply _ => false
  | .mergeStationRelease _ => false
  | .waypointReinject _ => false
  | .txnCommitPoint _ => false
  | .txnAbort _ => false
  | .taskArrive _ => false
  | .taskStart _ => false
  | .frontierReport _ => false
  | .taskCommit _ => false
  | .taskRollback _ => false
  | .amsgHandlerStart _ => false
  | .fillEnd _ _ => false
  | .msemVApply _ _ => false
  | .mmacEnd _ => false
  | .maccClrRun _ => false
  | .maccRdRun _ => false
  | .commandFetch _ _ => false
  | .copyCommand _ => false
  | .quantizeCommand _ => false
  | .walk _ => false
  | .atsCompletion _ _ _ => false
  | .priResponse _ _ => false
  | .hostInvalidate _ _ _ => false
  | .mboxWrite _ _ => false
  | .mbovfClear _ => false
  | .registerWrite _ _ => false
  | .pmOpen => false
  | .pmClose => false
  | .pmFence => false
  | .pmUnfence => false
  | .pmSpanOpen => false
  | .pmSpanClose => false
  | .traceCopy _ => false
  | .leaderElection _ => false
  | .tamperStop _ => false
  | .keyExchange => false
  | .ideKm => false
  | .lockInterfaceRequest => false
  | .startInterfaceRequest _ => false
  | .stopInterfaceRequest => false
  | .flr => false
  | .quiesce => false
  | .quiesceDrainDone => false
  | .resume => false
  | .configWrite => false
  | .ideIntegrityFailure => false
  | .getDeviceInterfaceReport => false
  | .getMeasurements _ => false
  | .getBootStatus => false
  | .provisioningToken _ _ _ _ => false
  | .leaseStartToken _ _ _ => false
  | .leaseEndToken _ _ _ => false
  | .retireToken _ _ _ => false
  | .recoveryMessage _ _ => false
  | .startScrub _ _ _ => false
  | .leaseScrubComplete _ => false
  | .getScrubRecord => false
  | .activate _ => false
  | .activationCommit => false
  | .deviceReset => false
  | .hbmTrainingComplete _ _ _ => false
  | .dieStart _ => false
  | .bfctlLock => false
  | .bfctlTenwr _ => false
  | .failmapWrite _ _ => false
  | .rowActivation _ _ => false
  | .refreshWindow => false
  | .scrubLine _ => false
  | .scrubDeadline _ => false
  | .fullServiceSwitch => false
  | .illegal _ _ _ => false
  | .pmBadArg => false
  | .activationAbandoned => false
  | .linkReset => false
  | .sessionEnd => false
  | .acknowledgement _ => false
  | _ => true

/-- `jr` with the link zr is written `ret` (R138). -/
def Instr.isRet (i : Instr) : Bool :=
  match i with
  | .jr _ d => d == 0x38
  | _ => false

/-- An instruction that a word holds. -/
abbrev WellFormed (i : Instr) : Prop := i.isWord = true ∧ i.isRet = false ∧ formFault i = none

end Sys2Proof
end

