-- ==== Sys2Proof/Decode.lean ====
section
/-! DEFINITION. The decoder (R131, R134, R137 to R144) and after it the encoder, both written from the
encoding tables. A word that is no instruction is rejected with the kind of ILLEGAL it raises (R285). -/

namespace Sys2Proof

open Sys2Proof.Machine

/-- Why a word is no instruction: the kinds of ILLEGAL that its own bits decide (R144, R285). -/
inductive Reject where
  /-- kind 0: the major is assigned to nothing -/
  | unassignedMajor
  /-- kind 1: a nonzero Reserved field or a wrong fixed byte -/
  | reservedField
  /-- kind 2: an undefined code, type or width -/
  | undefinedCode
  /-- kind 3: a special where none may stand; the site of its position -/
  | forbiddenSpecial (site : Nat)
  /-- kind 5: CSRNUM names no register -/
  | noRegister
  /-- fewer bytes than the word has -/
  | short
  deriving DecidableEq, Repr

/-- What a decoder makes of a word. -/
inductive Decoded where
  | instr (i : Instr)
  | illegal (r : Reject)
  deriving DecidableEq, Repr

/-- The kind of ILLEGAL. -/
def rejectKind : Reject → Nat
  | .unassignedMajor => 0
  | .reservedField => 1
  | .undefinedCode => 2
  | .forbiddenSpecial _ => 3
  | .noRegister => 5
  | .short => 0

/-- The site of ILLEGAL (R286). -/
def rejectSite : Reject → Nat
  | .forbiddenSpecial s => s
  | _ => 0

/-- The failed check of an operand as a rejection. -/
def rejectOf (kind site : Nat) : Reject :=
  match kind with
  | 3 => .forbiddenSpecial site
  | 5 => .noRegister
  | _ => .undefinedCode

/-- Checks 3 and 4 of R144: Reserved bits zero, then the operands. -/
def checked (reservedZero : Bool) (i : Instr) : Decoded :=
  if reservedZero then
    match formFault i with
    | none => .instr i
    | some (k, s) => .illegal (rejectOf k s)
  else .illegal .reservedField

/-- The Reserved bits of a byte, given by a mask, are zero. -/
def clear (x mask : Byte) : Bool := x &&& mask == 0

/-- The 32-bit word with bytes b, a, d, m from the top: m holds the major and a 1 in bit 0 (R134, R138 to
R142). Which of two failures of one word decides, and the unnamed field of `cder`, `cbnd` and `cperm`: log 107. -/
def decode32 (m d a b : Byte) : Decoded :=
  match m.toNat with
  | 0x01 => checked true (.addN b a d)
  | 0x03 => checked true (.addD b a d)
  | 0x05 => checked true (.adduN b a d)
  | 0x07 => checked true (.adduD b a d)
  | 0x09 => checked true (.subN b a d)
  | 0x0B => checked true (.subD b a d)
  | 0x0D => checked true (.subuN b a d)
  | 0x0F => checked true (.subuD b a d)
  | 0x11 => checked true (.mulN b a d)
  | 0x13 => checked true (.mulD b a d)
  | 0x15 => checked true (.muluN b a d)
  | 0x17 => checked true (.muluD b a d)
  | 0x19 => checked true (.andN b a d)
  | 0x1B => checked true (.andD b a d)
  | 0x1D => checked true (.orN b a d)
  | 0x1F => checked true (.orD b a d)
  | 0x21 => checked true (.xorN b a d)
  | 0x23 => checked true (.xorD b a d)
  | 0x25 => checked true (.andnN b a d)
  | 0x27 => checked true (.andnD b a d)
  | 0x29 =>
    match d.toNat with
    | 0 => checked true (.shlRegN b a)
    | 1 => checked true (.shrRegN b a)
    | 2 => checked true (.sraRegN b a)
    | 3 => checked true (.rolRegN b a)
    | 4 => checked true (.mulhN b a)
    | 5 => checked true (.mulhuN b a)
    | 6 => checked true (.divN b a)
    | 7 => checked true (.divuN b a)
    | 8 => checked true (.remN b a)
    | 9 => checked true (.remuN b a)
    | 10 => checked true (.minN b a)
    | 11 => checked true (.maxN b a)
    | 16 => checked true (.cmpEqN b a)
    | 17 => checked true (.cmpNeN b a)
    | 18 => checked true (.cmpLtN b a)
    | 19 => checked true (.cmpGeN b a)
    | 20 => checked true (.cmpLtuN b a)
    | 21 => checked true (.cmpGeuN b a)
    | _ => .illegal .undefinedCode
  | 0x2B =>
    match d.toNat with
    | 0 => checked true (.shlRegD b a)
    | 1 => checked true (.shrRegD b a)
    | 2 => checked true (.sraRegD b a)
    | 3 => checked true (.rolRegD b a)
    | 4 => checked true (.mulhD b a)
    | 5 => checked true (.mulhuD b a)
    | 6 => checked true (.divD b a)
    | 7 => checked true (.divuD b a)
    | 8 => checked true (.remD b a)
    | 9 => checked true (.remuD b a)
    | 10 => checked true (.minD b a)
    | 11 => checked true (.maxD b a)
    | 16 => checked true (.cmpEqD b a)
    | 17 => checked true (.cmpNeD b a)
    | 18 => checked true (.cmpLtD b a)
    | 19 => checked true (.cmpGeD b a)
    | 20 => checked true (.cmpLtuD b a)
    | 21 => checked true (.cmpGeuD b a)
    | _ => .illegal .undefinedCode
  | 0x2D =>
    match b.toNat with
    | 0 => checked true (.movZxN a d)
    | 1 => checked true (.movSxN a d)
    | 2 => checked true (.popcN a d)
    | 3 => checked true (.clzN a d)
    | 4 => checked true (.ctzN a d)
    | 5 => checked true (.brevN a d)
    | 6 => checked true (.unzipRN a d)
    | 7 => checked true (.unzipCN a d)
    | _ => .illegal .undefinedCode
  | 0x2F =>
    match b.toNat with
    | 0 => checked true (.movZxD a d)
    | 1 => checked true (.movSxD a d)
    | 2 => checked true (.popcD a d)
    | 3 => checked true (.clzD a d)
    | 4 => checked true (.ctzD a d)
    | 5 => checked true (.brevD a d)
    | 6 => checked true (.unzipRD a d)
    | 7 => checked true (.unzipCD a d)
    | _ => .illegal .undefinedCode
  | 0x31 => checked true (.liN (b ++ a) d)
  | 0x33 => checked true (.liD (b ++ a) d)
  | 0x35 =>
    match (b.extractLsb' 6 2).toNat with
    | 0 => checked true (.shlImmN (b.extractLsb' 0 6) a d)
    | 1 => checked true (.shrImmN (b.extractLsb' 0 6) a d)
    | 2 => checked true (.sraImmN (b.extractLsb' 0 6) a d)
    | 3 => checked true (.rolImmN (b.extractLsb' 0 6) a d)
    | _ => .illegal .undefinedCode
  | 0x37 =>
    match (b.extractLsb' 6 2).toNat with
    | 0 => checked true (.shlImmD (b.extractLsb' 0 6) a d)
    | 1 => checked true (.shrImmD (b.extractLsb' 0 6) a d)
    | 2 => checked true (.sraImmD (b.extractLsb' 0 6) a d)
    | 3 => checked true (.rolImmD (b.extractLsb' 0 6) a d)
    | _ => .illegal .undefinedCode
  | 0x39 =>
    match (b.extractLsb' 6 2).toNat with
    | 0 => checked true (.extN (b.extractLsb' 0 6) a d)
    | 1 => checked true (.insN (b.extractLsb' 0 6) a d)
    | _ => .illegal .undefinedCode
  | 0x3B =>
    match (b.extractLsb' 6 2).toNat with
    | 0 => checked true (.extD (b.extractLsb' 0 6) a d)
    | 1 => checked true (.insD (b.extractLsb' 0 6) a d)
    | _ => .illegal .undefinedCode
  | 0x3D => checked true (.selN b a d)
  | 0x3F => checked true (.selD b a d)
  | 0x41 => checked true (.zipN b a d)
  | 0x43 => checked true (.zipD b a d)
  | 0x45 => checked true (.tdesc b a d)
  | 0x47 =>
    match (b.extractLsb' 5 3).toNat with
    | 0 => checked true (.tasc (b.extractLsb' 0 5) a d)
    | 1 => checked true (.tdig (b.extractLsb' 0 5) a d)
    | _ => .illegal .undefinedCode
  | 0x49 => checked true (.win b a d)
  | 0x4B => checked true (.jump (b ++ a ++ d))
  | 0x4D => checked true (.jal (b ++ a) d)
  | 0x4F => if d == 0x38 then checked (clear b 0xFF) (.ret a) else checked (clear b 0xFF) (.jr a d)
  | 0x51 =>
    match (b.extractLsb' 6 2).toNat with
    | 0 => checked true (.bzN (b.extractLsb' 0 6 ++ a) d)
    | 1 => checked true (.bnzN (b.extractLsb' 0 6 ++ a) d)
    | 2 => checked true (.dbnzN (b.extractLsb' 0 6 ++ a) d)
    | _ => .illegal .undefinedCode
  | 0x53 =>
    match (b.extractLsb' 6 2).toNat with
    | 0 => checked true (.bzD (b.extractLsb' 0 6 ++ a) d)
    | 1 => checked true (.bnzD (b.extractLsb' 0 6 ++ a) d)
    | 2 => checked true (.dbnzD (b.extractLsb' 0 6 ++ a) d)
    | _ => .illegal .undefinedCode
  | 0x55 => checked true (.bEq b a d)
  | 0x57 => checked true (.bNe b a d)
  | 0x59 => checked true (.bLt b a d)
  | 0x5B => checked true (.bGe b a d)
  | 0x5D => checked true (.bLtu b a d)
  | 0x5F => checked true (.bGeu b a d)
  | 0x61 =>
    match (d.extractLsb' 0 4).toNat with
    | 0 => checked true (.ldN b a (d.extractLsb' 4 4))
    | 1 => checked true (.ldfeN b a (d.extractLsb' 4 4))
    | 2 => checked true (.ldffN b a (d.extractLsb' 4 4))
    | _ => .illegal .undefinedCode
  | 0x63 =>
    match (d.extractLsb' 0 4).toNat with
    | 0 => checked true (.ldD b a (d.extractLsb' 4 4))
    | 1 => checked true (.ldfeD b a (d.extractLsb' 4 4))
    | 2 => checked true (.ldffD b a (d.extractLsb' 4 4))
    | _ => .illegal .undefinedCode
  | 0x65 =>
    match (d.extractLsb' 0 4).toNat with
    | 0 => checked true (.stN b a (d.extractLsb' 4 4))
    | 1 => checked true (.stefN b a (d.extractLsb' 4 4))
    | 2 => checked true (.stffN b a (d.extractLsb' 4 4))
    | 3 => checked true (.stcN b a (d.extractLsb' 4 4))
    | _ => .illegal .undefinedCode
  | 0x67 =>
    match (d.extractLsb' 0 4).toNat with
    | 0 => checked true (.stD b a (d.extractLsb' 4 4))
    | 1 => checked true (.stefD b a (d.extractLsb' 4 4))
    | 2 => checked true (.stffD b a (d.extractLsb' 4 4))
    | 3 => checked true (.stcD b a (d.extractLsb' 4 4))
    | _ => .illegal .undefinedCode
  | 0x69 =>
    match (d.extractLsb' 0 4).toNat with
    | 0 => checked (clear d 0xF0) (.cmldN b a)
    | 1 => checked (clear d 0xF0) (.cmstN b a)
    | _ => .illegal .undefinedCode
  | 0x6B =>
    match (d.extractLsb' 0 4).toNat with
    | 0 => checked (clear d 0xF0) (.cmldD b a)
    | 1 => checked (clear d 0xF0) (.cmstD b a)
    | _ => .illegal .undefinedCode
  | 0x6D =>
    match (d.extractLsb' 0 4).toNat with
    | 0 => checked (clear a 0xF0) (.ldcap b (a.extractLsb' 0 4) (d.extractLsb' 4 4))
    | 1 => checked (clear a 0xF0) (.stcap b (a.extractLsb' 0 4) (d.extractLsb' 4 4))
    | _ => .illegal .undefinedCode
  | 0x6F =>
    match (d.extractLsb' 0 4).toNat with
    | 0 => checked true (.spill b a (d.extractLsb' 4 4))
    | 1 => checked true (.fill b a (d.extractLsb' 4 4))
    | _ => .illegal .undefinedCode
  | 0x71 =>
    match (d.extractLsb' 0 4).toNat with
    | 0 => checked true (.amoAdd b a (d.extractLsb' 4 4))
    | 1 => checked true (.amoAnd b a (d.extractLsb' 4 4))
    | 2 => checked true (.amoOr b a (d.extractLsb' 4 4))
    | 3 => checked true (.amoXor b a (d.extractLsb' 4 4))
    | 4 => checked true (.amoMin b a (d.extractLsb' 4 4))
    | 5 => checked true (.amoMax b a (d.extractLsb' 4 4))
    | 6 => checked true (.amoSwap b a (d.extractLsb' 4 4))
    | 7 => checked true (.amoCas b a (d.extractLsb' 4 4))
    | 8 => checked true (.amoFadd b a (d.extractLsb' 4 4))
    | 9 => checked true (.amaxRst b a (d.extractLsb' 4 4))
    | 10 => checked true (.amoFaddF16 b a (d.extractLsb' 4 4))
    | _ => .illegal .undefinedCode
  | 0x73 =>
    match (d.extractLsb' 0 4).toNat with
    | 0 => checked true (.amoAddPost b a (d.extractLsb' 4 4))
    | 1 => checked true (.amoAndPost b a (d.extractLsb' 4 4))
    | 2 => checked true (.amoOrPost b a (d.extractLsb' 4 4))
    | 3 => checked true (.amoXorPost b a (d.extractLsb' 4 4))
    | 4 => checked true (.amoMinPost b a (d.extractLsb' 4 4))
    | 5 => checked true (.amoMaxPost b a (d.extractLsb' 4 4))
    | 6 => checked true (.amoSwapPost b a (d.extractLsb' 4 4))
    | 8 => checked true (.amoFaddPost b a (d.extractLsb' 4 4))
    | 10 => checked true (.amoFaddF16Post b a (d.extractLsb' 4 4))
    | _ => .illegal .undefinedCode
  | 0x75 =>
    match (d.extractLsb' 0 4).toNat with
    | 0 => checked true (.lapp b a (d.extractLsb' 4 4))
    | 1 => checked (b == 0x38) (.lmerge a (d.extractLsb' 4 4))
    | _ => .illegal .undefinedCode
  | 0x77 => checked true (.spnext b a d)
  | 0x79 => checked (clear d 0xFF) (.tbegin (b ++ a))
  | 0x7B => checked (clear d 0xFF) (.orelse (b ++ a))
  | 0x7D => checked (clear b 0xFF && clear a 0xFF && clear d 0xFF) .tend
  | 0x7F => checked (clear b 0xFF && clear a 0xFF && clear d 0xFF) .retry
  | 0x81 => checked (clear a 0xFF && clear d 0xFF) (.tabort b)
  | 0x83 => checked (clear b 0xFF && clear a 0xFF) (.tstat d)
  | 0x85 =>
    match (d.extractLsb' 6 2).toNat with
    | 2 => checked true (.tenq b a (d.extractLsb' 0 6))
    | _ => .illegal .undefinedCode
  | 0x87 => checked true (.hspawn b a d)
  | 0x89 => checked (clear b 0xFF && clear a 0xFF && clear d 0xFF) .hexit
  | 0x8B => checked (clear b 0xFF && clear d 0xFF) (.mig a)
  | 0x8D => checked true (.amsg b a (d.extractLsb' 4 4) (d.extractLsb' 0 4))
  | 0x8F =>
    match (b.extractLsb' 7 1).toNat with
    | 0 => checked (clear b 0x7C && clear d 0xFF) (.sbind (b.extractLsb' 0 2) a)
    | 1 => checked (clear b 0x7C && clear a 0xFF && clear d 0xFF) (.sbindOff (b.extractLsb' 0 2))
    | _ => .illegal .undefinedCode
  | 0x91 => checked true (.vadd b a d)
  | 0x93 => checked true (.vsub b a d)
  | 0x95 => checked true (.vmul b a d)
  | 0x97 => checked true (.vfma b a d)
  | 0x99 => checked true (.vmin b a d)
  | 0x9B => checked true (.vmax b a d)
  | 0x9D =>
    match (b.extractLsb' 4 2).toNat with
    | 0 => checked (clear b 0xCF) (.vabs a d)
    | 1 => checked (clear b 0xCF) (.vneg a d)
    | 2 => checked (clear b 0xCF) (.vpopc a d)
    | _ => .illegal .undefinedCode
  | 0x9F => checked true (.vand b a d)
  | 0xA1 => checked true (.vor b a d)
  | 0xA3 => checked true (.vxor b a d)
  | 0xA5 => checked true (.vshl b a d)
  | 0xA7 => checked true (.vshr b a d)
  | 0xA9 => checked true (.vcmp b a d)
  | 0xAB => checked true (.vsel b a d)
  | 0xAD => checked (clear b 0x80) (.vcvt (b.extractLsb' 4 3) (b.extractLsb' 0 4) a d)
  | 0xAF => checked (clear b 0xCF) (.vred (b.extractLsb' 4 2) a d)
  | 0xB1 => checked true (.vperm b a d)
  | 0xB3 => checked (clear b 0xFF) (.vbcast a d)
  | 0xB5 => checked true (.vcomp b a d)
  | 0xB7 => checked true (.visect b a d)
  | 0xB9 => checked true (.vexp b a d)
  | 0xBB => checked true (.vdot b a d)
  | 0xBD =>
    match (d.extractLsb' 0 4).toNat with
    | 0 => checked true (.vld b a (d.extractLsb' 4 4))
    | 1 => checked true (.vst b a (d.extractLsb' 4 4))
    | _ => .illegal .undefinedCode
  | 0xBF =>
    match (d.extractLsb' 0 4).toNat with
    | 0 => checked true (.vgat b a (d.extractLsb' 4 4))
    | 1 => checked true (.vsct b a (d.extractLsb' 4 4))
    | _ => .illegal .undefinedCode
  | 0xC1 => checked (clear b 0xC0 && clear a 0xFF) (.mclaim (b.extractLsb' 0 6) d)
  | 0xC3 => checked (clear b 0xFF && clear d 0xFF) (.mrel a)
  | 0xC5 => checked (clear d 0xFF) (.mfill b a)
  | 0xC7 => checked (clear d 0xFF) (.mscale b a)
  | 0xC9 => checked (clear b 0xFE && clear d 0xFF) (.mmac (b.extractLsb' 0 1) a)
  | 0xCB => checked (clear d 0xFF) (.mmask b a)
  | 0xCD =>
    match (d.extractLsb' 4 4).toNat with
    | 8 => checked true (.maccRd b a (d.extractLsb' 0 4))
    | _ => .illegal .undefinedCode
  | 0xCF => checked (clear b 0xFE && clear a 0xFF && clear d 0xFF) (.maccClr (b.extractLsb' 0 1))
  | 0xD1 => checked (clear b 0xF8 && clear a 0xFF && clear d 0xFF) (.msemP (b.extractLsb' 0 3))
  | 0xD3 => checked (clear b 0xF8 && clear a 0xFF && clear d 0xFF) (.msemV (b.extractLsb' 0 3))
  | 0xD5 => checked (clear b 0xFF && clear d 0xFF) (.chadv a)
  | 0xD7 => checked (clear b 0xFF && clear d 0xFF) (.publish a)
  | 0xE1 => checked (clear a 0xF0 && clear d 0xF0) (.cder b (a.extractLsb' 0 4) (d.extractLsb' 0 4))
  | 0xE3 => checked (clear a 0xF0 && clear d 0xF0) (.cbnd b (a.extractLsb' 0 4) (d.extractLsb' 0 4))
  | 0xE5 => checked (clear a 0xF0 && clear d 0xF0) (.cperm b (a.extractLsb' 0 4) (d.extractLsb' 0 4))
  | 0xE7 => checked (clear d 0xF0) (.cseal b (a.extractLsb' 4 4) (a.extractLsb' 0 4) (d.extractLsb' 0 4))
  | 0xE9 => checked (clear b 0xFF && clear d 0xF0) (.cunseal (a.extractLsb' 4 4) (a.extractLsb' 0 4) (d.extractLsb' 0 4))
  | 0xEB => checked (clear d 0xFF) (.cget b (a.extractLsb' 4 4) (a.extractLsb' 0 4))
  | 0xED => checked (clear b 0xFF && clear a 0xF0 && clear d 0xF0) (.cmov (a.extractLsb' 0 4) (d.extractLsb' 0 4))
  | 0xF1 => checked (clear a 0xFF && clear d 0xFF) (.ecall b)
  | 0xF3 => checked (clear b 0xFF && clear a 0xFF && clear d 0xFF) .ebreak
  | 0xF5 => checked (clear b 0xFF && clear a 0xFF && clear d 0xFF) .tret
  | 0xF7 => checked (clear d 0xFF) (.rinv b a)
  | 0xF9 =>
    match (d.extractLsb' 0 3).toNat with
    | 0 => checked (clear b 0xFF && clear a 0xFF && clear d 0xF8) .fenceCell
    | 1 => checked (clear b 0xFF && clear a 0xFF && clear d 0xF8) .fenceTile
    | 2 => checked (clear b 0xFF && clear a 0xFF && clear d 0xF8) .fenceSector
    | 3 => checked (clear b 0xFF && clear a 0xFF && clear d 0xF8) .fenceStack
    | 4 => checked (clear b 0xFF && clear a 0xFF && clear d 0xF8) .fenceDomain
    | _ => .illegal .undefinedCode
  | 0xFB =>
    match (b.extractLsb' 6 2).toNat with
    | 0 => checked (clear b 0x30) (.csrr (b.extractLsb' 0 4 ++ a) d)
    | 1 => checked (clear b 0x30) (.csrw (b.extractLsb' 0 4 ++ a) d)
    | 2 => checked (clear b 0x30) (.csrs (b.extractLsb' 0 4 ++ a) d)
    | 3 => checked (clear b 0x30) (.csrc (b.extractLsb' 0 4 ++ a) d)
    | _ => .illegal .undefinedCode
  | _ => .illegal .unassignedMajor

/-- Fields of a halfword with bytes d, m from the top (R137). -/
def fieldG (m d : Byte) : BitVec 5 := d.extractLsb' 0 2 ++ m.extractLsb' 5 3
def fieldH (d : Byte) : BitVec 5 := d.extractLsb' 2 5
def field6 (d : Byte) : BitVec 6 := d.extractLsb' 2 6
def field11 (m d : Byte) : BitVec 11 := d ++ m.extractLsb' 5 3

/-- The 16-bit word with bytes d, m from the top: m holds the major in [4:1] and a 0 in bit 0 (R143). -/
def decode16 (m d : Byte) : Decoded :=
  let g := fieldG m d
  let h := fieldH d
  match (m.extractLsb' 1 4).toNat with
  | 1 => checked (clear d 0x80) (.movC h g)
  | 2 => checked (clear d 0x80) (.addC h g)
  | 3 => checked (clear d 0x80) (.subC h g)
  | 4 => checked (clear d 0x80) (.andC h g)
  | 5 => checked (clear d 0x80) (.orC h g)
  | 6 => checked (clear d 0x80) (.xorC h g)
  | 7 => checked true (.liC (field6 d) g)
  | 8 => if d.getLsbD 7 then checked true (.shrC h g) else checked true (.shlC h g)
  | 9 => checked true (.bzC (field6 d) g)
  | 10 => checked true (.bnzC (field6 d) g)
  | 11 => checked true (.jC (field11 m d))
  | 12 => checked true (.ldC (d.extractLsb' 7 1) h g)
  | 13 => checked true (.stC (d.extractLsb' 7 1) h g)
  | 14 =>
    match (field11 m d).toNat with
    | 0 => checked true .tendC
    | 1 => checked true .retryC
    | 2 => checked true .hexitC
    | _ => .illegal .undefinedCode
  | _ => .illegal .unassignedMajor

/-- The length of the word that begins with a byte (R131). -/
def wordLength (m : Byte) : Nat := if m.getLsbD 0 then 4 else 2

/-- The instruction that the bytes at an address hold, lowest address first. -/
def decode : List Byte → Decoded
  | m :: d :: t =>
    if m.getLsbD 0 then
      match t with
      | a :: b :: _ => decode32 m d a b
      | _ => .illegal .short
    else decode16 m d
  | _ => .illegal .short

/-- The word as HTVAL holds it: 32 bits as they stand, or 16 bits zero-extended (R145). -/
def wordOf : List Byte → BitVec 32
  | m :: d :: t =>
    if m.getLsbD 0 then
      match t with
      | a :: b :: _ => b ++ a ++ d ++ m
      | _ => (d ++ m).setWidth 32
    else (d ++ m).setWidth 32
  | _ => 0

/-- The instruction that the decoder reads from nbits bits of w, low bits first. -/
def decodeTableWord (nbits w : Nat) : Option Instr :=
  match decode (toBytes (w % 2 ^ nbits) 4) with
  | .instr i => some i
  | .illegal _ => none

/-- The bytes of an instruction, lowest address first; none for a step that has no word. -/
def encode (i : Instr) : List Byte :=
  match i with
  | .addN b a d => [0x01#8, d, a, b]
  | .addD b a d => [0x03#8, d, a, b]
  | .adduN b a d => [0x05#8, d, a, b]
  | .adduD b a d => [0x07#8, d, a, b]
  | .subN b a d => [0x09#8, d, a, b]
  | .subD b a d => [0x0B#8, d, a, b]
  | .subuN b a d => [0x0D#8, d, a, b]
  | .subuD b a d => [0x0F#8, d, a, b]
  | .mulN b a d => [0x11#8, d, a, b]
  | .mulD b a d => [0x13#8, d, a, b]
  | .muluN b a d => [0x15#8, d, a, b]
  | .muluD b a d => [0x17#8, d, a, b]
  | .andN b a d => [0x19#8, d, a, b]
  | .andD b a d => [0x1B#8, d, a, b]
  | .orN b a d => [0x1D#8, d, a, b]
  | .orD b a d => [0x1F#8, d, a, b]
  | .xorN b a d => [0x21#8, d, a, b]
  | .xorD b a d => [0x23#8, d, a, b]
  | .andnN b a d => [0x25#8, d, a, b]
  | .andnD b a d => [0x27#8, d, a, b]
  | .shlRegN b a => [0x29#8, 0x0#8, a, b]
  | .shlRegD b a => [0x2B#8, 0x0#8, a, b]
  | .shrRegN b a => [0x29#8, 0x1#8, a, b]
  | .shrRegD b a => [0x2B#8, 0x1#8, a, b]
  | .sraRegN b a => [0x29#8, 0x2#8, a, b]
  | .sraRegD b a => [0x2B#8, 0x2#8, a, b]
  | .rolRegN b a => [0x29#8, 0x3#8, a, b]
  | .rolRegD b a => [0x2B#8, 0x3#8, a, b]
  | .mulhN b a => [0x29#8, 0x4#8, a, b]
  | .mulhD b a => [0x2B#8, 0x4#8, a, b]
  | .mulhuN b a => [0x29#8, 0x5#8, a, b]
  | .mulhuD b a => [0x2B#8, 0x5#8, a, b]
  | .divN b a => [0x29#8, 0x6#8, a, b]
  | .divD b a => [0x2B#8, 0x6#8, a, b]
  | .divuN b a => [0x29#8, 0x7#8, a, b]
  | .divuD b a => [0x2B#8, 0x7#8, a, b]
  | .remN b a => [0x29#8, 0x8#8, a, b]
  | .remD b a => [0x2B#8, 0x8#8, a, b]
  | .remuN b a => [0x29#8, 0x9#8, a, b]
  | .remuD b a => [0x2B#8, 0x9#8, a, b]
  | .minN b a => [0x29#8, 0xA#8, a, b]
  | .minD b a => [0x2B#8, 0xA#8, a, b]
  | .maxN b a => [0x29#8, 0xB#8, a, b]
  | .maxD b a => [0x2B#8, 0xB#8, a, b]
  | .cmpEqN b a => [0x29#8, 0x10#8, a, b]
  | .cmpEqD b a => [0x2B#8, 0x10#8, a, b]
  | .cmpNeN b a => [0x29#8, 0x11#8, a, b]
  | .cmpNeD b a => [0x2B#8, 0x11#8, a, b]
  | .cmpLtN b a => [0x29#8, 0x12#8, a, b]
  | .cmpLtD b a => [0x2B#8, 0x12#8, a, b]
  | .cmpGeN b a => [0x29#8, 0x13#8, a, b]
  | .cmpGeD b a => [0x2B#8, 0x13#8, a, b]
  | .cmpLtuN b a => [0x29#8, 0x14#8, a, b]
  | .cmpLtuD b a => [0x2B#8, 0x14#8, a, b]
  | .cmpGeuN b a => [0x29#8, 0x15#8, a, b]
  | .cmpGeuD b a => [0x2B#8, 0x15#8, a, b]
  | .movZxN a d => [0x2D#8, d, a, 0x0#8]
  | .movZxD a d => [0x2F#8, d, a, 0x0#8]
  | .movSxN a d => [0x2D#8, d, a, 0x1#8]
  | .movSxD a d => [0x2F#8, d, a, 0x1#8]
  | .popcN a d => [0x2D#8, d, a, 0x2#8]
  | .popcD a d => [0x2F#8, d, a, 0x2#8]
  | .clzN a d => [0x2D#8, d, a, 0x3#8]
  | .clzD a d => [0x2F#8, d, a, 0x3#8]
  | .ctzN a d => [0x2D#8, d, a, 0x4#8]
  | .ctzD a d => [0x2F#8, d, a, 0x4#8]
  | .brevN a d => [0x2D#8, d, a, 0x5#8]
  | .brevD a d => [0x2F#8, d, a, 0x5#8]
  | .unzipRN a d => [0x2D#8, d, a, 0x6#8]
  | .unzipRD a d => [0x2F#8, d, a, 0x6#8]
  | .unzipCN a d => [0x2D#8, d, a, 0x7#8]
  | .unzipCD a d => [0x2F#8, d, a, 0x7#8]
  | .liN i d => [0x31#8, d, i.extractLsb' 0 8, i.extractLsb' 8 8]
  | .liD i d => [0x33#8, d, i.extractLsb' 0 8, i.extractLsb' 8 8]
  | .shlImmN s a d => [0x35#8, d, a, 0x0#2 ++ s]
  | .shlImmD s a d => [0x37#8, d, a, 0x0#2 ++ s]
  | .shrImmN s a d => [0x35#8, d, a, 0x1#2 ++ s]
  | .shrImmD s a d => [0x37#8, d, a, 0x1#2 ++ s]
  | .sraImmN s a d => [0x35#8, d, a, 0x2#2 ++ s]
  | .sraImmD s a d => [0x37#8, d, a, 0x2#2 ++ s]
  | .rolImmN s a d => [0x35#8, d, a, 0x3#2 ++ s]
  | .rolImmD s a d => [0x37#8, d, a, 0x3#2 ++ s]
  | .extN p a d => [0x39#8, d, a, 0x0#2 ++ p]
  | .extD p a d => [0x3B#8, d, a, 0x0#2 ++ p]
  | .insN p a d => [0x39#8, d, a, 0x1#2 ++ p]
  | .insD p a d => [0x3B#8, d, a, 0x1#2 ++ p]
  | .selN b a d => [0x3D#8, d, a, b]
  | .selD b a d => [0x3F#8, d, a, b]
  | .zipN b a d => [0x41#8, d, a, b]
  | .zipD b a d => [0x43#8, d, a, b]
  | .tdesc b a d => [0x45#8, d, a, b]
  | .tasc l a d => [0x47#8, d, a, 0x0#3 ++ l]
  | .tdig n a d => [0x47#8, d, a, 0x1#3 ++ n]
  | .win b a d => [0x49#8, d, a, b]
  | .jump o => [0x4B#8, o.extractLsb' 0 8, o.extractLsb' 8 8, o.extractLsb' 16 8]
  | .jal o d => [0x4D#8, d, o.extractLsb' 0 8, o.extractLsb' 8 8]
  | .jr a d => [0x4F#8, d, a, 0x0#8]
  | .ret a => [0x4F#8, 0x38#8, a, 0x0#8]
  | .bzN o d => [0x51#8, d, o.extractLsb' 0 8, 0x0#2 ++ o.extractLsb' 8 6]
  | .bzD o d => [0x53#8, d, o.extractLsb' 0 8, 0x0#2 ++ o.extractLsb' 8 6]
  | .bnzN o d => [0x51#8, d, o.extractLsb' 0 8, 0x1#2 ++ o.extractLsb' 8 6]
  | .bnzD o d => [0x53#8, d, o.extractLsb' 0 8, 0x1#2 ++ o.extractLsb' 8 6]
  | .dbnzN o d => [0x51#8, d, o.extractLsb' 0 8, 0x2#2 ++ o.extractLsb' 8 6]
  | .dbnzD o d => [0x53#8, d, o.extractLsb' 0 8, 0x2#2 ++ o.extractLsb' 8 6]
  | .bEq b a o => [0x55#8, o, a, b]
  | .bNe b a o => [0x57#8, o, a, b]
  | .bLt b a o => [0x59#8, o, a, b]
  | .bGe b a o => [0x5B#8, o, a, b]
  | .bLtu b a o => [0x5D#8, o, a, b]
  | .bGeu b a o => [0x5F#8, o, a, b]
  | .ldN o a c => [0x61#8, c ++ 0x0#4, a, o]
  | .ldD o a c => [0x63#8, c ++ 0x0#4, a, o]
  | .ldfeN o a c => [0x61#8, c ++ 0x1#4, a, o]
  | .ldfeD o a c => [0x63#8, c ++ 0x1#4, a, o]
  | .ldffN o a c => [0x61#8, c ++ 0x2#4, a, o]
  | .ldffD o a c => [0x63#8, c ++ 0x2#4, a, o]
  | .stN o a c => [0x65#8, c ++ 0x0#4, a, o]
  | .stD o a c => [0x67#8, c ++ 0x0#4, a, o]
  | .stefN o a c => [0x65#8, c ++ 0x1#4, a, o]
  | .stefD o a c => [0x67#8, c ++ 0x1#4, a, o]
  | .stffN o a c => [0x65#8, c ++ 0x2#4, a, o]
  | .stffD o a c => [0x67#8, c ++ 0x2#4, a, o]
  | .stcN o a c => [0x65#8, c ++ 0x3#4, a, o]
  | .stcD o a c => [0x67#8, c ++ 0x3#4, a, o]
  | .cmldN o a => [0x69#8, 0x0#8, a, o]
  | .cmldD o a => [0x6B#8, 0x0#8, a, o]
  | .cmstN o a => [0x69#8, 0x1#8, a, o]
  | .cmstD o a => [0x6B#8, 0x1#8, a, o]
  | .ldcap o k c => [0x6D#8, c ++ 0x0#4, 0x0#4 ++ k, o]
  | .stcap o k c => [0x6D#8, c ++ 0x1#4, 0x0#4 ++ k, o]
  | .spill l s c => [0x6F#8, c ++ 0x0#4, s, l]
  | .fill l s c => [0x6F#8, c ++ 0x1#4, s, l]
  | .amoAdd o a c => [0x71#8, c ++ 0x0#4, a, o]
  | .amoAnd o a c => [0x71#8, c ++ 0x1#4, a, o]
  | .amoOr o a c => [0x71#8, c ++ 0x2#4, a, o]
  | .amoXor o a c => [0x71#8, c ++ 0x3#4, a, o]
  | .amoMin o a c => [0x71#8, c ++ 0x4#4, a, o]
  | .amoMax o a c => [0x71#8, c ++ 0x5#4, a, o]
  | .amoSwap o a c => [0x71#8, c ++ 0x6#4, a, o]
  | .amoCas o a c => [0x71#8, c ++ 0x7#4, a, o]
  | .amoFadd o a c => [0x71#8, c ++ 0x8#4, a, o]
  | .amaxRst o a c => [0x71#8, c ++ 0x9#4, a, o]
  | .amoFaddF16 o a c => [0x71#8, c ++ 0xA#4, a, o]
  | .amoAddPost o a c => [0x73#8, c ++ 0x0#4, a, o]
  | .amoAndPost o a c => [0x73#8, c ++ 0x1#4, a, o]
  | .amoOrPost o a c => [0x73#8, c ++ 0x2#4, a, o]
  | .amoXorPost o a c => [0x73#8, c ++ 0x3#4, a, o]
  | .amoMinPost o a c => [0x73#8, c ++ 0x4#4, a, o]
  | .amoMaxPost o a c => [0x73#8, c ++ 0x5#4, a, o]
  | .amoSwapPost o a c => [0x73#8, c ++ 0x6#4, a, o]
  | .amoFaddPost o a c => [0x73#8, c ++ 0x8#4, a, o]
  | .amoFaddF16Post o a c => [0x73#8, c ++ 0xA#4, a, o]
  | .lapp o a c => [0x75#8, c ++ 0x0#4, a, o]
  | .lmerge d c => [0x75#8, c ++ 0x1#4, d, 0x38#8]
  | .spnext b a d => [0x77#8, d, a, b]
  | .tbegin o => [0x79#8, 0x0#8, o.extractLsb' 0 8, o.extractLsb' 8 8]
  | .orelse o => [0x7B#8, 0x0#8, o.extractLsb' 0 8, o.extractLsb' 8 8]
  | .tend => [0x7D#8, 0x0#8, 0x0#8, 0x0#8]
  | .retry => [0x7F#8, 0x0#8, 0x0#8, 0x0#8]
  | .tabort i => [0x81#8, 0x0#8, 0x0#8, i]
  | .tstat d => [0x83#8, d, 0x0#8, 0x0#8]
  | .tenq b a d => [0x85#8, 0x2#2 ++ d, a, b]
  | .hspawn b a d => [0x87#8, d, a, b]
  | .hexit => [0x89#8, 0x0#8, 0x0#8, 0x0#8]
  | .mig a => [0x8B#8, 0x0#8, a, 0x0#8]
  | .amsg o a c h => [0x8D#8, c ++ h, a, o]
  | .sbind k a => [0x8F#8, 0x0#8, a, 0x0#6 ++ k]
  | .sbindOff k => [0x8F#8, 0x0#8, 0x0#8, 0x20#6 ++ k]
  | .vadd b a d => [0x91#8, d, a, b]
  | .vsub b a d => [0x93#8, d, a, b]
  | .vmul b a d => [0x95#8, d, a, b]
  | .vfma b a d => [0x97#8, d, a, b]
  | .vmin b a d => [0x99#8, d, a, b]
  | .vmax b a d => [0x9B#8, d, a, b]
  | .vabs a d => [0x9D#8, d, a, 0x0#8]
  | .vneg a d => [0x9D#8, d, a, 0x10#8]
  | .vpopc a d => [0x9D#8, d, a, 0x20#8]
  | .vand b a d => [0x9F#8, d, a, b]
  | .vor b a d => [0xA1#8, d, a, b]
  | .vxor b a d => [0xA3#8, d, a, b]
  | .vshl b a d => [0xA5#8, d, a, b]
  | .vshr b a d => [0xA7#8, d, a, b]
  | .vcmp b a d => [0xA9#8, d, a, b]
  | .vsel b a d => [0xAB#8, d, a, b]
  | .vcvt r s a d => [0xAD#8, d, a, 0x0#1 ++ r ++ s]
  | .vred o a d => [0xAF#8, d, a, 0x0#2 ++ o ++ 0x0#4]
  | .vperm b a d => [0xB1#8, d, a, b]
  | .vbcast s d => [0xB3#8, d, s, 0x0#8]
  | .vcomp b a d => [0xB5#8, d, a, b]
  | .visect b a d => [0xB7#8, d, a, b]
  | .vexp b a d => [0xB9#8, d, a, b]
  | .vdot b a d => [0xBB#8, d, a, b]
  | .vld o d c => [0xBD#8, c ++ 0x0#4, d, o]
  | .vst o d c => [0xBD#8, c ++ 0x1#4, d, o]
  | .vgat i d c => [0xBF#8, c ++ 0x0#4, d, i]
  | .vsct i d c => [0xBF#8, c ++ 0x1#4, d, i]
  | .mclaim f d => [0xC1#8, d, 0x0#8, 0x0#2 ++ f]
  | .mrel a => [0xC3#8, 0x0#8, a, 0x0#8]
  | .mfill b a => [0xC5#8, 0x0#8, a, b]
  | .mscale b a => [0xC7#8, 0x0#8, a, b]
  | .mmac n a => [0xC9#8, 0x0#8, a, 0x0#7 ++ n]
  | .mmask b a => [0xCB#8, 0x0#8, a, b]
  | .maccRd b a v => [0xCD#8, 0x8#4 ++ v, a, b]
  | .maccClr n => [0xCF#8, 0x0#8, 0x0#8, 0x0#7 ++ n]
  | .msemP k => [0xD1#8, 0x0#8, 0x0#8, 0x0#5 ++ k]
  | .msemV k => [0xD3#8, 0x0#8, 0x0#8, 0x0#5 ++ k]
  | .chadv a => [0xD5#8, 0x0#8, a, 0x0#8]
  | .publish a => [0xD7#8, 0x0#8, a, 0x0#8]
  | .cder s a d => [0xE1#8, 0x0#4 ++ d, 0x0#4 ++ a, s]
  | .cbnd s a d => [0xE3#8, 0x0#4 ++ d, 0x0#4 ++ a, s]
  | .cperm s a d => [0xE5#8, 0x0#4 ++ d, 0x0#4 ++ a, s]
  | .cseal s b a d => [0xE7#8, 0x0#4 ++ d, b ++ a, s]
  | .cunseal b a d => [0xE9#8, 0x0#4 ++ d, b ++ a, 0x0#8]
  | .cget s l a => [0xEB#8, 0x0#8, l ++ a, s]
  | .cmov a d => [0xED#8, 0x0#4 ++ d, 0x0#4 ++ a, 0x0#8]
  | .ecall i => [0xF1#8, 0x0#8, 0x0#8, i]
  | .ebreak => [0xF3#8, 0x0#8, 0x0#8, 0x0#8]
  | .tret => [0xF5#8, 0x0#8, 0x0#8, 0x0#8]
  | .rinv b a => [0xF7#8, 0x0#8, a, b]
  | .fenceCell => [0xF9#8, 0x0#8, 0x0#8, 0x0#8]
  | .fenceTile => [0xF9#8, 0x1#8, 0x0#8, 0x0#8]
  | .fenceSector => [0xF9#8, 0x2#8, 0x0#8, 0x0#8]
  | .fenceStack => [0xF9#8, 0x3#8, 0x0#8, 0x0#8]
  | .fenceDomain => [0xF9#8, 0x4#8, 0x0#8, 0x0#8]
  | .csrr n d => [0xFB#8, d, n.extractLsb' 0 8, 0x0#4 ++ n.extractLsb' 8 4]
  | .csrw n d => [0xFB#8, d, n.extractLsb' 0 8, 0x4#4 ++ n.extractLsb' 8 4]
  | .csrs n d => [0xFB#8, d, n.extractLsb' 0 8, 0x8#4 ++ n.extractLsb' 8 4]
  | .csrc n d => [0xFB#8, d, n.extractLsb' 0 8, 0xC#4 ++ n.extractLsb' 8 4]
  | .movC h g => [g.extractLsb' 0 3 ++ 0x2#5, 0x0#1 ++ h ++ g.extractLsb' 3 2]
  | .addC h g => [g.extractLsb' 0 3 ++ 0x4#5, 0x0#1 ++ h ++ g.extractLsb' 3 2]
  | .subC h g => [g.extractLsb' 0 3 ++ 0x6#5, 0x0#1 ++ h ++ g.extractLsb' 3 2]
  | .andC h g => [g.extractLsb' 0 3 ++ 0x8#5, 0x0#1 ++ h ++ g.extractLsb' 3 2]
  | .orC h g => [g.extractLsb' 0 3 ++ 0xA#5, 0x0#1 ++ h ++ g.extractLsb' 3 2]
  | .xorC h g => [g.extractLsb' 0 3 ++ 0xC#5, 0x0#1 ++ h ++ g.extractLsb' 3 2]
  | .liC i g => [g.extractLsb' 0 3 ++ 0xE#5, i ++ g.extractLsb' 3 2]
  | .shlC a g => [g.extractLsb' 0 3 ++ 0x10#5, 0x0#1 ++ a ++ g.extractLsb' 3 2]
  | .shrC a g => [g.extractLsb' 0 3 ++ 0x10#5, 0x1#1 ++ a ++ g.extractLsb' 3 2]
  | .bzC o g => [g.extractLsb' 0 3 ++ 0x12#5, o ++ g.extractLsb' 3 2]
  | .bnzC o g => [g.extractLsb' 0 3 ++ 0x14#5, o ++ g.extractLsb' 3 2]
  | .jC o => [o.extractLsb' 0 3 ++ 0x16#5, o.extractLsb' 3 8]
  | .ldC s h g => [g.extractLsb' 0 3 ++ 0x18#5, s ++ h ++ g.extractLsb' 3 2]
  | .stC s h g => [g.extractLsb' 0 3 ++ 0x1A#5, s ++ h ++ g.extractLsb' 3 2]
  | .tendC => [0x1C#8, 0x00#8]
  | .retryC => [0x3C#8, 0x00#8]
  | .hexitC => [0x5C#8, 0x00#8]
  | _ => []

end Sys2Proof
end

