-- ==== Sys2Proof/Config.lean ====
section
/-! DEFINITION. What the manual leaves open: free values without a body, so that no proof can rest on
one (assumption log 6), and the sizes an installation fixes. -/

namespace Sys2Proof.Config

/-- The home sector (die × 8 + sector) of a line of global memory: the hash of R14 is not given. -/
opaque homeSector : Nat → Nat

/-- The channel of its stack that holds a line (R348): its place in the stack follows the hash of R14. -/
opaque channel : Nat → Nat

/-- Cycles that pass before an observation of the time base or a cell clock (log 5). -/
opaque elapsed : Nat → Nat

/-- The bytes of the mask-programmed boot ROM, by offset (R353 gives its effect, not its words). -/
opaque romByte : Nat → BitVec 8

/-- Address at which the boot ROM enters the provider image (R353, step 5). -/
opaque providerEntry : BitVec 54

/-- A value read from host memory (R309): the host may change it at any time. -/
opaque hostWord : Nat → BitVec 512

/-- The value of a RAW unit that a quantize command reads, as an FP32 code (R85, R253): RAW carries no numeric value. -/
opaque rawValue : BitVec 64 → BitVec 32

/-- The start nonce that LOCK_INTERFACE_REQUEST returns (R341). -/
opaque nonce : Nat → BitVec 256

/-- SHA3-256 of the identity public key (R339, R357). -/
opaque deviceHash : BitVec 256

/-- SHA3-256 digest of data that the model does not hold (R345); the argument names what is digested. -/
opaque digest : List Nat → BitVec 256

/-- An ML-DSA-44 signature over data (R332, R345, R357). -/
opaque signature : List Nat → Nat

/-- Whether a directed refresh of a bank is still outstanding (R349): its duration is not given. -/
opaque refreshing : Nat → Bool

/-- The stack (die × 2 + stack) of a bank number, and the physical address of a row of it (R347, R349). -/
opaque bankStack : Nat → Nat
opaque rowAddress : Nat → Nat → Nat

/-- The bytes of on-die storage that a scrub clears (R357): their number is not given. -/
opaque storageBytes : Nat

/-- The line that stands at an in-channel place of a stack (R348, R350): it follows the hash of R14. -/
opaque stackLine : Nat → Nat → Nat

/-- Do the fuses fail to be read, and does the wipe fail, at a boot (R353)? -/
opaque fuseFails : Nat → Bool
opaque wipeFails : Nat → Bool

/-- What a host read of BAR0 finds where no rule gives a value (R323). -/
opaque barWord : Nat → BitVec 64

/-- The 64-bit tag with which an interface seals a message, by generation of the key set, interface and counter (R334): the
keys are drawn at random, and no nonce seals two messages. -/
opaque sealTag : Nat → Nat → Nat → BitVec 64

/-- The direction in which a tile's injection faces its router (R318): no rule gives it. -/
opaque tileFacing : Nat

/-- The tile that owns the exit of a die toward another die, and that at which the link from another die enters (R318). -/
opaque exitTile : Nat → Nat → Nat
opaque entryTile : Nat → Nat → Nat

end Sys2Proof.Config
end

