-- ==== Sys2Proof/Machine/State.lean ====
section
/-! DEFINITION. The state of a Xanrik domain of DX9 dies as plain data: every piece of state the
manual names (INVENTORY.md lists it with its rules), the state after reset, and the reasons a step can
stop. Names of harts, cells and tiles are hart-name bits (R7) read as numbers; memory and pans share
one address line (`panBase`). -/

namespace Sys2Proof.Machine

open Sys2Proof

/-- Reasons a step can stop with a fault. Every fault the manual names is a trap and a next state, so
none is raised by an instruction. -/
inductive Fault where
  /-- Raised by no instruction: the manual's faults are traps (R284). Safe: a stop proves nothing. -/
  | none
  deriving DecidableEq, Repr

/-- Reasons an instruction has no meaning here. -/
inductive Refusal where
  /-- Raised only by an arm of exec whose instruction has no meaning yet. Safe: the machine stops. -/
  | notModelled (mnemonic : String)
  deriving DecidableEq, Repr

/-- Privilege modes (R279). -/
inductive Mode where
  /-- code 0 -/
  | user
  /-- code 1 -/
  | kernel
  /-- code 3 -/
  | firmware
  deriving DecidableEq, Repr

/-- A capability register: 128 bits and the tag (R38). -/
structure Cap where
  bits : BitVec 128
  tag : Bool
  deriving DecidableEq, Repr

/-- What a hart can wait on: the read set of R113. -/
inductive Loc where
  /-- a line of memory, by line number -/
  | line (n : Nat)
  /-- the hart's own granules, vector and capability registers -/
  | regs
  /-- the hart's mailbox -/
  | mailbox
  /-- a stream buffer of the hart -/
  | stream (k : Nat)
  /-- the tag pool of the hart's slot (R81) -/
  | tags
  /-- the hart's completion word (R110) -/
  | completion
  /-- the occupancy word of a cell, a tile or a sector (R73, R80) -/
  | occ (level : Nat) (unit : Nat)
  /-- the operand-memory occupancy word of a tile (R232) -/
  | opm (tile : Nat)
  /-- a semaphore word (R237) -/
  | sem (tile : Nat) (k : Nat)
  /-- the matrix queue word of a tile (R241) -/
  | mq (tile : Nat)
  /-- the log-occupancy word of a home (R189) -/
  | logs
  /-- the forwarding table of the hart's cell (R81) -/
  | fwd
  deriving DecidableEq, Repr

/-- The key of a task (R124): a timestamp, the enqueuer's key and its count of earlier `tenq`s. -/
inductive TaskKey where
  /-- an enqueuer that runs no task: its name word -/
  | root (name : Nat)
  /-- the key (T, K, n) -/
  | node (t : Nat) (k : TaskKey) (n : Nat)
  deriving DecidableEq, Repr

/-- An addend of `amo.fadd` in FP32 value terms (R102): a multiple of 2^-149, or a special. -/
inductive FAdd where
  | num (a : Int)
  | pinf
  | ninf
  | nan
  deriving DecidableEq, Repr

/-- An exact accumulator (R102). -/
structure Accum where
  a : BitVec 448
  pinf : Bool
  ninf : Bool
  nan : Bool
  deriving DecidableEq, Repr

/-- The kind of update a log entry carries (R189). -/
inductive LogKind where
  | int32
  | int64
  | fp32
  deriving DecidableEq, Repr

/-- An entry of an update log (R189): the location in bytes, kind, operand, source name and append sequence
(R128). `pan`, `ctx` and `va` are the space and address of the `lapp`, by which an `lmerge` chooses it
(R190); `hist` is what the `lapp` follows (R106). -/
structure LogEntry where
  loc : Nat
  kind : LogKind
  val : Word
  src : Nat
  seq : Nat
  pan : Bool
  ctx : Nat
  va : Nat
  hist : List Nat
  deriving DecidableEq, Repr

/-- A trap bank (R282): the H or the FW registers of a hart. -/
structure TrapBank where
  pxiv : Bool
  pwait : Bool
  pie : Bool
  ie : Bool
  ss : Bool
  pmode : Mode
  cause : BitVec 10
  epc : Addr
  tval : Word
  base : BitVec 44
  scratch : Word
  deriving DecidableEq, Repr

/-- A word as a reader sees it: data, full/empty and tag bits, and the accumulators of its two 32-bit locations. -/
structure WordView where
  val : Nat
  fe : Bool
  tag : Bool
  lo : Option Accum
  hi : Option Accum
  deriving DecidableEq, Repr

/-- What a task sees of a word in place of what memory holds (R126), by what the ancestor of a key wrote: bits by mask,
and, if `own`, the full/empty and tag bits. -/
structure Seen where
  w : Nat
  of : TaskKey
  view : WordView
  mask : Word
  own : Bool
  deriving DecidableEq, Repr

/-- A task as its unit holds it (R197, R327). `inh` are the words that it sees in place of memory's:
the parent's writes before the `tenq`, and after the parent's commit what its later writes replaced (R126).
`upto` is the first request number after the `tenq`; `hist` what happens before it (R106); `wakeOn`
holds the lines it waits for after a `retry`, if it does (R192); `acked` says that its enqueuer's send has been
acknowledged. -/
structure TaskEnq where
  key : TaskKey
  tile : Nat
  src : Nat
  pc : Addr
  a0 : BitVec 32
  a1 : BitVec 32
  a2 : BitVec 32
  mode : Mode
  caps : List Cap
  cbad : BitVec 16
  hwaitlim : BitVec 32
  hb : TrapBank
  fb : TrapBank
  fwdeleg : BitVec 16
  hie : BitVec 4
  inh : List Seen
  upto : Nat
  hist : List Nat
  wakeOn : Option (List Nat)
  acked : Bool
  deriving DecidableEq, Repr

/-- A change of memory at its home, and what a transaction holds until its commit (R116). -/
inductive MOp where
  /-- bits of a word by mask; the word becomes full and its tag clear (R42) -/
  | word (w : Nat) (val mask : Word)
  /-- the full/empty bit set empty (R179) -/
  | empty (w : Nat)
  /-- an aligned pair of words with its tag (R183) -/
  | pair (w : Nat) (val : BitVec 128) (tag : Bool)
  /-- an exact addition at a 4-byte location (R102) -/
  | fadd (a4 : Nat) (t : FAdd)
  /-- an append to a log (R189) -/
  | log (e : LogEntry)
  /-- a task to enqueue (R121) -/
  | task (t : TaskEnq)
  /-- a line that a `vst` covers whole is no longer failed in its sector slice (R287) -/
  | heal (l : Nat)
  /-- bits of 64 bytes of host memory (R309) -/
  | host (pasid addr : Nat) (val mask : Line)
  deriving DecidableEq, Repr

/-- Atomic operations of R184 but for the exact additions. -/
inductive AmoOp where
  | add | and | or | xor | min | max | swap | cas | maxrst
  deriving DecidableEq, Repr

/-- The transaction registers of a hart (R116 to R123). `reads` and `buf` hold lines and held changes with the number of
the alternative that made them, a change also with its request; `stale` are lines that only abandoned alternatives read
(R117); `mark` is the last alternative before M (R119); `doom` is an abort decided at a home. -/
structure Txn where
  id : Nat
  depth : Nat
  status : Nat
  detail : Nat
  abortPc : Addr
  beginPc : Addr
  beginTime : Nat
  reuse : Bool
  reads : List (Nat × Nat)
  stale : List Nat
  buf : List (Nat × Nat × MOp)
  alt : Option Addr
  mark : Nat
  gen : Nat
  woken : Bool
  doom : Option (Nat × Nat)
  deriving DecidableEq, Repr

/-- The task a hart runs (R125, R126). -/
structure TaskRun where
  key : TaskKey
  enq : TaskEnq
  sent : Nat
  children : List TaskKey
  ended : Bool
  deriving DecidableEq, Repr

/-- A stream binding: its tag and the buffered elements, each a width in bits and a value (R48). -/
structure Stream where
  tag : Nat
  buf : List (Nat × Word)
  deriving DecidableEq, Repr

/-- Where a migration goes (R80). -/
inductive MigTo where
  /-- a named cell -/
  | cell (c : Nat)
  /-- any general cell of a tile -/
  | tile (t : Nat)
  /-- the cell of a bank, else any general cell of its tile -/
  | bank (c : Nat)
  deriving DecidableEq, Repr

/-- Whether a hart issues, and what holds it if not (R70, R113, R180). -/
inductive Stat where
  /-- in the rotation -/
  | running
  /-- waiting with a read set (R113) -/
  | waiting (on : List Loc)
  /-- parked on a translation miss of an address (R304) -/
  | missed (a : Nat)
  /-- parked at an ABSENT entry, on the line that holds it (R306) -/
  | absent (line : Nat)
  /-- parked on a HOST access (R309): phase 0 a translation is asked for, 1 a page request is out, 2 a translation is
  asked for again -/
  | hostPark (a : Nat) (write : Bool) (phase : Nat)
  /-- held until the reply of a performed form lands (R180) -/
  | held (pend : Nat)
  /-- held until its transaction reaches the commit point (R118) -/
  | committing
  /-- migrating, not yet departed (R79, R80) -/
  | departing (dst : MigTo)
  /-- migrating with a slot reserved, while the forwarding table is full (R79, R81) -/
  | leaving (slot : Nat)
  /-- a task body that has executed `hexit` (R125) -/
  | taskDone
  /-- retired; the slot is not yet free (R74) -/
  | retired
  /-- no hart stands here -/
  | free
  /-- the boot ROM (R353): 0 nothing has run, 1 and 2 the step that runs, 3 the ROM waits for stack 0, 4 for a start
  message, 5 die 0's stack is trained, 6 to 8 the step 3 to 5 that runs -/
  | booting (step : Nat)
  deriving DecidableEq, Repr

/-- What a resolved translation covers (R298 to R302): its block, the run of units mapped, and how a
unit is found. `src` is 0 for the firmware map, 1 DIRECT, 2 a leaf, 3 HOST. -/
structure Mapping where
  src : Nat
  path : Nat
  depth : Nat
  limit : Nat
  hole : Option (Nat × Nat)
  frame : Nat
  fmt : Nat
  strip : Nat
  shadow : Option Nat
  pasid : Nat
  deriving DecidableEq, Repr

/-- A hart (R50 to R84, R279 to R293). `walked` and `walkFaults` are what walks found for the instruction it
presents, until it issues (R304); `out` are its requests in flight, `hist` the writes in its causal history
(R82, R106, R109), `work` its fills, matrix entries and `macc.rd` rows not yet ended, `rels` the fills whose end completes
an `mrel` of it (R238). -/
structure Hart where
  name : Name
  pc : Addr
  mode : Mode
  slices : BitVec 1024
  gfull : BitVec 32
  gbad : BitVec 32
  v : List Line
  vfull : BitVec 16
  vbad : BitVec 16
  c : List Cap
  cfull : BitVec 16
  cbad : BitVec 16
  xw : BitVec 32
  xi : BitVec 32
  xe : BitVec 32
  xt : BitVec 32
  xm : List (BitVec 32)
  xiv : Bool
  rx : Word
  rxFull : Bool
  rxq : List Word
  hwaitlim : BitVec 32
  hb : TrapBank
  fb : TrapBank
  fwdeleg : BitVec 16
  hie : BitVec 4
  hip : BitVec 4
  hipVal : List Word
  hipi : BitVec 32
  htcmp : Word
  txn : Txn
  task : Option TaskRun
  nenq : Nat
  streams : List (Nat × Stream)
  unacked : Nat
  stat : Stat
  woken : Bool
  epoch : BitVec 8
  stepped : Bool
  handles : Option (Nat × Nat)
  walked : List Mapping
  walkFaults : List (Nat × Nat)
  out : List Nat
  hist : List Nat
  work : List Nat
  rels : List Nat
  deriving DecidableEq, Repr

/-- A TLB entry (R303), most recently used first in its cell's list. -/
structure TlbEntry where
  slot : Nat
  fw : Bool
  map : Mapping
  deriving DecidableEq, Repr

/-- A `cmst` not yet applied (R69): first slice, number of slices, value. -/
structure CommonsStore where
  off : Nat
  n : Nat
  val : Word
  src : Nat
  deriving DecidableEq, Repr

/-- A forwarding entry (R81): the old slot, the replies still due there, the new name. -/
structure Fwd where
  slot : Nat
  pends : List Nat
  new : Nat
  deriving DecidableEq, Repr

/-- An active message queued at a cell (R198). -/
structure AmReq where
  sender : Nat
  pend : Nat
  sub : Nat
  arg : Word
  addr : Nat
  cap : Cap
  mode : Mode
  hwaitlim : BitVec 32
  hb : TrapBank
  fb : TrapBank
  fwdeleg : BitVec 16
  hie : BitVec 4
  deriving DecidableEq, Repr

/-- A cell (R68, R69, R71, R81, R198, R303). -/
structure Cell where
  commons : BitVec 1024
  cbad : BitVec 256
  stq : List CommonsStore
  hamvec : Word
  fwd : List Fwd
  tagNext : List (Nat × Nat)
  rot : Nat
  tlb : List TlbEntry
  amq : List AmReq
  deriving DecidableEq, Repr

/-- State of an operand slot (R227). -/
inductive SlotState where
  | free
  | claimed
  | releasing
  deriving DecidableEq, Repr

/-- An operand slot (R227): `elems` lists element codes by x × 1024 + k, newest first; an element is
present when its newest entry holds a code. `bad` lists failed elements; `found` says that a product has read one
(R287). -/
structure Slot where
  state : SlotState
  fmt : Nat
  elems : List (Nat × Option (BitVec 32))
  scaleAll : BitVec 8
  scales : List (Nat × BitVec 8)
  fills : Nat
  pins : Nat
  bad : List Nat
  found : Bool
  deriving DecidableEq, Repr

/-- What an operand slot receives (R234, R236). -/
inductive FillOp where
  /-- every scale set to one value -/
  | uniform (x : BitVec 8)
  /-- the scales, from bytes at an offset of the source -/
  | scales
  /-- a square: TR, X0, K0 and its side -/
  | square (tr : Bool) (x0 k0 side : Nat)
  deriving DecidableEq, Repr

/-- A fill in flight (R234, R236): its source as it stood at issue (R262) with the mappings found then; `pan` is
the tile of a pan source, `fmt` the format of its contents, `key` the key set of its reads, `after` the
writes it follows (R106), `n` the units that it reads. -/
structure Fill where
  id : Nat
  slot : Nat
  op : FillOp
  off : Nat
  n : Nat
  cap : Cap
  pan : Option Nat
  fmt : Nat
  maps : List Mapping
  key : Nat
  after : List Nat
  deriving DecidableEq, Repr

/-- An entry of the matrix queue (R241). `pends` are the replies a `macc.rd` owes, each with its column group. -/
inductive MJob where
  | mmac (id : Nat) (bank : Nat) (sa sb : Nat) (rm cm : BitVec 128)
  | clr (id : Nat) (bank : Nat)
  | rd (id : Nat) (bank : Nat) (row : Nat) (pends : List (Nat × Nat))
  deriving DecidableEq, Repr

/-- A posted `msem.v` of a hart on a semaphore word (R238): `deps` are the fills, matrix entries and replies it
waits for. -/
structure SemV where
  id : Nat
  src : Nat
  w : Nat
  deps : List Nat
  hist : List Nat
  txn : Option (Nat × Nat)
  deriving DecidableEq, Repr

/-- An entry of a trace ring (R112). -/
structure TraceEntry where
  src : Nat
  word : Nat
  bmask : BitVec 8
  seq : Nat
  remote : Bool
  deriving DecidableEq, Repr

/-- A trace ring of a bank port (R111): entries oldest first, entries appended, and the words whose
last logged write is a remote store. -/
structure Ring where
  entries : List TraceEntry
  count : Nat
  last : List Nat
  deriving DecidableEq, Repr

/-- A chain registered with an engine (R246, R247): where its header lies and the block that maps it (depth and path), and
under which capability and map it was last advanced (the header is at the capability's first address); `stale` says that
`rinv` has dropped the header's translation (R307), `adv` names the hart that last advanced it. `maps` says under which map
the commands up to a count are run: that of the `chadv` which made them available (R297). -/
structure Chain where
  hdr : Nat
  stale : Bool
  cap : Cap
  fw : Bool
  blk : Nat × Nat
  maps : List (Nat × Bool)
  adv : Nat
  hist : List Nat
  deriving DecidableEq, Repr

/-- A unit of a square that the quantizer has read: its number in the square, its code with its scale if it is present,
and its place if it is written: frame, unit and mapping (R254). -/
structure QElem where
  i : Nat
  src : Option (Nat × Option Nat)
  dst : Option (Nat × Nat × Mapping)
  deriving DecidableEq, Repr

/-- A command an engine runs: the chain's header, its address and words, the next unit (R251), and what it follows
(R106). `fw` is the map under which it runs (R297). For the quantizer `amax` and `bins` gather its statistics, `units` the
units read of the square under way. -/
structure CmdRun where
  hdr : Nat
  cur : Nat
  fw : Bool
  words : List Word
  tag0 : Bool
  tag1 : Bool
  z : Nat
  srcFmt : Option Nat
  dstFmt : Option Nat
  amax : Nat
  bins : List (Nat × Nat)
  units : List QElem
  hist : List Nat
  deriving DecidableEq, Repr

/-- An engine of a tile: chains in turn order, and the running command. `ats` is the unit of a HOST page that waits for the
host, and how far that has come: 0 a translation is asked for, 1 a page request is out, 2 a translation is asked for
again, 3 it was denied (R309). -/
structure Engine where
  chains : List Chain
  run : Option CmdRun
  ats : Option (Nat × Nat)
  deriving DecidableEq, Repr

/-- A tile (R227 to R246, R111, R327). Its eight semaphore words lie in memory, from `semBase` on. -/
structure Tile where
  slots : List Slot
  fills : List Fill
  acc0 : List (Nat × BitVec 32)
  acc1 : List (Nat × BitVec 32)
  accBad : List (Nat × Nat)
  rm : BitVec 128
  cm : BitVec 128
  semHeld : List SemV
  semv : List SemV
  mq : List MJob
  rings : List (Nat × Ring)
  copy : Engine
  quant : Engine
  tasks : List TaskEnq
  spill : List TaskEnq
  deriving DecidableEq, Repr

/-- What a request does at its home (R105). -/
inductive HomeOp where
  /-- read a word -/
  | read (w : Nat)
  /-- read a line -/
  | readLine (l : Nat)
  /-- read an aligned pair with its tags; the flag is LCAP (R183) -/
  | readPair (w : Nat) (lcap : Bool)
  /-- full/empty loads (R179): empty the word if the flag is set -/
  | loadFull (w : Nat) (take : Bool)
  /-- write bits of words of one line -/
  | write (l : List MOp)
  /-- full/empty stores (R179): into an empty word if the flag is set, else into a full one -/
  | storeFull (w : Nat) (val mask : Word) (toEmpty : Bool)
  /-- an atomic on the 32 or 64 bits at a bit offset of a word (R184, R185) -/
  | amo (op : AmoOp) (w off width : Nat) (x e : Word)
  /-- an exact addition; the reply is FP32 (0), BF16 (1) or FP16 (2) (R186) -/
  | fadd (a4 : Nat) (t : FAdd) (ret : Nat)
  /-- an append to the log of a word (R189) -/
  | lapp (e : LogEntry)
  /-- a merge of the entries of a space in a block: depth and first address (R190) -/
  | lmerge (pan : Bool) (ctx : Nat) (depth path : Nat)
  /-- `msem.p` on a semaphore word (R237) -/
  | semP (w : Nat)
  /-- `chadv`: the chain, the count, the engine of a tile (R246) -/
  | chadv (ch : Chain) (n : Nat) (tile : Nat) (eng : Bool)
  /-- `publish` of a region: of a tile's pan or of the hart's global space, depth and first address (R249) -/
  | publish (pan : Option Nat) (depth path : Nat)
  /-- a claim at the leader (R199) -/
  | spnext (ctr : Nat) (count : Nat) (width : Nat)
  /-- a claim that the leader has performed, from a first index on, and the replica has not acknowledged (R330) -/
  | spanAck (ctr : Nat) (count : Nat) (width : Nat) (base n : Nat)
  /-- a claim that the replica has acknowledged: its reply leaves the leader (R330) -/
  | spanReply (ctr : Nat) (count : Nat) (width : Nat) (base : Nat)
  /-- a read of 64 bytes of host memory from an address on (R309) -/
  | hostRead (pasid : Nat) (addr : Nat)
  /-- a write of bits of 64 bytes of host memory -/
  | hostWrite (pasid : Nat) (addr : Nat) (val mask : Line)
  deriving DecidableEq, Repr

/-- A sealed message (R334): the sealing interface, the key id, the interface's counter for it, and the tag. -/
structure Seal where
  iface : Nat
  key : Nat
  ctr : Nat
  tag : Word
  deriving DecidableEq, Repr

/-- A request in flight (R105). `own` are the earlier requests of its hart that may share a line with it (R105), `hist`
the accesses that happen before it (R108); `txn` names its transaction and alternative; `key` the key set of
its access; `counted` that it is an unacknowledged store; `va` the address that a trap of it reports. `passed` are the
lines of requests that happen after it and have been performed (R108); `stamp` is its seal, if it leaves its tile (R334). -/
structure Req where
  id : Nat
  src : Nat
  op : HomeOp
  line : Nat
  pend : Option Nat
  part : Nat
  isWrite : Bool
  counted : Bool
  remote : Bool
  fw : Bool
  key : Nat
  txn : Option (Nat × Nat)
  own : List Nat
  hist : List Nat
  va : Nat
  passed : List Nat
  stamp : Option Seal
  deriving DecidableEq, Repr

/-- Where a reply lands (R59). -/
inductive Dest where
  /-- slices: first slice and number -/
  | slices (s n : Nat)
  /-- nothing: the value is discarded (R175) -/
  | none
  /-- a vector register -/
  | vec (k : Nat)
  /-- a capability register -/
  | cap (k : Nat)
  /-- a result written to rx, of a width in bits (R63) -/
  | rx (w : Nat)
  /-- a result of a width sent to the hart that xt named at issue (R64) -/
  | tx (w dst : Nat)
  deriving DecidableEq, Repr

/-- How the parts of a reply make its value. `six` says that the containers hold 6-bit elements (R29). -/
inductive Shape where
  /-- bits of part 0 from a bit offset -/
  | scalar (off width : Nat) (six : Bool)
  /-- bit planes: first element in the group, number of elements, precision (R360) -/
  | planes (first n k : Nat)
  /-- lanes of width e: for each lane the first of its parts, the bit offset in it, the precision of a bit-plane page,
  else 0, and whether its container holds a 6-bit element -/
  | lanes (e : Nat) (l : List (Option (Nat × Nat × Nat × Bool)))
  /-- the lines of a fill: of each piece of its run their number, the bit offset in the first and the bits; number of
  slices (R181) -/
  | bytes (pieces : List (Nat × Nat × Nat)) (nslices : Nat)
  /-- a line; `blk` is the element width of a block, 0 if contiguous (R223) -/
  | line (six : Bool) (blk : Nat)
  /-- the plane rows of a `vld` of precision k -/
  | planesLine (k blk : Nat)
  /-- a pair with its tag in bit 128 -/
  | pair
  deriving DecidableEq, Repr

/-- A reply that a hart awaits: `origin` is the slot it was issued from, `route` where it now goes
(R81); `parts` fill as its requests are performed. A full/empty form keeps in `next` and `eats` what it does
to the pc and to its special sources once it has been performed (R180): 0 to 3 for st0 to st3, 4 for rx. `txn` is the
transaction that it belongs to, `done` the lines whose requests have been performed, with what each has found. -/
structure Pend where
  id : Nat
  origin : Nat
  route : Nat
  dest : Dest
  shape : Shape
  parts : List (Option (BitVec 520))
  tags : List Nat
  holds : Bool
  next : Option Addr
  eats : List Nat
  hist : List Nat
  txn : Option Nat
  done : List (Nat × List Nat)
  deriving DecidableEq, Repr

/-- A message of `tx` in the mesh (R64, R318): the tile at which it ejects next, the turn list of its leg, the tile that sent
it to its destination, whether it has reached the destination's cell and is held there, and its seal. -/
structure Msg where
  id : Nat
  src : Nat
  dst : Nat
  val : Word
  at_ : Nat
  turns : Word
  via : Nat
  held : Bool
  hist : List Nat
  stamp : Option Seal
  deriving DecidableEq, Repr

/-- An interrupt on its way (R291): `via` is the tile that sent it to its destination. -/
structure Ipi where
  id : Nat
  src : Nat
  dst : Nat
  bit : Nat
  via : Nat
  hist : List Nat
  stamp : Option Seal
  deriving DecidableEq, Repr

/-- A wake-table entry (R115). -/
structure WakeEntry where
  line : Nat
  hart : Nat
  epoch : BitVec 8
  deriving DecidableEq, Repr

/-- The side-band storage of a line (R19, R336): full/empty and tag bits of its words, wipe and pending
marks, the key set (id and generation) that sealed it, and whether its tag check fails (R337). `badWords`
marks failed words of a pan, `sliceBad` a failed line of a sector slice (R287); `ecc` says that ECC cannot correct the stored
line, `lost` that the line rebuilt from parity does not pass ECC (R348). -/
structure SideBand where
  fe : BitVec 8
  tag : BitVec 8
  wiped : Bool
  pending : Bool
  key : Nat
  gen : Nat
  bad : Bool
  badWords : BitVec 8
  sliceBad : Bool
  ecc : Bool
  lost : Bool
  deriving DecidableEq, Repr

/-- Memory: bytes in canonical form, and side bands in canonical form. -/
structure Mem where
  cells : List Host.Cell
  side : List (Nat × SideBand)
  deriving DecidableEq, Repr

/-- A pending engine write (R248): the bits of a word, whether the word is a pan's, the shadow address that holds a word of
global memory (R298), the key set of the engine that wrote it, and what the write follows (R106). -/
structure PendWrite where
  w : Nat
  val : Word
  mask : Word
  pan : Bool
  held : Option Nat
  key : Nat
  hist : List Nat
  deriving DecidableEq, Repr

/-- An OPEN partition as the manager holds it (R314, R325, R328, R330). -/
structure Partition where
  n : Nat
  whole : Bool
  hostf : Bool
  topo : Nat
  die : Nat
  row0 : Nat
  row1 : Nat
  col0 : Nat
  col1 : Nat
  diemask : Word
  rangetab : Nat
  syspage : Nat
  spill : Nat
  spilln : Nat
  gen : Nat
  parks : Nat
  leader : Nat
  replica : Option Nat
  frontier : Option TaskKey
  deriving DecidableEq, Repr

/-- A span counter (R199, R329): its partition, NEXT and LIMIT, and the replica's NEXT. -/
structure Span where
  id : Nat
  part : Nat
  next : Nat
  limit : Nat
  copy : Nat
  deriving DecidableEq, Repr

/-- A die (R353, R304): boot status word, trained stacks, cached range entries by partition and index. -/
structure Die where
  boot : Word
  trained0 : Bool
  trained1 : Bool
  ranges : List (Nat × Line)
  failed : Bool
  deriving DecidableEq, Repr

/-- Life-cycle states (R338). -/
inductive LifeCycle where
  | blank
  | provider
  | leased
  | recovery
  | retired
  deriving DecidableEq, Repr

/-- States of the host interface (R341). -/
inductive Iface where
  | unlocked
  | locked
  | run
  | quiesced
  | error
  deriving DecidableEq, Repr

/-- An ATC entry (R309). -/
structure AtcEntry where
  pasid : Nat
  page : Nat
  r : Bool
  w : Bool
  deriving DecidableEq, Repr

/-- A signed image in the boot flash (R353, R354, R358): its name for the digest, security version,
vector base, and whether its signature verifies. -/
structure Image where
  id : Nat
  version : Nat
  vec : BitVec 44
  good : Bool
  tenant : Bool
  deriving DecidableEq, Repr

/-- What the host port last answered (R323, R339, R342, R344, R345, R353, R357). -/
inductive Answer where
  | none
  | nonce (v : BitVec 256)
  | report (info : List Nat)
  | measurements (blocks : List (BitVec 256)) (raw : List Nat) (sig : Option Nat)
  | bootStatus (words : List Word)
  | word (v : Word)
  | unsupported
  | scrubRecord (bytes : List Nat) (sig : Nat)
  | invalidRequest
  deriving DecidableEq, Repr

/-- The host port (R323, R340 to R343, R309). `invals` holds for each Invalidate Request the accesses that its completion
waits for, `invalsDone` counts the completions sent (R309). -/
structure HostPort where
  iface : Iface
  session : Bool
  ideKeys : Bool
  nonce : BitVec 256
  draining : Bool
  atc : List AtcEntry
  invals : List (List Nat)
  invalsDone : Nat
  mbovf : Word
  sent : List (Nat × Nat × Line × Line)
  answer : Answer
  deriving DecidableEq, Repr

/-- The security block and the boot flash (R332 to R346, R353 to R358). -/
structure Trust where
  life : LifeCycle
  counter : Nat
  recCounter : Nat
  providerHash : Option (BitVec 256)
  fwGen : Nat
  genNext : Nat
  flashProvider : Option Image
  flashTenant : Option Image
  staging : Option Image
  active : Option Image
  activeTenant : Option Image
  actpend : Bool
  minVersion : Nat
  scrubbing : Bool
  scrubStart : Nat
  scrubDone : Bool
  scrubFrom : Nat
  scrubCount : Nat
  scrubRec : Option (List Nat × Nat)
  deriving DecidableEq, Repr

/-- A row tracker of an HBM bank (R349). -/
structure Tracker where
  rows : List (Nat × Nat)
  refreshing : Bool
  deriving DecidableEq, Repr

/-- A scrubber of a stack (R350, R351). -/
structure Scrub where
  pos : Nat
  start : Nat
  escalated : Bool
  passes : Nat
  uncorr : List (Nat × Nat)
  deriving DecidableEq, Repr

/-- Memory care (R347 to R351, R359). -/
structure Care where
  trackers : List (Nat × Tracker)
  refreshes : List (Nat × Nat)
  scrubs : List (Nat × Scrub)
  full : Bool
  elogNext : Nat
  deriving DecidableEq, Repr

/-- One entry of the order in which moves come: an event takes place, a hart issues, or two harts of one cell issue in the
same cycle, on its two ports (R258; log 1). -/
inductive Choice where
  | happen (e : Instr)
  | issue (h : Name)
  | both (h h' : Name)
  deriving DecidableEq, Repr

/-- The state of the domain. `me` is the hart whose turn it is. `whist` holds for each word what the writes that left its
bits follow (R106): masks of its 64 bits, and of bit 64 for its full/empty and tag state. `misses` names the harts that
parked on a translation miss, in order of arrival (R304). `seals` holds for each sealing interface and key id, as
interface × 32 + id, the messages sealed since the key set was made (R334). -/
structure State where
  me : Hart
  harts : List Hart
  choices : List Choice
  free : Nat
  ids : Nat
  pkgs : Nat
  cxl : Nat
  time : Nat
  cycle : Nat
  mem : Mem
  accs : List (Nat × Accum)
  logs : List LogEntry
  pendw : List PendWrite
  reqs : List Req
  pends : List Pend
  acks : List Nat
  msgs : List Msg
  ipis : List Ipi
  migs : List Hart
  enqs : List (Nat × TaskEnq)
  misses : List Nat
  whist : List (Nat × List (Nat × List Nat))
  wake : List WakeEntry
  cells : List (Nat × Cell)
  tiles : List (Nat × Tile)
  dies : List (Nat × Die)
  parts : List Partition
  spans : List Span
  fenced : List Nat
  seals : List (Nat × Nat)
  host : HostPort
  trust : Trust
  care : Care
  deriving DecidableEq, Repr

/-- The first location of the semaphore words: word k of tile t has line 8t + k of its own (R237). -/
def semBase : Nat := 2 ^ 55

/-- The first location of the pans: the pan of tile t holds locations `panBase + t × 2^20` on. -/
def panBase : Nat := 2 ^ 54

/-- The first address of the boot ROM of a die (package × 4 + die): PKG p, TIER 2, OFF d × 2^40 (R353). -/
def romBase (die : Nat) : Nat := (die / 4) * 2 ^ 50 + 2 * 2 ^ 48 + (die % 4) * 2 ^ 40

/-- The untagged null capability (R38). -/
def Cap.null : Cap := ⟨0, false⟩

/-- Root capability c0 (R333): global space, depth 0, all permissions, extents 0xFFFF. -/
def Cap.root0 : Cap :=
  ⟨(0#12 ++ 0#2 ++ 0#13 ++ 0xFF#8 ++ 0xFFFF#16 ++ 0xFFFF#16 ++ 0#5 ++ 0#2 ++ 0#54 : BitVec 128), true⟩

/-- Root capability c1 (R333): own pan, depth 17, all permissions, extents 1,023. -/
def Cap.root1 : Cap :=
  ⟨(0#12 ++ 1#2 ++ 0#13 ++ 0xFF#8 ++ 1023#16 ++ 1023#16 ++ 17#5 ++ 0#2 ++ 0#54 : BitVec 128), true⟩

/-- A trap bank after reset, with its vector base (R282). -/
def TrapBank.init (base : BitVec 44) : TrapBank :=
  ⟨false, false, false, false, false, .user, 0, 0, 0, base, 0⟩

/-- No transaction (R123). -/
def Txn.none : Txn :=
  ⟨0, 0, 0, 0, 0, 0, 0, false, [], [], [], Option.none, 0, 0, false, Option.none⟩

/-- The start state of R73 with null capabilities: every granule full and zero, the X-bank at reset. -/
def Hart.blank (name : Name) (pc : Addr) (mode : Mode) : Hart where
  name := name
  pc := pc
  mode := mode
  slices := 0
  gfull := 0xFFFFFFFF#32
  gbad := 0
  v := List.replicate 16 0
  vfull := 0xFFFF#16
  vbad := 0
  c := List.replicate 16 Cap.null
  cfull := 0xFFFF#16
  cbad := 0
  xw := 0
  xi := 0
  xe := 0
  xt := 0
  xm := List.replicate 4 0
  xiv := false
  rx := 0
  rxFull := false
  rxq := []
  hwaitlim := 0
  hb := TrapBank.init 0
  fb := TrapBank.init 0
  fwdeleg := 0
  hie := 0
  hip := 0
  hipVal := [0, 0, 0, 0]
  hipi := 0
  htcmp := 0xFFFFFFFFFFFFFFFF#64
  txn := Txn.none
  task := Option.none
  nenq := 0
  streams := []
  unacked := 0
  stat := .running
  woken := false
  epoch := 0
  stepped := false
  handles := Option.none
  walked := []
  walkFaults := []
  out := []
  hist := []
  work := []
  rels := []

/-- The hart p.d.0.0.0.0 of a die after reset (R353): firmware mode, at the first address of its ROM,
with the root capabilities. -/
def Hart.boot (die : Nat) : Hart :=
  { Hart.blank (BitVec.ofNat 22 (die * 2 ^ 16)) (BitVec.ofNat 54 (romBase die)) .firmware with
    c := [Cap.root0, Cap.root1] ++ List.replicate 14 Cap.null
    fb := TrapBank.init (BitVec.ofNat 44 (romBase die / 2 ^ 10))
    stat := .booting 0 }

/-- A cell at reset (R68, R352). -/
def Cell.init : Cell := ⟨0, 0, [], 0, [], [], 0, [], []⟩

/-- An operand slot at reset (R229). -/
def Slot.init : Slot := ⟨.free, 32, [], 0x7F, [], 0, 0, [], false⟩

/-- A tile at reset (R229). -/
def Tile.init : Tile where
  slots := List.replicate 16 Slot.init
  fills := []
  acc0 := []
  acc1 := []
  accBad := []
  rm := BitVec.allOnes 128
  cm := BitVec.allOnes 128
  semHeld := []
  semv := []
  mq := []
  rings := []
  copy := ⟨[], Option.none, Option.none⟩
  quant := ⟨[], Option.none, Option.none⟩
  tasks := []
  spill := []

/-- A die at reset (R353). -/
def Die.init : Die := ⟨0, false, false, [], false⟩

/-- The state of a domain of `pkgs` packages after a reset in a life-cycle state (R42, R352, R353):
memory wiped, every die's boot hart in its ROM, everything else at its reset value. -/
def State.afterReset (pkgs cxl : Nat) (trust : Trust) : State where
  me := Hart.boot 0
  harts := (List.range (4 * pkgs - 1)).map fun i => Hart.boot (i + 1)
  choices := []
  free := 0
  ids := 0
  pkgs := pkgs
  cxl := cxl
  time := 0
  cycle := 0
  mem := ⟨[], []⟩
  accs := []
  logs := []
  pendw := []
  reqs := []
  pends := []
  acks := []
  msgs := []
  ipis := []
  migs := []
  enqs := []
  misses := []
  whist := []
  wake := []
  cells := []
  tiles := []
  dies := []
  parts := []
  spans := []
  fenced := []
  seals := []
  host := ⟨.unlocked, false, false, 0, false, [], [], 0, 0, [], .none⟩
  trust := trust
  care := ⟨[], [], [], false, 0⟩

/-- The security block at the first reset (log 2): provider image in the flash absent, state PROVIDER. -/
def Trust.init : Trust where
  life := .provider
  counter := 0
  recCounter := 0
  providerHash := Option.none
  fwGen := 0
  genNext := 1
  flashProvider := Option.none
  flashTenant := Option.none
  staging := Option.none
  active := Option.none
  activeTenant := Option.none
  actpend := false
  minVersion := 0
  scrubbing := false
  scrubStart := 0
  scrubDone := false
  scrubFrom := 0
  scrubCount := 0
  scrubRec := Option.none

/-- The state after reset of a domain of one DX9 package without CXL memory (R353; log 2, 4). -/
def State.reset : State := State.afterReset 1 0 Trust.init

end Sys2Proof.Machine
end

