-- ==== Sys2Proof/Machine/Ops.lean ====
section
/-! DEFINITION. Named operations over the state: names and places, registers, partitions and reach,
waiting and waking, ending a transaction or a task early, taking a trap and returning from one. -/

namespace Sys2Proof.Machine

open Sys2Proof

/-- What a step answers when it has a next state. No instruction of this model stops. -/
abbrev Out := Host.Outcome State Fault Refusal

/-! ### Names (R7) -/

/-- The cell, tile, sector and die of a hart name, each by its leading bits; the cell number in its tile
and the slot in its cell. -/
def cellOf (n : Nat) : Nat := n / 2 ^ 4
def tileOf (n : Nat) : Nat := n / 2 ^ 9
def sectorOf (n : Nat) : Nat := n / 2 ^ 13
def dieOf (n : Nat) : Nat := n / 2 ^ 16
def pkgOf (n : Nat) : Nat := n / 2 ^ 18
def cellNo (n : Nat) : Nat := n / 2 ^ 4 % 32
def slotOf (n : Nat) : Nat := n % 16
def tileNo (n : Nat) : Nat := n / 2 ^ 9 % 16

/-- A general cell by its number in the tile; the stager is 16 and the driver 17 (R7). -/
def isGeneral (c : Nat) : Bool := c < 16

/-- Does a name word name a hart slot (R7, R64)? -/
def nameExists (n : Nat) : Bool :=
  cellNo n ≤ 15 || (cellNo n ≤ 17 && slotOf n < 4)

/-- The number of slots that `hspawn` and migrations may claim in a cell (R73, R75). -/
def spawnSlots (c : Nat) : Nat := if isGeneral c then 15 else 4

/-- A hart's own name as a number. -/
def Hart.nm (h : Hart) : Nat := h.name.toNat

/-- Does a hart stand in its slot? -/
def present (h : Hart) : Bool := h.stat != .free

/-! ### The registers of a hart -/

/-- Slices s to s + n - 1 modulo 256 as one number (R50, R55). -/
def readSlices (f : BitVec 1024) (s n : Nat) : Nat :=
  (f.toNat >>> (4 * (s % 256)) ||| f.toNat <<< (1024 - 4 * (s % 256))) % 2 ^ (4 * n)

/-- The file with slices s to s + n - 1 replaced by the low bits of a value. -/
def writeSlicesRaw (f : BitVec 1024) (s n v : Nat) : BitVec 1024 :=
  let r := (f.toNat >>> (4 * (s % 256)) ||| f.toNat <<< (1024 - 4 * (s % 256))) % 2 ^ 1024
  let r' := clearLow r (4 * n) + v % 2 ^ (4 * n)
  BitVec.ofNat 1024 (r' <<< (4 * (s % 256)) ||| r' >>> (1024 - 4 * (s % 256)))

/-- Does slice s + i for some i below n lie in granule g (R146)? -/
def touches (s n g : Nat) : Bool := (List.range n).any fun i => (s + i) / 8 % 32 == g

/-- The granules that a stretch touches, as a mask. -/
def granules (s n : Nat) : BitVec 32 := BitVec.ofNat 32 (ofBits (touches s n) 32)

/-- The granules that a stretch covers whole. -/
def wholeGranules (s n : Nat) : BitVec 32 :=
  BitVec.ofNat 32 (ofBits (fun g => (List.range 8).all fun j =>
    (8 * g + j + 256 - s % 256) % 256 < n) 32)

/-- Write a stretch: every granule touched becomes full; a granule covered whole is no longer failed
(R56, R287). -/
def putSlices (s n v : Nat) (h : Hart) : Hart :=
  { h with
    slices := writeSlicesRaw h.slices s n v
    gfull := h.gfull ||| granules s n
    gbad := h.gbad &&& ~~~wholeGranules s n }

/-- Mark the granules of a stretch empty (R56). -/
def emptySlices (s n : Nat) (h : Hart) : Hart := { h with gfull := h.gfull &&& ~~~granules s n }

/-- A bit mask with one bit set. -/
def bit16 (k : Nat) : BitVec 16 := BitVec.ofNat 16 (2 ^ k)

/-- Write a vector register (R207). -/
def putVec (k : Nat) (v : Line) (h : Hart) : Hart :=
  { h with v := setNth h.v k v, vfull := h.vfull ||| bit16 k, vbad := h.vbad &&& ~~~bit16 k }

def getVec (h : Hart) (k : Nat) : Line := nth h.v k 0

def emptyVec (k : Nat) (h : Hart) : Hart := { h with vfull := h.vfull &&& ~~~bit16 k }

/-- Write a capability register (R201). -/
def putCap (k : Nat) (v : Cap) (h : Hart) : Hart :=
  { h with c := setNth h.c k v, cfull := h.cfull ||| bit16 k, cbad := h.cbad &&& ~~~bit16 k }

def getCap (h : Hart) (k : Nat) : Cap := nth h.c k Cap.null

def emptyCap (k : Nat) (h : Hart) : Hart := { h with cfull := h.cfull &&& ~~~bit16 k }

/-- Descriptor register xm0 to xm3 (R60). -/
def getXm (h : Hart) (k : Nat) : Nat := (nth h.xm k 0).toNat

/-- Is the hart inside a transaction or a task body (R125)? -/
def inTxn (h : Hart) : Bool := h.txn.depth != 0

/-! ### Harts, cells, tiles and dies of the state -/

/-- Every hart that stands in a slot. -/
def allHarts (s : State) : List Hart := (s.me :: s.harts).filter present

/-- The hart with a name. -/
def hartAt (n : Nat) (s : State) : Option Hart := (allHarts s).find? fun h => h.nm == n

/-- Change the hart with a name. -/
def modHart (n : Nat) (f : Hart → Hart) (s : State) : State :=
  { s with
    me := if present s.me && s.me.nm == n then f s.me else s.me
    harts := s.harts.map fun h => if present h && h.nm == n then f h else h }

/-- Change the hart that has the turn. -/
def modMe (f : Hart → Hart) (s : State) : State := { s with me := f s.me }

/-- Change every hart. -/
def modAll (f : Hart → Hart) (s : State) : State :=
  { s with me := f s.me, harts := s.harts.map f }

def getCell (c : Nat) (s : State) : Cell := (lookupNat c s.cells).getD Cell.init
def setCell (c : Nat) (v : Cell) (s : State) : State :=
  { s with cells := updateNat c (some v) s.cells }
def getTile (t : Nat) (s : State) : Tile := (lookupNat t s.tiles).getD Tile.init
def setTile (t : Nat) (v : Tile) (s : State) : State :=
  { s with tiles := updateNat t (some v) s.tiles }
def getDie (d : Nat) (s : State) : Die := (lookupNat d s.dies).getD Die.init
def setDie (d : Nat) (v : Die) (s : State) : State :=
  { s with dies := updateNat d (some v) s.dies }

/-- A fresh number, and the state that has used it. -/
def freshId (s : State) : Nat × State := (s.ids, { s with ids := s.ids + 1 })

/-! ### Partitions and reach (R65, R314) -/

/-- Mesh row and column of a tile in its die (R15). -/
def meshRow (t : Nat) : Nat := 4 * (t / 2 ^ 6 % 2) + t / 4 % 4
def meshCol (t : Nat) : Nat := 4 * (t / 2 ^ 4 % 4) + t % 4

/-- Does a tile (p.d.s.t) lie in a partition? -/
def inPartition (p : Partition) (t : Nat) : Bool :=
  if p.whole then p.diemask.getLsbD (t / 2 ^ 7)
  else t / 2 ^ 7 == p.die && p.row0 ≤ meshRow t && meshRow t ≤ p.row1 &&
    p.col0 ≤ meshCol t && meshCol t ≤ p.col1

/-- Does a partition contain a tile? No partition contains a fenced one (R22). -/
def holdsTile (p : Partition) (t : Nat) (s : State) : Bool := inPartition p t && !s.fenced.contains t

/-- The open partition of a tile. -/
def partitionOf (t : Nat) (s : State) : Option Partition := s.parts.find? fun p => holdsTile p t s

/-- Is the tile of a name out of service: its cells act on nothing, and its router delivers nothing (R315)? -/
def outOfService (n : Nat) (s : State) : Bool := s.fenced.contains (tileOf n)

/-- The number of tiles of a partition (R22). -/
def tileCount (p : Partition) (s : State) : Nat :=
  (if p.whole then 128 * popCount p.diemask.toNat 64 else (p.row1 - p.row0 + 1) * (p.col1 - p.col0 + 1)) -
    (s.fenced.eraseDups.filter fun t => inPartition p t).length

/-- The partition of a hart (R65). -/
def hartPartition (h : Hart) (s : State) : Option Partition := partitionOf (tileOf h.nm) s

/-- Does a tile lie within a hart's reach? Firmware reaches every tile of the domain. -/
def tileReach (h : Hart) (t : Nat) (s : State) : Bool :=
  if h.mode = .firmware then t / 2 ^ 9 < s.pkgs
  else match hartPartition h s with
    | some p => holdsTile p t s && t / 2 ^ 9 < s.pkgs
    | none => false

/-- Does a sector lie within a hart's reach: some tile of it does? -/
def sectorReach (h : Hart) (sec : Nat) (s : State) : Bool :=
  (List.range 16).any fun t => tileReach h (sec * 16 + t) s

/-! ### Slots (R73, R80) -/

/-- Is a slot free: no hart stands there, none is on its way to it, and none has reserved it (R79)? -/
def slotFree (n : Nat) (s : State) : Bool :=
  !((allHarts s).any fun h => h.nm == n || h.stat == .leaving n) && !(s.migs.any fun h => h.nm == n)

/-- The lowest free slot of a cell that a spawn or a migration may claim; a tile out of service has none
(R315). -/
def freeSlot (c : Nat) (s : State) : Option Nat :=
  if s.fenced.contains (c / 32) then none
  else (findFrom (fun k => slotFree (c * 16 + k) s) 0 (spawnSlots (c % 32))).map fun k => c * 16 + k

/-- The lowest free slot of the lowest-numbered general cell of a tile. -/
def freeInTile (t : Nat) (s : State) : Option Nat :=
  (List.range 16).findSome? fun c => freeSlot (t * 32 + c) s

/-- As for a tile, over the tiles of a sector in the hart's reach, ascending. -/
def freeInSector (h : Hart) (sec : Nat) (s : State) : Option Nat :=
  (List.range 16).findSome? fun t =>
    if tileReach h (sec * 16 + t) s then freeInTile (sec * 16 + t) s else none

/-! ### Keys and seals (R332, R334, R335) -/

/-- The key id of an access: the partition of the tile, 16 for firmware and outside any partition. -/
def keyFor (h : Hart) (s : State) : Nat :=
  if h.mode = .firmware then 16
  else match hartPartition h s with
    | some p => p.n
    | none => 16

/-- The generation of a live key set. -/
def keyGen (k : Nat) (s : State) : Option Nat :=
  if k = 16 then some s.trust.fwGen
  else (s.parts.find? fun p => p.n == k).map fun p => p.gen

/-- The 32-bit identifier of a tile's interface, and of another: its kind, its die and its index in the die (R334). -/
def tileIface (t : Nat) : Nat := t
def otherIface (kind die index : Nat) : Nat := 2 ^ 31 + kind * 2 ^ 24 + die * 2 ^ 4 + index

/-- The 96-bit nonce of a sealed message (R334). -/
def Seal.nonce (x : Seal) : BitVec 96 := BitVec.ofNat 96 (x.iface * 2 ^ 64 + x.ctr)

/-- The messages that an interface has sealed under a key id. -/
def sealCount (iface key : Nat) (s : State) : Nat := (lookupNat (iface * 32 + key) s.seals).getD 0

/-- An interface seals a message: its counter for the key id rises by one (R334). -/
def sealBy (iface key : Nat) (s : State) : Seal × State :=
  let n := sealCount iface key s
  (⟨iface, key, n, Config.sealTag ((keyGen key s).getD 0) iface n⟩,
    { s with seals := updateNat (iface * 32 + key) (some (n + 1)) s.seals })

/-- A message from a tile: it is sealed if it leaves the tile. -/
def sealFrom (tile : Nat) (dst : Option Nat) (key : Nat) (s : State) : Option Seal × State :=
  if dst = some tile then (none, s)
  else
    let (x, s) := sealBy (tileIface tile) key s
    (some x, s)

/-- What answers a sealed message is sealed too: a reply, or an acknowledgement. -/
def answerSeal (iface : Nat) (stamp : Option Seal) (s : State) : State :=
  match stamp with
  | some x => (sealBy iface x.key s).2
  | none => s

/-- The key id under which a tile sends on what is not its hart's: its partition's. -/
def tileKeyId (t : Nat) (s : State) : Nat :=
  match partitionOf t s with
  | some p => p.n
  | none => 16

/-- A message that one tile sends to another. -/
def sealTo (tile dst key : Nat) (s : State) : State := (sealFrom tile (some dst) key s).2

/-- Has an interface no nonce left under the key id of a partition: its counter has passed the greatest (R335)? The
partition then stops, and its tamper stop is due. -/
def keySpent (key : Nat) (s : State) : Bool := key != 16 && s.seals.any fun x => x.1 % 32 == key && decide (2 ^ 64 ≤ x.2)

/-! ### Waiting and waking (R113 to R115) -/

/-- The hart leaves the rotation with a read set; the instruction is presented again when it wakes. -/
def waitOn (l : List Loc) (s : State) : State :=
  modMe (fun h => { h with
    stat := .waiting l, woken := false, epoch := h.epoch + 1, walked := [], walkFaults := [] }) s

/-- The hart parks (R304, R306, R309); on a miss it queues for a walker. -/
def parkMe (st : Stat) (s : State) : State :=
  let s := modMe (fun h => { h with stat := st, woken := false, epoch := h.epoch + 1 }) s
  match st with
  | .missed _ => { s with misses := (s.misses.filter fun n => n != s.me.nm) ++ [s.me.nm] }
  | _ => s

/-- Mark a hart woken if it waits on a location. -/
def Hart.signal (l : Loc) (h : Hart) : Hart :=
  match h.stat with
  | .waiting ls => if ls.contains l then { h with woken := true } else h
  | _ => h

/-- A location of one hart changes. -/
def signalHart (n : Nat) (l : Loc) (s : State) : State := modHart n (Hart.signal l) s

/-- A location that several harts may wait on changes. -/
def signalAll (l : Loc) (s : State) : State := modAll (Hart.signal l) s

/-- The occupancy words that hold a slot change (R73). -/
def signalOcc (n : Nat) (s : State) : State :=
  signalAll (.occ 2 (sectorOf n)) (signalAll (.occ 1 (tileOf n)) (signalAll (.occ 0 (cellOf n)) s))

/-- Register a hart in the wake table of a line (R114). -/
def register (line : Nat) (h : Hart) (s : State) : State :=
  let e : WakeEntry := ⟨line, h.nm, h.epoch⟩
  if s.wake.contains e then s else { s with wake := s.wake ++ [e] }

/-- Cancel a hart's wake-table entries (R115). -/
def cancelWakes (n : Nat) (s : State) : State :=
  { s with wake := s.wake.filter fun e => e.hart != n }

/-- A woken or parked hart whose entry fires: the epoch decides (R115). -/
def Hart.fire (line : Nat) (e : List WakeEntry) (h : Hart) : Hart :=
  if e.any fun w => w.hart == h.nm && w.epoch == h.epoch then
    match h.stat with
    | .waiting ls => if ls.contains (.line line) then { h with woken := true } else h
    | .absent l => if l == line then { h with woken := true } else h
    | _ => h
  else h

/-- A write to a line is applied: its entries fire and are dropped (R114, R115). -/
def wakeLine (line : Nat) (s : State) : State :=
  let fired := s.wake.filter fun e => e.line == line
  if fired.isEmpty then s
  else modAll (Hart.fire line fired) { s with wake := s.wake.filter fun e => e.line != line }

/-! ### Leaving a slot -/

/-- A hart that leaves its wait gives up a slot that it has reserved: the occupancy words that hold it change (R79, R80). -/
def giveUpSlot (n : Nat) (s : State) : State :=
  match hartAt n s with
  | none => s
  | some h => match h.stat with
    | .leaving m => signalOcc m s
    | _ => s

/-- A hart leaves its slot: the TLB entries of the slot are dropped (R303) and the slot is free. -/
def leaveSlot (n : Nat) (s : State) : State :=
  let c := getCell (cellOf n) s
  let s := if c.tlb.isEmpty then s
    else setCell (cellOf n) { c with tlb := c.tlb.filter fun e => e.slot != slotOf n } s
  signalOcc n (cancelWakes n (modHart n (fun h => { h with stat := .free }) s))

/-- A cell's forwarding entries without a reply; an entry that awaits nothing more is freed (R81). -/
def forgetPend (i : Nat) (c : Cell) : Cell :=
  let fwd := c.fwd.map fun f => { f with pends := f.pends.filter fun j => j != i }
  { c with fwd := fwd.filter fun f => !f.pends.isEmpty }

/-- A reply is no longer due: its tags are free, and the forwarding entries that await it forget it (R81). -/
def dropPend (p : Pend) (s : State) : State :=
  let waits (c : Nat × Cell) : Bool := c.2.fwd.any fun f => f.pends.contains p.id
  let s := if s.cells.any waits then
      signalAll .fwd { s with cells := s.cells.map fun c => (c.1, forgetPend p.id c.2) }
    else s
  signalHart p.origin .tags { s with pends := s.pends.filter fun q => q.id != p.id }

/-- Replies still due to a slot are discarded (R74). -/
def dropReplies (n : Nat) (s : State) : State :=
  (s.pends.filter fun p => p.route == n).foldl (fun s p => dropPend p s) s

/-- A task leaves its slot early (R76, R125): at once, or, while sends of it are unacknowledged, as a retired hart
does (log 25). -/
def vacate (n : Nat) (s : State) : State :=
  match hartAt n s with
  | none => s
  | some h =>
    let s := dropReplies n (giveUpSlot n s)
    if h.unacked = 0 then leaveSlot n s
    else cancelWakes n (modHart n (fun h => { h with stat := .retired, txn := Txn.none, task := none }) s)

/-- Stream bindings of a hart are given up (R74, R200). -/
def unbindAll (h : Hart) : Hart := { h with streams := [] }

/-! ### Aborts and rollbacks (R122, R125) -/

/-- The statuses of R123. -/
def stConflict : Nat := 1
def stCapacity : Nat := 2
def stExplicit : Nat := 3
def stInterrupt : Nat := 4
def stFault : Nat := 5
def stNest : Nat := 6
def stUnsafe : Nat := 7

/-- The transaction of a hart ends without effect (R122): depth 0, held writes discarded, control at the
abort target. After CONFLICT the next outermost `tbegin` reuses the begin time (R117). -/
def Hart.abort (status detail : Nat) (h : Hart) : Hart :=
  { h with
    pc := h.txn.abortPc
    stat := .running
    woken := false
    walked := []
    walkFaults := []
    txn := { h.txn with
      depth := 0, status := status, detail := detail, reads := [], stale := [], buf := [],
      alt := none, woken := false, doom := none, reuse := status == stConflict } }

/-- Is a task key the key of a task that key k's task enqueued, or of one of its children (R125)? -/
def descends (k : TaskKey) : TaskKey → Bool
  | .root _ => false
  | .node _ p _ => p == k || descends k p

/-- A tile's share of the spill area of its partition (R327). -/
def spillShare (tile : Nat) (s : State) : Nat :=
  match partitionOf tile s with
  | some p => p.spilln / tileCount p s
  | none => 0

/-- The task unit of a tile takes a task, or else the tile's share of the spill area does (R327). -/
def takeTask (e : TaskEnq) (s : State) : Option State :=
  let t := getTile e.tile s
  if t.tasks.length < 256 then some (setTile e.tile { t with tasks := t.tasks ++ [e] } s)
  else if t.spill.length < spillShare e.tile s then some (setTile e.tile { t with spill := t.spill ++ [e] } s)
  else none

/-- A task that no longer stands in a slot returns to its unit; with no room there the mesh holds it (R327). -/
def requeue (e : TaskEnq) (s : State) : State :=
  (takeTask e s).getD { s with enqs := s.enqs ++ [(s.ids, e)], ids := s.ids + 1 }

/-- Does a hart run a task that descends from a key? -/
def runsChildOf (k : TaskKey) (h : Hart) : Bool :=
  match h.task with
  | some t => descends k t.key
  | none => false

/-- Cancel every child of a task, recursively: queued, in flight, running, or migrating (R125). -/
def cancelChildren (k : TaskKey) (s : State) : State :=
  let gone := (allHarts s).filter (runsChildOf k)
  let moving := s.migs.filter (runsChildOf k)
  let s := gone.foldl (fun s h => vacate h.nm s) s
  let s := moving.foldl (fun s h => signalOcc h.nm (dropReplies h.nm s)) s
  { s with
    migs := s.migs.filter fun h => !runsChildOf k h
    acks := s.acks ++ (s.enqs.filter fun e => descends k e.2.key && !e.2.acked).map fun e => e.2.src
    enqs := s.enqs.filter fun e => !descends k e.2.key
    tiles := s.tiles.map fun (t, v) =>
      (t, { v with tasks := v.tasks.filter (fun e => !descends k e.key),
                   spill := v.spill.filter (fun e => !descends k e.key) }) }

/-- A task rolls back (R125): its writes are discarded, its children cancelled, its slot left, and it is
queued again with its key; `wakeOn` holds the lines it waits for after a `retry` (R192). -/
def rollback (n : Nat) (wakeOn : Option (List Nat)) (s : State) : State :=
  match hartAt n s with
  | none => s
  | some h =>
    match h.task with
    | none => s
    | some t =>
      let s := cancelChildren t.key s
      requeue { t.enq with wakeOn := wakeOn } (vacate n s)

/-- The transaction of a hart aborts, or its task rolls back (R122, R192). -/
def abortAt (n status detail : Nat) (s : State) : State :=
  match hartAt n s with
  | none => s
  | some h =>
    if h.task.isSome then rollback n none s
    else cancelWakes n (modHart n (Hart.abort status detail) (giveUpSlot n s))

/-- The same for the hart with the turn. -/
def abortMe (status detail : Nat) (s : State) : State := abortAt s.me.nm status detail s

/-! ### Traps (R284 to R288) -/

/-- The receiving bank is the firmware bank: the hart is in firmware mode, or the class is not
delegated (R283, R284). -/
def toFirmware (h : Hart) (cls : Nat) : Bool := h.mode == .firmware || !h.fwdeleg.getLsbD cls

/-- A trap bank after an entry (R284). -/
def TrapBank.enter (b : TrapBank) (mode : Mode) (code epc tval : Nat) (xiv w : Bool) : TrapBank :=
  { b with
    pmode := mode
    pie := b.ie
    ie := false
    pxiv := xiv
    pwait := w
    cause := BitVec.ofNat 10 code
    epc := BitVec.ofNat 54 (clearLow epc 1)
    tval := BitVec.ofNat 64 tval }

/-- Trap entry (R284): the bank takes cause, EPC, TVAL and status; XIV is cleared; the mode and the pc
become the handler's. `w` says that the trap ended a wait or a park. -/
def Hart.trap (cls detail epc tval : Nat) (w : Bool) (h : Hart) : Hart :=
  let code := cls * 64 + detail
  if toFirmware h cls then
    { h with
      fb := h.fb.enter h.mode code epc tval h.xiv w
      xiv := false
      mode := .firmware
      stat := .running
      walked := []
      walkFaults := []
      woken := false
      stepped := false
      pc := BitVec.ofNat 54 (h.fb.base.toNat * 2 ^ 10 + 64 * cls) }
  else
    { h with
      hb := h.hb.enter h.mode code epc tval h.xiv w
      xiv := false
      mode := .kernel
      stat := .running
      walked := []
      walkFaults := []
      woken := false
      stepped := false
      pc := BitVec.ofNat 54 (h.hb.base.toNat * 2 ^ 10 + 64 * cls) }

/-- A trap of a hart outside a transaction; `w` says that it ends a wait (R284). -/
def trapAt (n cls detail tval : Nat) (w : Bool) (s : State) : State :=
  cancelWakes n (modHart n (fun h => Hart.trap cls detail h.pc.toNat tval w h) (giveUpSlot n s))

/-- Is an instruction that issues now followed by a DBG.STEP trap (R289)? -/
def stepNow (h : Hart) : Bool :=
  match h.mode with
  | .user => h.hb.ss || h.fb.ss
  | .kernel => h.fb.ss
  | .firmware => false

/-- HTVAL receives what the trap would have written (R122). -/
def Hart.faultVal (tval : Nat) (h : Hart) : Hart :=
  { h with hb := { h.hb with tval := BitVec.ofNat 64 tval } }

/-- A cause: class, kind and site (R285, R286). -/
structure Cause where
  cls : Nat
  kind : Nat
  site : Nat
  deriving DecidableEq, Repr

/-- DETAIL in classes 0 to 14 (R286). -/
def detailOf (c : Cause) : Nat := c.kind * 8 + c.site

/-- The 10-bit code (R286). -/
def codeOfCause (c : Cause) : Nat := c.cls * 64 + detailOf c

/-- A synchronous cause at the instruction that the hart presents (R122, R284): inside a transaction it
aborts with FAULT, in a task body the task rolls back, otherwise the hart traps at the instruction. -/
def cause (c : Cause) (tval : Nat) (s : State) : State :=
  if inTxn s.me then
    abortMe stFault (codeOfCause c) (modMe (Hart.faultVal tval) s)
  else modMe (Hart.trap c.cls (detailOf c) s.me.pc.toNat tval false) s

/-- A synchronous cause at a hart: inside a transaction it aborts with FAULT (R122). -/
def causeAt (n : Nat) (c : Cause) (tval : Nat) (w : Bool) (s : State) : State :=
  match hartAt n s with
  | none => s
  | some h =>
    if inTxn h then abortAt n stFault (codeOfCause c) (modHart n (Hart.faultVal tval) s)
    else trapAt n c.cls (detailOf c) tval w s

/-- The states in which a hart is off the rotation and a limit or an interrupt brings it back: waits, parks, and
migrations that have not departed (R80, R84, R292). -/
def offRotation (st : Stat) : Bool :=
  match st with
  | .waiting _ => true
  | .missed _ => true
  | .absent _ => true
  | .hostPark _ _ _ => true
  | .departing _ => true
  | .leaving _ => true
  | _ => false

/-- `tret` (R288): the bank of the mode gives back mode, IE, XIV and pc. -/
def Hart.tret (h : Hart) : Hart :=
  if h.mode = .firmware then
    { h with
      mode := h.fb.pmode
      fb := { h.fb with ie := h.fb.pie }
      xiv := h.fb.pxiv
      pc := h.fb.epc }
  else
    { h with
      mode := h.hb.pmode
      hb := { h.hb with ie := h.hb.pie }
      xiv := h.hb.pxiv
      pc := h.hb.epc }

/-! The causes of R285 by name. -/
def cIllegal (kind site : Nat) : Cause := ⟨0, kind, site⟩
def cInstAlign (site : Nat) : Cause := ⟨1, 0, site⟩
def cPrivMode : Cause := ⟨1, 1, 0⟩
def cCapTag : Cause := ⟨2, 0, 4⟩
def cCapSealed : Cause := ⟨2, 1, 4⟩
def cCapPerm : Cause := ⟨2, 2, 4⟩
def cCapBounds : Cause := ⟨2, 3, 2⟩
def cCapType : Cause := ⟨2, 4, 2⟩
def cMemAlign : Cause := ⟨3, 0, 2⟩
def cMemFmt : Cause := ⟨3, 1, 5⟩
def cMemSpace : Cause := ⟨3, 2, 4⟩
def cMemUnmapped : Cause := ⟨3, 3, 5⟩
def cMemIntegrity : Cause := ⟨3, 4, 5⟩
def cRegEmpty (site : Nat) : Cause := ⟨4, 0, site⟩
def cWaitLimit : Cause := ⟨4, 1, 7⟩
def cHartTarget (site : Nat) : Cause := ⟨5, 0, site⟩
def cMsgName : Cause := ⟨5, 1, 3⟩
def cTxnState : Cause := ⟨6, 0, 6⟩
def cTaskOrder : Cause := ⟨6, 1, 1⟩
def cSpanId : Cause := ⟨7, 0, 1⟩
def cStrmUnbound : Cause := ⟨8, 0, 6⟩
def cStrmBusy : Cause := ⟨8, 1, 6⟩
def cStrmMigrate : Cause := ⟨8, 2, 6⟩
def cAmsgMigrate : Cause := ⟨9, 0, 7⟩
def cAmsgNest : Cause := ⟨9, 1, 7⟩
def cMtxSlot : Cause := ⟨10, 0, 6⟩
def cMtxRange (site : Nat) : Cause := ⟨10, 1, site⟩
def cMtxFormat : Cause := ⟨10, 2, 6⟩
def cEngChains : Cause := ⟨11, 0, 6⟩
def cEngLink : Cause := ⟨11, 1, 6⟩
def cEngCmd : Cause := ⟨11, 2, 6⟩
def cEngShadow : Cause := ⟨11, 3, 5⟩
def cEngShape : Cause := ⟨11, 4, 6⟩
def cEngFormat : Cause := ⟨11, 5, 6⟩
def cErrReg (site : Nat) : Cause := ⟨13, 0, site⟩
def cErrPan : Cause := ⟨13, 1, 5⟩
def cErrSlice : Cause := ⟨13, 2, 5⟩
def cErrOpmem : Cause := ⟨13, 3, 6⟩

/-- Record an interrupt in HIP with the value its trap reports (R286, R290): bit 0 SOFT, 1 TIMER,
2 PREEMPT, 3 ERROR. -/
def Hart.pend (bit val : Nat) (h : Hart) : Hart :=
  { h with hip := h.hip ||| BitVec.ofNat 4 (2 ^ bit),
           hipVal := setNth h.hipVal bit (BitVec.ofNat 64 val) }

/-- The name to which a forwarding entry sends what is addressed to a slot (R81): the oldest entry's, where a slot has
several (log 94). -/
def forwardTo (n : Nat) (s : State) : Option Nat :=
  ((getCell (cellOf n) s).fwd.find? fun f => f.slot == slotOf n).map fun f => f.new

/-- INT.ERROR to a hart (R287, R337); one in flight takes it on arrival (R79). -/
def sendError (n val : Nat) (s : State) : State :=
  let m := if (hartAt n s).isNone && !(s.migs.any fun h => h.nm == n) then (forwardTo n s).getD n else n
  modHart m (Hart.pend 3 val) { s with migs := s.migs.map fun h => if h.nm = m then Hart.pend 3 val h else h }

/-! ### The rotation of a cell (R71) -/

/-- Does an attempt take a port (R71)? One that waits, parks or begins a migration does not. -/
def tookPort (h : Hart) : Bool := !offRotation h.stat

/-- The rotation pointer of the cell of a slot becomes the slot after it (R71). -/
def turnPast (n : Nat) (s : State) : State :=
  let c := cellOf n
  setCell c { getCell c s with rot := (slotOf n + 1) % (if isGeneral (cellNo n) then 16 else 4) } s

/-- The rotation pointer of the cell of a hart that has issued becomes the slot after it. -/
def passTurn (n : Nat) (t : State) : State := if tookPort t.me then turnPast n t else t

end Sys2Proof.Machine
end

