-- ==== Sys2Proof/Machine/Mesh.lean ====
section
/-! DEFINITION. The mesh of a die (R316 to R319): the routes of each topology, the prism switches that stitch it, and the
turn lists and legs of a route (log 19, 84). Each is determined by the open partitions and the fenced tiles, so that State
holds no copy of it: OPEN, CLOSE and FENCE set it by what they do to these. -/

namespace Sys2Proof.Machine

open Sys2Proof

/-- A tile of a die by mesh row and column (R15). -/
def tileAt (die r c : Nat) : Nat :=
  die * 128 + (r / 4 * 4 + c / 4) * 16 + r % 4 * 4 + c % 4

/-- The place of a tile in a list. -/
def placeIn (t : Nat) (l : List Nat) : Nat := l.findIdx fun x => x == t

/-! ### Routes (R316): the tiles after the first, to the last -/

/-- Steps of one coordinate from a to b, ascending or descending. -/
def lineSteps (a b : Nat) : List Nat :=
  if a ≤ b then (List.range (b - a)).map fun i => a + i + 1 else (List.range (a - b)).map fun i => a - i - 1

/-- Steps of one coordinate in a cycle from lo to hi, the shorter way; ties ascend. -/
def cycleSteps (lo hi a b : Nat) : List Nat :=
  let n := hi - lo + 1
  let up := (b + n - a) % n
  if up ≤ n - up then (List.range up).map fun i => lo + (a - lo + i + 1) % n
  else (List.range (n - up)).map fun i => lo + (a - lo + n - i - 1) % n

/-- Columns first, then rows, by the steps of each coordinate. -/
def gridRoute (steps : Bool → Nat → Nat → List Nat) (src dst : Nat) : List Nat :=
  let die := src / 128
  ((steps true (meshCol src) (meshCol dst)).map fun c => tileAt die (meshRow src) c) ++
    (steps false (meshRow src) (meshRow dst)).map fun r => tileAt die r (meshCol dst)

/-- MESH. -/
def meshRoute (src dst : Nat) : List Nat := gridRoute (fun _ => lineSteps) src dst

/-- TORUS. -/
def torusRoute (p : Partition) (src dst : Nat) : List Nat :=
  gridRoute (fun cols => if cols then cycleSteps p.col0 p.col1 else cycleSteps p.row0 p.row1) src dst

/-- TREE: up to the trunk, along it, down; within one column along the column. -/
def treeRoute (p : Partition) (src dst : Nat) : List Nat :=
  let die := src / 128
  if meshCol src = meshCol dst then meshRoute src dst
  else ((lineSteps (meshRow src) p.row0).map fun r => tileAt die r (meshCol src)) ++
    ((lineSteps (meshCol src) (meshCol dst)).map fun c => tileAt die p.row0 c) ++
    (lineSteps p.row0 (meshRow dst)).map fun r => tileAt die r (meshCol dst)

/-- The cycle of RING: row by row from (ROW0, COL0), reversing direction on alternate rows; the closing link leads from
(ROW1, COL0) back to (ROW0, COL0) (R317). -/
def ringTiles (p : Partition) : List Nat :=
  (List.range (p.row1 - p.row0 + 1)).flatMap fun i =>
    (List.range (p.col1 - p.col0 + 1)).map fun j =>
      tileAt p.die (p.row0 + i) (if i % 2 = 0 then p.col0 + j else p.col1 - j)

/-- RING: the shorter way round; ties in the forward direction. -/
def ringRoute (p : Partition) (src dst : Nat) : List Nat :=
  let ring := ringTiles p
  let places := cycleSteps 0 (ring.length - 1) (placeIn src ring) (placeIn dst ring)
  places.map fun k => nth ring k 0

/-- The four neighbours of a tile on its die: along its row, then along its column. -/
def meshNear (t : Nat) : List Nat :=
  let die := t / 128
  let r := meshRow t
  let c := meshCol t
  (if 0 < c then [tileAt die r (c - 1)] else []) ++ (if c < 15 then [tileAt die r (c + 1)] else []) ++
    (if 0 < r then [tileAt die (r - 1) c] else []) ++ (if r < 7 then [tileAt die (r + 1) c] else [])

/-- The tiles in service at each distance from a tile, nearest first. -/
def meshRings (ok : Nat → Bool) : Nat → List Nat → List Nat → List (List Nat)
  | 0, _, _ => []
  | fuel + 1, seen, last =>
    let next := ((last.flatMap meshNear).filter fun t => ok t && !seen.contains t).eraseDups
    last :: meshRings ok fuel (seen ++ next) next

/-- The distance of a tile in these. -/
def ringOf (t : Nat) (rings : List (List Nat)) : Nat := rings.findIdx fun l => l.contains t

/-- The longest run of tiles along the row of a tile, in one direction, that comes nearer with each step. -/
def nearRun (rings : List (List Nat)) (up : Bool) : Nat → Nat → List Nat
  | 0, _ => []
  | fuel + 1, t =>
    let c := meshCol t
    let x := tileAt (t / 128) (meshRow t) (if up then c + 1 else c - 1)
    if (if up then decide (c < 15) else decide (0 < c)) && ringOf x rings + 1 == ringOf t rings then
      x :: nearRun rings up fuel x
    else []

/-- A shortest path: at each tile the longer run of columns that comes nearer, else a row (R316; log 19). -/
def nearerTiles (rings : List (List Nat)) : Nat → Nat → List Nat
  | 0, _ => []
  | fuel + 1, t =>
    if ringOf t rings = 0 then []
    else
      let down := nearRun rings false 16 t
      let up := nearRun rings true 16 t
      let run := if up.length < down.length then down else up
      match run.getLast? with
      | some x => run ++ nearerTiles rings fuel x
      | none => match (meshNear t).find? fun x => ringOf x rings + 1 == ringOf t rings with
        | some x => x :: nearerTiles rings fuel x
        | none => []

/-- The route round fenced tiles in a die of a WHOLE partition. -/
def fencedRoute (src dst : Nat) (s : State) : List Nat :=
  nearerTiles (meshRings (fun t => !s.fenced.contains t) 128 [dst] [dst]) 128 src

/-- Does a die have fenced tiles? -/
def dieFenced (die : Nat) (s : State) : Bool := s.fenced.any fun t => t / 128 == die

/-- The route between two tiles of one die in a partition. -/
def meshPath (p : Partition) (src dst : Nat) (s : State) : List Nat :=
  if p.topo = 1 then ringRoute p src dst
  else if p.topo = 2 then treeRoute p src dst
  else if p.topo = 3 then torusRoute p src dst
  else if p.whole && dieFenced (src / 128) s then fencedRoute src dst s
  else meshRoute src dst

/-! ### Legs and turn lists (R318, R319) -/

/-- The waypoints of a route of h hops through a list of tiles: every 31st, its end left out. -/
def waypoints (route : List Nat) : List Nat :=
  (List.range ((route.length - 1) / 31)).map fun i => nth route (31 * (i + 1) - 1) 0

/-- Ports of a router: 0 toward lower rows, 1 toward higher columns, 2 toward higher rows, 3 toward lower columns. The
port by which a route leaves a tile for the next; a wrap link or the closing link leaves at the rectangle's edge. -/
def portTo (p : Partition) (a b : Nat) : Nat :=
  let r := meshRow a
  let c := meshCol a
  if p.topo = 1 ∧ c = p.col0 ∧ meshCol b = p.col0 ∧ r = p.row1 ∧ meshRow b = p.row0 then 2
  else if p.topo = 1 ∧ c = p.col0 ∧ meshCol b = p.col0 ∧ r = p.row0 ∧ meshRow b = p.row1 then 0
  else if r = meshRow b then
    if meshCol b = c + 1 ∨ meshCol b + 1 < c then 1 else 3
  else if meshRow b = r + 1 ∨ meshRow b + 1 < r then 2 else 0

/-- The tile to which a port's link leads: a wrap link, the closing link of a RING, or the native one. -/
def linkTo (p : Partition) (t port : Nat) : Nat :=
  let die := t / 128
  let r := meshRow t
  let c := meshCol t
  let wrapsRow := decide (p.topo = 3 ∨ (p.topo = 1 ∧ c = p.col0))
  match port with
  | 0 => tileAt die (if wrapsRow && r == p.row0 then p.row1 else r - 1) c
  | 1 => tileAt die r (if p.topo = 3 ∧ c = p.col1 then p.col0 else c + 1)
  | 2 => tileAt die (if wrapsRow && r == p.row1 then p.row0 else r + 1) c
  | _ => tileAt die r (if p.topo = 3 ∧ c = p.col0 then p.col1 else c - 1)

/-- The code by which a message that moves in one direction leaves by a port: straight 0, left 1, right 2; only at the
router that it is injected at, back 3 (log 84). -/
def turnCode (inDir outDir : Nat) : Nat :=
  if inDir = outDir then 0 else if (inDir + 3) % 4 = outDir then 1 else if (inDir + 1) % 4 = outDir then 2 else 3

/-- The port that a code names (R318). -/
def turnPort (inDir code : Nat) : Nat :=
  match code with
  | 0 => inDir
  | 1 => (inDir + 3) % 4
  | 2 => (inDir + 1) % 4
  | _ => (inDir + 2) % 4

/-- The direction in which a tile's injection faces its router: no rule says it. -/
def facing : Nat := Config.tileFacing % 4

/-- The codes of a route through a list of tiles, for a message that moves in a direction: one at each tile that it
leaves, and an ejection. -/
def turnCodes (p : Partition) (dir : Nat) : List Nat → List Nat
  | a :: b :: l => let d := portTo p a b
    turnCode dir d :: turnCodes p d (b :: l)
  | _ => [3]

/-- The turn list that a tile holds for another tile of its die: the first leg of its route (R319). -/
def turnList (src dst : Nat) (s : State) : Word :=
  match partitionOf src s with
  | none => 0
  | some p => BitVec.ofNat 64 (joinLanes 2 (turnCodes p facing (src :: (meshPath p src dst s).take 31)))

/-- The tile at which a message ejects (R318): each router takes the low two bits of the list and shifts it by two. -/
def ejectTile (p : Partition) : Nat → Nat → Nat → Nat → Nat
  | 0, t, _, _ => t
  | fuel + 1, t, dir, l =>
    if l % 4 = 3 then t
    else let d := turnPort dir (l % 4)
      ejectTile p fuel (linkTo p t d) d (l / 4)

/-- The tile at which a message ejects that a tile injects with a list. -/
def injectsTo (p : Partition) (t l : Nat) : Nat :=
  let d := turnPort facing (l % 4)
  ejectTile p 31 (linkTo p t d) d (l / 4)

/-- The tile that owns the exit of a die toward another, and the tile at which that die's link enters: no rule says which. -/
def exitTile (die other : Nat) : Nat := die * 128 + Config.exitTile die other % 128
def entryTile (die other : Nat) : Nat := die * 128 + Config.entryTile die other % 128

/-- The leg of a message from a tile to a tile of the same die: where it ejects, and its list. Outside an open partition no
lists are written, and a message passes no waypoint (log 84). -/
def legTo (t dst : Nat) (s : State) : Nat × Word :=
  match partitionOf t s with
  | none => (dst, 0)
  | some p =>
    if t = dst ∨ holdsTile p dst s = false then (dst, 0)
    else let l := turnList t dst s
      (injectsTo p t l.toNat, l)

/-- The next leg of a message at a tile (R318, R319): toward its destination, or toward the exit to the destination's die,
whose link writes a fresh list at the entry tile. -/
def nextLeg (t dst : Nat) (s : State) : Nat × Word :=
  if t / 128 = dst / 128 then legTo t dst s
  else
    let x := exitTile (t / 128) (dst / 128)
    if t = x then legTo (entryTile (dst / 128) (t / 128)) dst s else legTo t x s

/-! ### Prism switches (R317) -/

/-- The setting of a prism switch. -/
inductive Prism where
  /-- to the facing port of the neighbouring router -/
  | native
  /-- to a tap on the express lanes of its row or column -/
  | tap
  | nothing
  deriving DecidableEq, Repr

/-- The neighbour that a port faces: its row and column, counted from 1 so that an edge of the die is seen. -/
def portFaces (t port : Nat) : Nat × Nat :=
  (meshRow t + 1 + (if port = 2 then 1 else 0) - (if port = 0 then 1 else 0),
   meshCol t + 1 + (if port = 1 then 1 else 0) - (if port = 3 then 1 else 0))

/-- The prism switch at a port of a tile of a rectangle. -/
def prismIn (p : Partition) (t port : Nat) : Prism :=
  let r := meshRow t
  let c := meshCol t
  let (r', c') := portFaces t port
  let inside := decide (p.row0 < r' ∧ r' ≤ p.row1 + 1 ∧ p.col0 < c' ∧ c' ≤ p.col1 + 1)
  let edge := decide (r' = 0 ∨ 8 < r' ∨ c' = 0 ∨ 16 < c')
  if inside then
    if p.topo = 2 ∧ port % 2 = 1 ∧ r ≠ p.row0 then .nothing
    else if p.topo = 1 ∧ port % 2 = 0 then
      let upper := min r (r' - 1) - p.row0
      if c = (if upper % 2 = 0 then p.col1 else p.col0) then .native else .nothing
    else .native
  else if p.topo = 3 then .tap
  else if p.topo = 1 ∧ c = p.col0 ∧ (r = p.row0 ∧ port = 0 ∨ r = p.row1 ∧ port = 2) then .tap
  else if edge then .native
  else .nothing

/-- The prism switch at a port of a tile: native in a tile of no open partition. -/
def prismAt (t port : Nat) (s : State) : Prism :=
  match partitionOf t s with
  | none => .native
  | some p => if p.whole then .native else prismIn p t port

/-- The express lane segments that a partition has reserved: row or column, its number on the die, and the columns or rows
between which it runs. -/
def laneSegments (p : Partition) : List (Bool × Nat × Nat × Nat) :=
  if p.whole then []
  else if p.topo = 3 then
    ((lineSteps p.row0 p.row1).cons p.row0).map (fun r => (true, r, p.col0, p.col1)) ++
      ((lineSteps p.col0 p.col1).cons p.col0).map fun c => (false, c, p.row0, p.row1)
  else if p.topo = 1 then [(false, p.col0, p.row0, p.row1)]
  else []

end Sys2Proof.Machine
end

