-- ==== Sys2Proof/Machine/Operands.lean ====
section
/-! DEFINITION. Operands and the checks before issue: operand bytes and specials (R51 to R55, R132),
sources that are full and destinations that are free (R57, R58), the order of R144, migrations to a cell
that lists the set (R78), and the writing of a result (R63, R64). -/

namespace Sys2Proof.Machine

open Sys2Proof

/-! ### Words -/

/-- The word of an instruction as a number, and its length in bytes. -/
def wordNat (i : Instr) : Nat := (wordOf (encode i)).toNat
def lenOf (i : Instr) : Nat := (encode i).length

/-- NPC (R131). -/
def npc (i : Instr) (h : Hart) : Nat := (h.pc.toNat + lenOf i) % 2 ^ 54

/-! ### Operand bytes -/

/-- The positions of an operand byte: its site, its base in xw and its bit of xe (R132). -/
inductive Pos where
  | A
  | B
  | D
  deriving DecidableEq, Repr

/-- The site of a position (R286). -/
def posSite : Pos → Nat
  | .A => 1
  | .B => 2
  | .D => 3

/-- The bit of xe of a position (R60). -/
def posBit : Pos → Nat
  | .A => 0
  | .B => 1
  | .D => 2

/-- The base of a position: DBASE [7:0], ABASE [15:8], BBASE [23:16] of xw (R51, R60). -/
def posBase (p : Pos) (h : Hart) : Nat :=
  match p with
  | .D => field h.xw.toNat 0 8
  | .A => field h.xw.toNat 8 8
  | .B => field h.xw.toNat 16 8

/-- The number of slices of an operand (R53). -/
def opSlices (sc : Scale) (x : Byte) : Nat :=
  match sc with
  | .n => 2 ^ opCode x
  | .d => 2 ^ (opCode x + 1)

/-- The width of an operand in bits. -/
def opBits (sc : Scale) (x : Byte) : Nat := 4 * opSlices sc x

/-- The first slice of an operand (R51). -/
def opFirst (p : Pos) (x : Byte) (h : Hart) : Nat := (posBase p h + opIdx x) % 256

/-- The bound stream of a stream register. -/
def streamOf (k : Nat) (h : Hart) : Option Stream := lookupNat k h.streams

/-- Element i of the buffer of a stream register: width and value (R48). -/
def streamElem (k i : Nat) (h : Hart) : Nat × Nat :=
  match streamOf k h with
  | some st => match st.buf[i]? with
    | some (w, v) => (v.toNat % 2 ^ w, w)
    | none => (0, 64)
  | none => (0, 64)

/-- A source operand: value and width (R52). `prev` counts earlier positions of the instruction that name
the same stream register. -/
def readOp (sc : Scale) (p : Pos) (x : Byte) (prev : Nat) (h : Hart) : Nat × Nat :=
  let w := opBits sc x
  if isSpecial x then
    if isRx x then (h.rx.toNat % 2 ^ w, w)
    else if isSt x then streamElem (opIdx x - 59) prev h
    else if isHid x then (h.name.toNat % 2 ^ w, w)
    else (0, w)
  else (readSlices h.slices (opFirst p x h) (opSlices sc x), w)

/-- 1 if two operand bytes name one stream register. -/
def sameStream (x y : Byte) : Nat := bit (isSt x && opIdx x == opIdx y)

/-! ### Needs and targets -/

/-- What an instruction reads. -/
inductive Need where
  | slices (site xbit s n : Nat)
  | rx (site xbit : Nat)
  | strm (site xbit k idx : Nat)
  | vec (site xbit k : Nat)
  | cap (k : Nat)
  | none
  deriving DecidableEq, Repr

/-- What an instruction writes or marks empty. -/
inductive Tgt where
  | slices (s n : Nat)
  | vec (k : Nat)
  | cap (k : Nat)
  | tx
  | none
  deriving DecidableEq, Repr

/-- The need of a scalar source operand. -/
def srcNeed (sc : Scale) (p : Pos) (x : Byte) (prev : Nat) (h : Hart) : Need :=
  if isSpecial x then
    if isRx x then .rx (posSite p) (posBit p)
    else if isSt x then .strm (posSite p) (posBit p) (opIdx x - 59) prev
    else .none
  else .slices (posSite p) (posBit p) (opFirst p x h) (opSlices sc x)

/-- The target of a scalar destination operand. -/
def dstTgt (sc : Scale) (p : Pos) (x : Byte) (h : Hart) : Tgt :=
  if isSpecial x then (if isTx x then .tx else .none)
  else .slices (opFirst p x h) (opSlices sc x)

/-- A vector source: its empty policy is VEC, or DSRC where D is read (R207). -/
def vecNeed (p : Pos) (k : Nat) : Need :=
  .vec (posSite p) (match p with
    | .D => 2
    | _ => 4) k

/-- All granules of a stretch are full. -/
def fullSlices (h : Hart) (s n : Nat) : Bool := granules s n &&& ~~~h.gfull == 0

/-- A need names something empty. -/
def needEmpty (h : Hart) : Need → Bool
  | .slices _ _ s n => !fullSlices h s n
  | .rx _ _ => !h.rxFull
  | .strm _ _ k i => match streamOf k h with
    | some st => st.buf.length ≤ i
    | none => false
  | .vec _ _ k => !h.vfull.getLsbD k
  | .cap k => !h.cfull.getLsbD k
  | .none => false

/-- A need names an unbound stream register. -/
def needUnbound (h : Hart) : Need → Bool
  | .strm _ _ k _ => (streamOf k h).isNone
  | _ => false

/-- A need names failed storage (R287). -/
def needFailed (h : Hart) : Need → Bool
  | .slices _ _ s n => granules s n &&& h.gbad &&& h.gfull != 0
  | .vec _ _ k => h.vbad.getLsbD k && h.vfull.getLsbD k
  | .cap k => h.cbad.getLsbD k && h.cfull.getLsbD k
  | _ => false

/-- The site of a need. -/
def needSite : Need → Nat
  | .slices a _ _ _ => a
  | .rx a _ => a
  | .strm a _ _ _ => a
  | .vec a _ _ => a
  | .cap _ => 4
  | .none => 7

/-- The bit of xe of a need. -/
def needBit : Need → Nat
  | .slices _ b _ _ => b
  | .rx _ b => b
  | .strm _ b _ _ => b
  | .vec _ b _ => b
  | .cap _ => 3
  | .none => 31

/-- The location a need waits on (R113). -/
def needLoc : Need → Loc
  | .rx _ _ => .mailbox
  | .strm _ _ k _ => .stream k
  | _ => .regs

/-- A target awaits a deposit (R58). -/
def tgtBusy (h : Hart) : Tgt → Bool
  | .slices s n => !fullSlices h s n
  | .vec k => !h.vfull.getLsbD k
  | .cap k => !h.cfull.getLsbD k
  | _ => false

/-! ### Tags (R81) -/

/-- Tags of a slot that are outstanding. -/
def tagsOut (n : Nat) (s : State) : List Nat :=
  (s.pends.filter fun p => p.origin == n).flatMap fun p => p.tags

/-- The free tags of a slot in the order its counter draws them, at most 64. -/
def freeTags (n : Nat) (s : State) : List Nat :=
  let out := tagsOut n s
  let start := (lookupNat (slotOf n) (getCell (cellOf n) s).tagNext).getD 0
  ((List.range 64).map fun i => (start + i) % 64).filter fun t => !out.contains t

/-! ### The order of R144 -/

/-- What the checks before issue look at. `bars` marks the instructions of R121; `moded` says that the
mode may execute the instruction. -/
structure Gate where
  i : Instr
  set : ExtSet
  bars : Bool
  moded : Bool
  needs : List Need
  tgts : List Tgt
  tags : Nat

/-- Does a cell list a set (R77)? -/
def cellLists (c : Nat) (e : ExtSet) : Bool :=
  match e with
  | .B => true
  | .V => isGeneral c
  | .Y => isGeneral c
  | .S => c == 16
  | .M => c == 17

/-- Begin a migration (R46, R49, R78, R79, R198): a handler of slot 15 traps, a bound stream forbids a move
to another tile; otherwise the hart leaves the rotation with the move to make. -/
def beginMove (dst : MigTo) (toTile : Nat) (s : State) : State :=
  if s.me.handles.isSome then cause cAmsgMigrate 0 s
  else if !s.me.streams.isEmpty && toTile != tileOf s.me.nm then cause cStrmMigrate 0 s
  else modMe (fun h => { h with stat := .departing dst, woken := false, epoch := h.epoch + 1 }) s

/-- Where a set takes a hart (R80). -/
def moveForSet (e : ExtSet) (t : Nat) : MigTo :=
  match e with
  | .S => .cell (t * 32 + 16)
  | .M => .cell (t * 32 + 17)
  | _ => .tile t

/-- Some cell of the hart's tile inside its partition lists the sets beyond B (R78). A hart in firmware
mode needs no partition (log 22). -/
def setServed (h : Hart) (s : State) : Bool :=
  !s.fenced.contains (tileOf h.nm) && (h.mode == .firmware || (hartPartition h s).isSome)

/-- A message of `tx` may not be sent (R64, R65): the cause and its value. -/
def txFault (s : State) : Option (Cause × Nat) :=
  let n := field s.me.xt.toNat 0 22
  if !nameExists n then some (cMsgName, n)
  else if !tileReach s.me (tileOf n) s then some (cHartTarget 3, n)
  else none

/-- The first need of a list that a test picks. -/
def firstNeed (p : Need → Bool) (l : List Need) : Option Need := l.find? p

/-- Sources full and destinations free (R57, R58, R81, R287), step 8 of R144, and the traps of a write to
tx. A stream source that is unbound comes first, and an empty source whose bit says trap before one whose bit says wait
(log 10). -/
def gateOperands (g : Gate) (s : State) : Option State :=
  match firstNeed (needUnbound s.me) g.needs with
  | some _ => some (cause cStrmUnbound 0 s)
  | none =>
  match firstNeed (needFailed s.me) g.needs with
  | some n => some (cause (cErrReg (needSite n)) (wordNat g.i) s)
  | none =>
  match firstNeed (fun n => needEmpty s.me n && s.me.xe.getLsbD (needBit n)) g.needs with
  | some n => some (cause (cRegEmpty (needSite n)) (wordNat g.i) s)
  | none =>
  if g.needs.any (needEmpty s.me) then
    some (waitOn ((g.needs.filter (needEmpty s.me)).map needLoc) s)
  else if g.tgts.any (tgtBusy s.me) then some (waitOn [.regs] s)
  else if g.tags != 0 && (freeTags s.me.nm s).length < g.tags then some (waitOn [.tags] s)
  else if g.tgts.contains .tx then
    match txFault s with
    | some (c, v) => some (cause c v s)
    | none => none
  else none

/-- Checks 5 to 8 of R144: the state when the instruction does not issue, none when it does. -/
def gate (g : Gate) (s : State) : Option State :=
  if !g.moded then some (cause cPrivMode (wordNat g.i) s)
  else if inTxn s.me && (g.bars || g.tgts.contains .tx) then some (abortMe stUnsafe 0 s)
  else if !cellLists (cellNo s.me.nm) g.set then
    if setServed s.me s then
      some (beginMove (moveForSet g.set (tileOf s.me.nm)) (tileOf s.me.nm) s)
    else some (cause (cIllegal 4 0) (wordNat g.i) s)
  else gateOperands g s

/-- A hart's registers after its sources are read: rx and stream elements are consumed once (R48, R63,
R148). -/
def consume (l : List Need) (h : Hart) : Hart :=
  match l with
  | [] => h
  | .rx _ _ :: t => consume t { h with rxFull := false }
  | .strm _ _ k _ :: t =>
    consume t { h with streams := h.streams.map fun (k', st) =>
      (k', if k' = k then { st with buf := st.buf.drop 1 } else st) }
  | _ :: t => consume t h

/-- The instruction issues: it consumes xi (R61) and its sources, and the pc moves on. -/
def advance (g : Gate) (s : State) : State :=
  modMe (fun h => { consume g.needs h with
    xiv := false, pc := BitVec.ofNat 54 (npc g.i h), walked := [], walkFaults := []
    stepped := stepNow h }) s

/-- An instruction: its checks, then its effect on the state in which it has issued. -/
def issue (g : Gate) (k : State → State) (s : State) : State :=
  match gate g s with
  | some s' => s'
  | none => k (advance g s)

/-- A gate with sources and targets and nothing else. -/
def plainGate (i : Instr) (needs : List Need) (tgts : List Tgt) : Gate :=
  ⟨i, .B, false, true, needs, tgts, 0⟩

/-! ### Results -/

/-- A hart sends a message (R64); the send is unacknowledged until it lands. -/
def sendMsg (src dst v : Nat) (s : State) : State :=
  let (i, s) := freshId s
  let leg := nextLeg (tileOf src) (tileOf dst) s
  let hist := ((hartAt src s).map fun h => h.hist).getD []
  let key := ((hartAt src s).map fun h => keyFor h s).getD 16
  let (stamp, s) := sealFrom (tileOf src) (some (tileOf dst)) key s
  let m : Msg := ⟨i, src, dst, BitVec.ofNat 64 v, leg.1, leg.2, tileOf src, false, hist, stamp⟩
  modHart src (fun h => { h with unacked := h.unacked + 1, hist := h.hist ++ [i] })
    { s with msgs := s.msgs ++ [m] }

/-- The name that xt holds (R64). -/
def xtName (h : Hart) : Nat := field h.xt.toNat 0 22

/-- A write to tx. -/
def sendTx (v : Nat) (s : State) : State := sendMsg s.me.nm (xtName s.me) v s

/-- Write a result of width w to a destination operand (R52, R63, R147). -/
def writeOp (sc : Scale) (p : Pos) (x : Byte) (v : Nat) (s : State) : State :=
  let w := opBits sc x
  if isSpecial x then
    if isRx x then modMe (fun h => { h with rx := BitVec.ofNat 64 (v % 2 ^ w), rxFull := true }) s
    else if isTx x then sendTx (v % 2 ^ w) s
    else s
  else modMe (fun h => putSlices (opFirst p x h) (opSlices sc x) v h) s

/-! ### Operands of both word sizes -/

/-- A scalar operand: an operand byte of a scale, or a granule field of a 16-bit word (R132, R137). -/
inductive Opd where
  | byte (sc : Scale) (x : Byte)
  | gran (g : BitVec 5)
  deriving DecidableEq, Repr

/-- The width of an operand in bits. -/
def opdBits : Opd → Nat
  | .byte sc x => opBits sc x
  | .gran _ => 32

/-- Value and width of a source (R52, R137). -/
def readOpd (p : Pos) (o : Opd) (prev : Nat) (h : Hart) : Nat × Nat :=
  match o with
  | .byte sc x => readOp sc p x prev h
  | .gran g => (readSlices h.slices (8 * g.toNat) 8, 32)

/-- What a source needs. -/
def opdNeed (p : Pos) (o : Opd) (prev : Nat) (h : Hart) : Need :=
  match o with
  | .byte sc x => srcNeed sc p x prev h
  | .gran g => .slices (posSite p) (posBit p) (8 * g.toNat) 8

/-- What a destination writes. -/
def opdTgt (p : Pos) (o : Opd) (h : Hart) : Tgt :=
  match o with
  | .byte sc x => dstTgt sc p x h
  | .gran g => .slices (8 * g.toNat) 8

/-- Write a result. -/
def writeOpd (p : Pos) (o : Opd) (v : Nat) (s : State) : State :=
  match o with
  | .byte sc x => writeOp sc p x v s
  | .gran g => modMe (putSlices (8 * g.toNat) 8 v) s

/-- 1 if two operands name one stream register. -/
def sameStrm (x y : Opd) : Nat :=
  match x, y with
  | .byte _ a, .byte _ b => sameStream a b
  | _, _ => 0

/-- Where a reply to an operand lands (R59, R175). -/
def destOf (sc : Scale) (p : Pos) (x : Byte) (h : Hart) : Dest :=
  if isSpecial x then
    if isRx x then .rx (opBits sc x)
    else if isTx x then .tx (opBits sc x) (xtName h)
    else .none
  else .slices (opFirst p x h) (opSlices sc x)

/-- The special sources that an instruction has read, as a reply keeps them: 0 to 3 for st0 to st3, 4 for
rx. -/
def eatsOf (l : List Need) : List Nat :=
  l.filterMap fun n => match n with
    | .rx _ _ => some 4
    | .strm _ _ k _ => some k
    | _ => none

end Sys2Proof.Machine
end

