-- ==== Sys2Proof/Machine/Scalar.lean ====
section
/-! DEFINITION. Scalar and tree instructions (R147 to R163): values first, then one meaning for each
instruction. -/

namespace Sys2Proof.Machine

open Sys2Proof

/-! ### Values -/

/-- A source: value and own width. -/
abbrev Val := Nat × Nat

/-- Results of R149 at width w, sources brought to w by the class (R54). -/
def aluAdd (c : Cls) (w : Nat) (a b : Val) : Nat := (bring c a.1 a.2 w + bring c b.1 b.2 w) % 2 ^ w
def aluSub (c : Cls) (w : Nat) (a b : Val) : Nat :=
  (bring c a.1 a.2 w + (2 ^ w - bring c b.1 b.2 w)) % 2 ^ w
def aluMul (c : Cls) (w : Nat) (a b : Val) : Nat := (bring c a.1 a.2 w * bring c b.1 b.2 w) % 2 ^ w
def aluAnd (w : Nat) (a b : Val) : Nat := zext a.1 w &&& zext b.1 w
def aluOr (w : Nat) (a b : Val) : Nat := zext a.1 w ||| zext b.1 w
def aluXor (w : Nat) (a b : Val) : Nat := zext a.1 w ^^^ zext b.1 w
def aluAndn (w : Nat) (a b : Val) : Nat := zext a.1 w &&& (2 ^ w - 1 - zext b.1 w)

/-- The interleaving of two sources of half width (R160). -/
def aluZip (w : Nat) (a b : Val) : Nat := zipBits (zext a.1 (w / 2)) (zext b.1 (w / 2)) (w / 2)

/-- The high half of a product (R152). -/
def aluMulh (c : Cls) (w : Nat) (a b : Val) : Nat :=
  let x := readInt c (bring c a.1 a.2 w) w * readInt c (bring c b.1 b.2 w) w
  wrap (x / (2 ^ w : Int)) w

/-- Quotient rounded toward zero and remainder (R153). -/
def divPair (c : Cls) (w : Nat) (a b : Int) : Int × Int :=
  if b = 0 then (2 ^ w - 1, a)
  else if c = .S ∧ a = -(2 ^ (w - 1) : Int) ∧ b = -1 then (a, 0)
  else (a.tdiv b, a - a.tdiv b * b)

def aluDiv (c : Cls) (w : Nat) (a b : Val) : Nat :=
  wrap (divPair c w (readInt c (bring c a.1 a.2 w) w) (readInt c (bring c b.1 b.2 w) w)).1 w
def aluRem (c : Cls) (w : Nat) (a b : Val) : Nat :=
  wrap (divPair c w (readInt c (bring c a.1 a.2 w) w) (readInt c (bring c b.1 b.2 w) w)).2 w

/-- The lesser and the greater, signed (R154). -/
def aluMin (w : Nat) (a b : Val) : Nat :=
  wrap (min (toSigned (bring .S a.1 a.2 w) w) (toSigned (bring .S b.1 b.2 w) w)) w
def aluMax (w : Nat) (a b : Val) : Nat :=
  wrap (max (toSigned (bring .S a.1 a.2 w) w) (toSigned (bring .S b.1 b.2 w) w)) w

/-- The conditions of compares and two-operand branches (R154, R165). -/
inductive Cond where
  | eq | ne | lt | ge
  deriving DecidableEq, Repr

/-- A condition on two sources, each read at full width by the class. -/
def holds (k : Cond) (c : Cls) (a b : Val) : Bool :=
  let x := readInt c a.1 a.2
  let y := readInt c b.1 b.2
  match k with
  | .eq => x == y
  | .ne => x != y
  | .lt => decide (x < y)
  | .ge => decide (y ≤ x)

def aluCmp (k : Cond) (c : Cls) (_w : Nat) (a b : Val) : Nat := bit (holds k c a b)

/-- Shifts of a value of width w by s (R155). -/
def shiftL (w v n : Nat) : Nat := if w ≤ n then 0 else v * 2 ^ n % 2 ^ w
def shiftR (w v n : Nat) : Nat := if w ≤ n then 0 else v / 2 ^ n
def shiftA (w v n : Nat) : Nat := wrap (toSigned v w / (2 ^ (min n w) : Int)) w
def rotateL (w v n : Nat) : Nat := (v * 2 ^ (n % w) + v / 2 ^ (w - n % w)) % 2 ^ w

/-- One-source results (R156): `a` is the source's own width. -/
def aluPopc (w : Nat) (a : Val) : Nat := popCount a.1 a.2 % 2 ^ w
def aluClz (w : Nat) (a : Val) : Nat := countLeading a.1 a.2 % 2 ^ w
def aluCtz (w : Nat) (a : Val) : Nat := countTrailing a.1 a.2 % 2 ^ w
def aluBrev (w : Nat) (a : Val) : Nat := bitReverse (zext a.1 w) w
def aluUnzipR (w : Nat) (a : Val) : Nat := unzipRow a.1 a.2 % 2 ^ w
def aluUnzipC (w : Nat) (a : Val) : Nat := unzipCol a.1 a.2 % 2 ^ w

/-- Bit fields (R158). -/
def aluExt (p w : Nat) (a : Val) : Nat := a.1 / 2 ^ p % 2 ^ w
def aluIns (p w : Nat) (old : Nat) (a : Val) : Nat :=
  let f := if p < w then min a.2 (w - p) else 0
  old % 2 ^ p % 2 ^ w + a.1 % 2 ^ f * 2 ^ p % 2 ^ w + clearLow (old % 2 ^ w) (p + f)

/-- The depth of a block word (R159). -/
def blockDepth (v : Nat) : Nat := min (field v 56 5) 27

/-- The first address of a block word at a depth. -/
def blockPath (v k : Nat) : Nat := clearLow (field v 0 54) (54 - 2 * k)

/-- Tree paths (R161 to R163). -/
def aluTdesc (w : Nat) (a b : Val) : Nat :=
  let k := blockDepth a.1
  if k = 27 then (27 * 2 ^ 56 + blockPath a.1 27) % 2 ^ w
  else ((k + 1) * 2 ^ 56 + blockPath a.1 k + b.1 % 4 * 2 ^ (52 - 2 * k)) % 2 ^ w
def aluTasc (l w : Nat) (a : Val) : Nat :=
  let j := blockDepth a.1 - l
  (j * 2 ^ 56 + blockPath a.1 j) % 2 ^ w
def aluTdig (n w : Nat) (a : Val) : Nat :=
  if n ≤ 27 then a.1 / 2 ^ (54 - 2 * n) % 4 % 2 ^ w else 0

/-- The immediate of `li` (R61, R157): 32 bits with xi, else 16. -/
def liVal (h : Hart) (imm : BitVec 16) : Val :=
  if h.xiv then (field h.xi.toNat 0 16 * 2 ^ 16 + imm.toNat, 32) else (imm.toNat, 16)

/-! ### Shapes -/

/-- D := f(A, B). -/
def op3 (i : Instr) (f : Nat → Val → Val → Nat) (b a d : Opd) (s : State) : State :=
  let x := readOpd .A a 0 s.me
  let y := readOpd .B b (sameStrm a b) s.me
  issue (plainGate i [opdNeed .A a 0 s.me, opdNeed .B b (sameStrm a b) s.me] [opdTgt .D d s.me])
    (writeOpd .D d (f (opdBits d) x y)) s

/-- A := f(A, B): A is destination and first source (R151). -/
def op2 (i : Instr) (f : Nat → Val → Val → Nat) (b a : Opd) (s : State) : State :=
  let x := readOpd .A a 0 s.me
  let y := readOpd .B b 0 s.me
  issue (plainGate i [opdNeed .A a 0 s.me, opdNeed .B b 0 s.me] [opdTgt .A a s.me])
    (writeOpd .A a (f (opdBits a) x y)) s

/-- D := f(A). -/
def op1 (i : Instr) (f : Nat → Val → Nat) (a d : Opd) (s : State) : State :=
  let x := readOpd .A a 0 s.me
  issue (plainGate i [opdNeed .A a 0 s.me] [opdTgt .D d s.me]) (writeOpd .D d (f (opdBits d) x)) s

/-- D := f(old D, A): D is also a source, under DSRC. -/
def opD1 (i : Instr) (f : Nat → Nat → Val → Nat) (a d : Opd) (s : State) : State :=
  let x := readOpd .A a 0 s.me
  let y := readOpd .D d 0 s.me
  issue (plainGate i [opdNeed .A a 0 s.me, opdNeed .D d 0 s.me] [opdTgt .D d s.me])
    (writeOpd .D d (f (opdBits d) y.1 x)) s

/-- `sel` (R150): the old D decides. -/
def opSel (i : Instr) (b a d : Opd) (s : State) : State :=
  let w := opdBits d
  let x := readOpd .A a 0 s.me
  let y := readOpd .B b (sameStrm a b) s.me
  let c := readOpd .D d 0 s.me
  issue (plainGate i
      [opdNeed .A a 0 s.me, opdNeed .B b (sameStrm a b) s.me, opdNeed .D d 0 s.me] [opdTgt .D d s.me])
    (writeOpd .D d (if c.1 ≠ 0 then bring .S x.1 x.2 w else bring .S y.1 y.2 w)) s

/-- `li` (R157). -/
def opLi (i : Instr) (v : Val) (d : Opd) (s : State) : State :=
  issue (plainGate i [] [opdTgt .D d s.me]) (writeOpd .D d (sext v.1 v.2 (opdBits d))) s

/-! ### Meanings -/

/-- R149: Signed add at n-scale: D := (A + B) mod 2^w. -/
def execAddN (b : BitVec 8) (a : BitVec 8) (d : BitVec 8) (s : State) : Out :=
  .next (op3 (.addN b a d) (aluAdd .S) (.byte .n b) (.byte .n a) (.byte .n d) s)
/-- R149: Signed add at d-scale: D := (A + B) mod 2^w. -/
def execAddD (b : BitVec 8) (a : BitVec 8) (d : BitVec 8) (s : State) : Out :=
  .next (op3 (.addD b a d) (aluAdd .S) (.byte .d b) (.byte .d a) (.byte .d d) s)
/-- R149: Unsigned add at n-scale. -/
def execAdduN (b : BitVec 8) (a : BitVec 8) (d : BitVec 8) (s : State) : Out :=
  .next (op3 (.adduN b a d) (aluAdd .Z) (.byte .n b) (.byte .n a) (.byte .n d) s)
/-- R149: Unsigned add at d-scale. -/
def execAdduD (b : BitVec 8) (a : BitVec 8) (d : BitVec 8) (s : State) : Out :=
  .next (op3 (.adduD b a d) (aluAdd .Z) (.byte .d b) (.byte .d a) (.byte .d d) s)
/-- R149: Signed subtract at n-scale. -/
def execSubN (b : BitVec 8) (a : BitVec 8) (d : BitVec 8) (s : State) : Out :=
  .next (op3 (.subN b a d) (aluSub .S) (.byte .n b) (.byte .n a) (.byte .n d) s)
/-- R149: Signed subtract at d-scale. -/
def execSubD (b : BitVec 8) (a : BitVec 8) (d : BitVec 8) (s : State) : Out :=
  .next (op3 (.subD b a d) (aluSub .S) (.byte .d b) (.byte .d a) (.byte .d d) s)
/-- R149: Unsigned subtract at n-scale. -/
def execSubuN (b : BitVec 8) (a : BitVec 8) (d : BitVec 8) (s : State) : Out :=
  .next (op3 (.subuN b a d) (aluSub .Z) (.byte .n b) (.byte .n a) (.byte .n d) s)
/-- R149: Unsigned subtract at d-scale. -/
def execSubuD (b : BitVec 8) (a : BitVec 8) (d : BitVec 8) (s : State) : Out :=
  .next (op3 (.subuD b a d) (aluSub .Z) (.byte .d b) (.byte .d a) (.byte .d d) s)
/-- R149: Signed multiply, low half, at n-scale. -/
def execMulN (b : BitVec 8) (a : BitVec 8) (d : BitVec 8) (s : State) : Out :=
  .next (op3 (.mulN b a d) (aluMul .S) (.byte .n b) (.byte .n a) (.byte .n d) s)
/-- R149: Signed multiply, low half, at d-scale. -/
def execMulD (b : BitVec 8) (a : BitVec 8) (d : BitVec 8) (s : State) : Out :=
  .next (op3 (.mulD b a d) (aluMul .S) (.byte .d b) (.byte .d a) (.byte .d d) s)
/-- R149: Unsigned multiply, low half, at n-scale. -/
def execMuluN (b : BitVec 8) (a : BitVec 8) (d : BitVec 8) (s : State) : Out :=
  .next (op3 (.muluN b a d) (aluMul .Z) (.byte .n b) (.byte .n a) (.byte .n d) s)
/-- R149: Unsigned multiply, low half, at d-scale. -/
def execMuluD (b : BitVec 8) (a : BitVec 8) (d : BitVec 8) (s : State) : Out :=
  .next (op3 (.muluD b a d) (aluMul .Z) (.byte .d b) (.byte .d a) (.byte .d d) s)
/-- R149: Bitwise and at n-scale. -/
def execAndN (b : BitVec 8) (a : BitVec 8) (d : BitVec 8) (s : State) : Out :=
  .next (op3 (.andN b a d) (aluAnd) (.byte .n b) (.byte .n a) (.byte .n d) s)
/-- R149: Bitwise and at d-scale. -/
def execAndD (b : BitVec 8) (a : BitVec 8) (d : BitVec 8) (s : State) : Out :=
  .next (op3 (.andD b a d) (aluAnd) (.byte .d b) (.byte .d a) (.byte .d d) s)
/-- R149: Bitwise or at n-scale. -/
def execOrN (b : BitVec 8) (a : BitVec 8) (d : BitVec 8) (s : State) : Out :=
  .next (op3 (.orN b a d) (aluOr) (.byte .n b) (.byte .n a) (.byte .n d) s)
/-- R149: Bitwise or at d-scale. -/
def execOrD (b : BitVec 8) (a : BitVec 8) (d : BitVec 8) (s : State) : Out :=
  .next (op3 (.orD b a d) (aluOr) (.byte .d b) (.byte .d a) (.byte .d d) s)
/-- R149: Bitwise exclusive or at n-scale. -/
def execXorN (b : BitVec 8) (a : BitVec 8) (d : BitVec 8) (s : State) : Out :=
  .next (op3 (.xorN b a d) (aluXor) (.byte .n b) (.byte .n a) (.byte .n d) s)
/-- R149: Bitwise exclusive or at d-scale. -/
def execXorD (b : BitVec 8) (a : BitVec 8) (d : BitVec 8) (s : State) : Out :=
  .next (op3 (.xorD b a d) (aluXor) (.byte .d b) (.byte .d a) (.byte .d d) s)
/-- R149: A and not B at n-scale. -/
def execAndnN (b : BitVec 8) (a : BitVec 8) (d : BitVec 8) (s : State) : Out :=
  .next (op3 (.andnN b a d) (aluAndn) (.byte .n b) (.byte .n a) (.byte .n d) s)
/-- R149: A and not B at d-scale. -/
def execAndnD (b : BitVec 8) (a : BitVec 8) (d : BitVec 8) (s : State) : Out :=
  .next (op3 (.andnD b a d) (aluAndn) (.byte .d b) (.byte .d a) (.byte .d d) s)
/-- R160: Interleave row A and column B bits, n-scale. -/
def execZipN (b : BitVec 8) (a : BitVec 8) (d : BitVec 8) (s : State) : Out :=
  .next (op3 (.zipN b a d) (aluZip) (.byte .n b) (.byte .n a) (.byte .n d) s)
/-- R160: Interleave row A and column B bits, d-scale. -/
def execZipD (b : BitVec 8) (a : BitVec 8) (d : BitVec 8) (s : State) : Out :=
  .next (op3 (.zipD b a d) (aluZip) (.byte .d b) (.byte .d a) (.byte .d d) s)
/-- R161: Descend a block word into quadrant B. -/
def execTdesc (b : BitVec 8) (a : BitVec 8) (d : BitVec 8) (s : State) : Out :=
  .next (op3 (.tdesc b a d) aluTdesc (.byte .d b) (.byte .d a) (.byte .d d) s)
/-- R150: Select A if old D is nonzero, else B, n-scale. -/
def execSelN (b : BitVec 8) (a : BitVec 8) (d : BitVec 8) (s : State) : Out :=
  .next (opSel (.selN b a d) (.byte .n b) (.byte .n a) (.byte .n d) s)
/-- R150: Select A if old D is nonzero, else B, d-scale. -/
def execSelD (b : BitVec 8) (a : BitVec 8) (d : BitVec 8) (s : State) : Out :=
  .next (opSel (.selD b a d) (.byte .d b) (.byte .d a) (.byte .d d) s)
/-- R155: Shift left by a register amount, F form, n-scale. -/
def execShlRegN (b : BitVec 8) (a : BitVec 8) (s : State) : Out :=
  .next (op2 (.shlRegN b a) (fun w x y => shiftL w x.1 y.1) (.byte .n b) (.byte .n a) s)
/-- R155: Shift left by a register amount, F form, d-scale. -/
def execShlRegD (b : BitVec 8) (a : BitVec 8) (s : State) : Out :=
  .next (op2 (.shlRegD b a) (fun w x y => shiftL w x.1 y.1) (.byte .d b) (.byte .d a) s)
/-- R155: Logical shift right by a register amount, n-scale. -/
def execShrRegN (b : BitVec 8) (a : BitVec 8) (s : State) : Out :=
  .next (op2 (.shrRegN b a) (fun w x y => shiftR w x.1 y.1) (.byte .n b) (.byte .n a) s)
/-- R155: Logical shift right by a register amount, d-scale. -/
def execShrRegD (b : BitVec 8) (a : BitVec 8) (s : State) : Out :=
  .next (op2 (.shrRegD b a) (fun w x y => shiftR w x.1 y.1) (.byte .d b) (.byte .d a) s)
/-- R155: Arithmetic shift right by a register amount, n-scale. -/
def execSraRegN (b : BitVec 8) (a : BitVec 8) (s : State) : Out :=
  .next (op2 (.sraRegN b a) (fun w x y => shiftA w x.1 y.1) (.byte .n b) (.byte .n a) s)
/-- R155: Arithmetic shift right by a register amount, d-scale. -/
def execSraRegD (b : BitVec 8) (a : BitVec 8) (s : State) : Out :=
  .next (op2 (.sraRegD b a) (fun w x y => shiftA w x.1 y.1) (.byte .d b) (.byte .d a) s)
/-- R155: Rotate left by a register amount, n-scale. -/
def execRolRegN (b : BitVec 8) (a : BitVec 8) (s : State) : Out :=
  .next (op2 (.rolRegN b a) (fun w x y => rotateL w x.1 y.1) (.byte .n b) (.byte .n a) s)
/-- R155: Rotate left by a register amount, d-scale. -/
def execRolRegD (b : BitVec 8) (a : BitVec 8) (s : State) : Out :=
  .next (op2 (.rolRegD b a) (fun w x y => rotateL w x.1 y.1) (.byte .d b) (.byte .d a) s)
/-- R152: High half of a signed product, n-scale. -/
def execMulhN (b : BitVec 8) (a : BitVec 8) (s : State) : Out :=
  .next (op2 (.mulhN b a) (aluMulh .S) (.byte .n b) (.byte .n a) s)
/-- R152: High half of a signed product, d-scale. -/
def execMulhD (b : BitVec 8) (a : BitVec 8) (s : State) : Out :=
  .next (op2 (.mulhD b a) (aluMulh .S) (.byte .d b) (.byte .d a) s)
/-- R152: High half of an unsigned product, n-scale. -/
def execMulhuN (b : BitVec 8) (a : BitVec 8) (s : State) : Out :=
  .next (op2 (.mulhuN b a) (aluMulh .Z) (.byte .n b) (.byte .n a) s)
/-- R152: High half of an unsigned product, d-scale. -/
def execMulhuD (b : BitVec 8) (a : BitVec 8) (s : State) : Out :=
  .next (op2 (.mulhuD b a) (aluMulh .Z) (.byte .d b) (.byte .d a) s)
/-- R153: Signed divide toward zero, n-scale. -/
def execDivN (b : BitVec 8) (a : BitVec 8) (s : State) : Out :=
  .next (op2 (.divN b a) (aluDiv .S) (.byte .n b) (.byte .n a) s)
/-- R153: Signed divide toward zero, d-scale. -/
def execDivD (b : BitVec 8) (a : BitVec 8) (s : State) : Out :=
  .next (op2 (.divD b a) (aluDiv .S) (.byte .d b) (.byte .d a) s)
/-- R153: Unsigned divide, n-scale. -/
def execDivuN (b : BitVec 8) (a : BitVec 8) (s : State) : Out :=
  .next (op2 (.divuN b a) (aluDiv .Z) (.byte .n b) (.byte .n a) s)
/-- R153: Unsigned divide, d-scale. -/
def execDivuD (b : BitVec 8) (a : BitVec 8) (s : State) : Out :=
  .next (op2 (.divuD b a) (aluDiv .Z) (.byte .d b) (.byte .d a) s)
/-- R153: Signed remainder, n-scale. -/
def execRemN (b : BitVec 8) (a : BitVec 8) (s : State) : Out :=
  .next (op2 (.remN b a) (aluRem .S) (.byte .n b) (.byte .n a) s)
/-- R153: Signed remainder, d-scale. -/
def execRemD (b : BitVec 8) (a : BitVec 8) (s : State) : Out :=
  .next (op2 (.remD b a) (aluRem .S) (.byte .d b) (.byte .d a) s)
/-- R153: Unsigned remainder, n-scale. -/
def execRemuN (b : BitVec 8) (a : BitVec 8) (s : State) : Out :=
  .next (op2 (.remuN b a) (aluRem .Z) (.byte .n b) (.byte .n a) s)
/-- R153: Unsigned remainder, d-scale. -/
def execRemuD (b : BitVec 8) (a : BitVec 8) (s : State) : Out :=
  .next (op2 (.remuD b a) (aluRem .Z) (.byte .d b) (.byte .d a) s)
/-- R154: Signed minimum into A, n-scale. -/
def execMinN (b : BitVec 8) (a : BitVec 8) (s : State) : Out :=
  .next (op2 (.minN b a) (aluMin) (.byte .n b) (.byte .n a) s)
/-- R154: Signed minimum into A, d-scale. -/
def execMinD (b : BitVec 8) (a : BitVec 8) (s : State) : Out :=
  .next (op2 (.minD b a) (aluMin) (.byte .d b) (.byte .d a) s)
/-- R154: Signed maximum into A, n-scale. -/
def execMaxN (b : BitVec 8) (a : BitVec 8) (s : State) : Out :=
  .next (op2 (.maxN b a) (aluMax) (.byte .n b) (.byte .n a) s)
/-- R154: Signed maximum into A, d-scale. -/
def execMaxD (b : BitVec 8) (a : BitVec 8) (s : State) : Out :=
  .next (op2 (.maxD b a) (aluMax) (.byte .d b) (.byte .d a) s)
/-- R154: Compare equal at full width, result 1 or 0, n-scale. -/
def execCmpEqN (b : BitVec 8) (a : BitVec 8) (s : State) : Out :=
  .next (op2 (.cmpEqN b a) (aluCmp .eq .S) (.byte .n b) (.byte .n a) s)
/-- R154: Compare equal, d-scale. -/
def execCmpEqD (b : BitVec 8) (a : BitVec 8) (s : State) : Out :=
  .next (op2 (.cmpEqD b a) (aluCmp .eq .S) (.byte .d b) (.byte .d a) s)
/-- R154: Compare not equal, n-scale. -/
def execCmpNeN (b : BitVec 8) (a : BitVec 8) (s : State) : Out :=
  .next (op2 (.cmpNeN b a) (aluCmp .ne .S) (.byte .n b) (.byte .n a) s)
/-- R154: Compare not equal, d-scale. -/
def execCmpNeD (b : BitVec 8) (a : BitVec 8) (s : State) : Out :=
  .next (op2 (.cmpNeD b a) (aluCmp .ne .S) (.byte .d b) (.byte .d a) s)
/-- R154: Signed less-than compare, n-scale. -/
def execCmpLtN (b : BitVec 8) (a : BitVec 8) (s : State) : Out :=
  .next (op2 (.cmpLtN b a) (aluCmp .lt .S) (.byte .n b) (.byte .n a) s)
/-- R154: Signed less-than compare, d-scale. -/
def execCmpLtD (b : BitVec 8) (a : BitVec 8) (s : State) : Out :=
  .next (op2 (.cmpLtD b a) (aluCmp .lt .S) (.byte .d b) (.byte .d a) s)
/-- R154: Signed greater-or-equal compare, n-scale. -/
def execCmpGeN (b : BitVec 8) (a : BitVec 8) (s : State) : Out :=
  .next (op2 (.cmpGeN b a) (aluCmp .ge .S) (.byte .n b) (.byte .n a) s)
/-- R154: Signed greater-or-equal compare, d-scale. -/
def execCmpGeD (b : BitVec 8) (a : BitVec 8) (s : State) : Out :=
  .next (op2 (.cmpGeD b a) (aluCmp .ge .S) (.byte .d b) (.byte .d a) s)
/-- R154: Unsigned less-than compare, n-scale. -/
def execCmpLtuN (b : BitVec 8) (a : BitVec 8) (s : State) : Out :=
  .next (op2 (.cmpLtuN b a) (aluCmp .lt .Z) (.byte .n b) (.byte .n a) s)
/-- R154: Unsigned less-than compare, d-scale. -/
def execCmpLtuD (b : BitVec 8) (a : BitVec 8) (s : State) : Out :=
  .next (op2 (.cmpLtuD b a) (aluCmp .lt .Z) (.byte .d b) (.byte .d a) s)
/-- R154: Unsigned greater-or-equal compare, n-scale. -/
def execCmpGeuN (b : BitVec 8) (a : BitVec 8) (s : State) : Out :=
  .next (op2 (.cmpGeuN b a) (aluCmp .ge .Z) (.byte .n b) (.byte .n a) s)
/-- R154: Unsigned greater-or-equal compare, d-scale. -/
def execCmpGeuD (b : BitVec 8) (a : BitVec 8) (s : State) : Out :=
  .next (op2 (.cmpGeuD b a) (aluCmp .ge .Z) (.byte .d b) (.byte .d a) s)
/-- R156: Move A zero-extended or truncated to D, n-scale. -/
def execMovZxN (a : BitVec 8) (d : BitVec 8) (s : State) : Out :=
  .next (op1 (.movZxN a d) (fun w x => zext x.1 w) (.byte .n a) (.byte .n d) s)
/-- R156: Move A zero-extended or truncated to D, d-scale. -/
def execMovZxD (a : BitVec 8) (d : BitVec 8) (s : State) : Out :=
  .next (op1 (.movZxD a d) (fun w x => zext x.1 w) (.byte .d a) (.byte .d d) s)
/-- R156: Move A sign-extended or truncated to D, n-scale. -/
def execMovSxN (a : BitVec 8) (d : BitVec 8) (s : State) : Out :=
  .next (op1 (.movSxN a d) (fun w x => sext x.1 x.2 w) (.byte .n a) (.byte .n d) s)
/-- R156: Move A sign-extended or truncated to D, d-scale. -/
def execMovSxD (a : BitVec 8) (d : BitVec 8) (s : State) : Out :=
  .next (op1 (.movSxD a d) (fun w x => sext x.1 x.2 w) (.byte .d a) (.byte .d d) s)
/-- R156: Population count of A, n-scale. -/
def execPopcN (a : BitVec 8) (d : BitVec 8) (s : State) : Out :=
  .next (op1 (.popcN a d) (aluPopc) (.byte .n a) (.byte .n d) s)
/-- R156: Population count of A, d-scale. -/
def execPopcD (a : BitVec 8) (d : BitVec 8) (s : State) : Out :=
  .next (op1 (.popcD a d) (aluPopc) (.byte .d a) (.byte .d d) s)
/-- R156: Count leading zeros of A, n-scale. -/
def execClzN (a : BitVec 8) (d : BitVec 8) (s : State) : Out :=
  .next (op1 (.clzN a d) (aluClz) (.byte .n a) (.byte .n d) s)
/-- R156: Count leading zeros of A, d-scale. -/
def execClzD (a : BitVec 8) (d : BitVec 8) (s : State) : Out :=
  .next (op1 (.clzD a d) (aluClz) (.byte .d a) (.byte .d d) s)
/-- R156: Count trailing zeros of A, n-scale. -/
def execCtzN (a : BitVec 8) (d : BitVec 8) (s : State) : Out :=
  .next (op1 (.ctzN a d) (aluCtz) (.byte .n a) (.byte .n d) s)
/-- R156: Count trailing zeros of A, d-scale. -/
def execCtzD (a : BitVec 8) (d : BitVec 8) (s : State) : Out :=
  .next (op1 (.ctzD a d) (aluCtz) (.byte .d a) (.byte .d d) s)
/-- R156: Bit reverse of A at D's width, n-scale. -/
def execBrevN (a : BitVec 8) (d : BitVec 8) (s : State) : Out :=
  .next (op1 (.brevN a d) (aluBrev) (.byte .n a) (.byte .n d) s)
/-- R156: Bit reverse of A at D's width, d-scale. -/
def execBrevD (a : BitVec 8) (d : BitVec 8) (s : State) : Out :=
  .next (op1 (.brevD a d) (aluBrev) (.byte .d a) (.byte .d d) s)
/-- R156: Extract the row bits (odd bits) of A, n-scale. -/
def execUnzipRN (a : BitVec 8) (d : BitVec 8) (s : State) : Out :=
  .next (op1 (.unzipRN a d) (aluUnzipR) (.byte .n a) (.byte .n d) s)
/-- R156: Extract the row bits of A, d-scale. -/
def execUnzipRD (a : BitVec 8) (d : BitVec 8) (s : State) : Out :=
  .next (op1 (.unzipRD a d) (aluUnzipR) (.byte .d a) (.byte .d d) s)
/-- R156: Extract the column bits (even bits) of A, n-scale. -/
def execUnzipCN (a : BitVec 8) (d : BitVec 8) (s : State) : Out :=
  .next (op1 (.unzipCN a d) (aluUnzipC) (.byte .n a) (.byte .n d) s)
/-- R156: Extract the column bits of A, d-scale. -/
def execUnzipCD (a : BitVec 8) (d : BitVec 8) (s : State) : Out :=
  .next (op1 (.unzipCD a d) (aluUnzipC) (.byte .d a) (.byte .d d) s)
/-- R157: Load immediate, extended by xi when XIV is set, n-scale. -/
def execLiN (i : BitVec 16) (d : BitVec 8) (s : State) : Out :=
  .next (opLi (.liN i d) (liVal s.me i) (.byte .n d) s)
/-- R157: Load immediate, extended by xi when XIV is set, d-scale. -/
def execLiD (i : BitVec 16) (d : BitVec 8) (s : State) : Out :=
  .next (opLi (.liD i d) (liVal s.me i) (.byte .d d) s)
/-- R155: Shift left by an immediate amount, n-scale. -/
def execShlImmN (n : BitVec 6) (a d : BitVec 8) (s : State) : Out :=
  .next (op1 (.shlImmN n a d) (fun w x => shiftL w (zext x.1 w) n.toNat) (.byte .n a) (.byte .n d) s)
/-- R155: Shift left by an immediate amount, d-scale. -/
def execShlImmD (n : BitVec 6) (a d : BitVec 8) (s : State) : Out :=
  .next (op1 (.shlImmD n a d) (fun w x => shiftL w (zext x.1 w) n.toNat) (.byte .d a) (.byte .d d) s)
/-- R155: Logical shift right by an immediate amount, n-scale. -/
def execShrImmN (n : BitVec 6) (a d : BitVec 8) (s : State) : Out :=
  .next (op1 (.shrImmN n a d) (fun w x => shiftR w (zext x.1 w) n.toNat) (.byte .n a) (.byte .n d) s)
/-- R155: Logical shift right by an immediate amount, d-scale. -/
def execShrImmD (n : BitVec 6) (a d : BitVec 8) (s : State) : Out :=
  .next (op1 (.shrImmD n a d) (fun w x => shiftR w (zext x.1 w) n.toNat) (.byte .d a) (.byte .d d) s)
/-- R155: Arithmetic shift right by an immediate amount, n-scale. -/
def execSraImmN (n : BitVec 6) (a d : BitVec 8) (s : State) : Out :=
  .next (op1 (.sraImmN n a d) (fun w x => shiftA w (sext x.1 x.2 w) n.toNat) (.byte .n a) (.byte .n d) s)
/-- R155: Arithmetic shift right by an immediate amount, d-scale. -/
def execSraImmD (n : BitVec 6) (a d : BitVec 8) (s : State) : Out :=
  .next (op1 (.sraImmD n a d) (fun w x => shiftA w (sext x.1 x.2 w) n.toNat) (.byte .d a) (.byte .d d) s)
/-- R155: Rotate left by an immediate amount, n-scale. -/
def execRolImmN (n : BitVec 6) (a d : BitVec 8) (s : State) : Out :=
  .next (op1 (.rolImmN n a d) (fun w x => rotateL w (zext x.1 w) n.toNat) (.byte .n a) (.byte .n d) s)
/-- R155: Rotate left by an immediate amount, d-scale. -/
def execRolImmD (n : BitVec 6) (a d : BitVec 8) (s : State) : Out :=
  .next (op1 (.rolImmD n a d) (fun w x => rotateL w (zext x.1 w) n.toNat) (.byte .d a) (.byte .d d) s)
/-- R158: Extract a bit field of A from position p, n-scale. -/
def execExtN (p : BitVec 6) (a : BitVec 8) (d : BitVec 8) (s : State) : Out :=
  .next (op1 (.extN p a d) (aluExt p.toNat) (.byte .n a) (.byte .n d) s)
/-- R158: Insert A into D at bit position p, n-scale. -/
def execInsN (p : BitVec 6) (a : BitVec 8) (d : BitVec 8) (s : State) : Out :=
  .next (opD1 (.insN p a d) (aluIns p.toNat) (.byte .n a) (.byte .n d) s)
/-- R158: Extract a bit field of A from position p, d-scale. -/
def execExtD (p : BitVec 6) (a : BitVec 8) (d : BitVec 8) (s : State) : Out :=
  .next (op1 (.extD p a d) (aluExt p.toNat) (.byte .d a) (.byte .d d) s)
/-- R158: Insert A into D at bit position p, d-scale. -/
def execInsD (p : BitVec 6) (a : BitVec 8) (d : BitVec 8) (s : State) : Out :=
  .next (opD1 (.insD p a d) (aluIns p.toNat) (.byte .d a) (.byte .d d) s)
/-- R162: Ascend a block word by L levels. -/
def execTasc (l : BitVec 5) (a : BitVec 8) (d : BitVec 8) (s : State) : Out :=
  .next (op1 (.tasc l a d) (aluTasc l.toNat) (.byte .d a) (.byte .d d) s)
/-- R163: Read quadrant digit n of an address. -/
def execTdig (n : BitVec 5) (a : BitVec 8) (d : BitVec 8) (s : State) : Out :=
  .next (op1 (.tdig n a d) (aluTdig n.toNat) (.byte .d a) (.byte .d d) s)
/-- R143: 16-bit granule move, as mov.zx. -/
def execMovC (h : BitVec 5) (g : BitVec 5) (s : State) : Out :=
  .next (op1 (.movC h g) (fun w x => zext x.1 w) (.gran h) (.gran g) s)
/-- R143: 16-bit granule add. -/
def execAddC (h : BitVec 5) (g : BitVec 5) (s : State) : Out :=
  .next (op3 (.addC h g) (aluAdd .S) (.gran h) (.gran g) (.gran g) s)
/-- R143: 16-bit granule subtract. -/
def execSubC (h : BitVec 5) (g : BitVec 5) (s : State) : Out :=
  .next (op3 (.subC h g) (aluSub .S) (.gran h) (.gran g) (.gran g) s)
/-- R143: 16-bit granule and. -/
def execAndC (h : BitVec 5) (g : BitVec 5) (s : State) : Out :=
  .next (op3 (.andC h g) (aluAnd) (.gran h) (.gran g) (.gran g) s)
/-- R143: 16-bit granule or. -/
def execOrC (h : BitVec 5) (g : BitVec 5) (s : State) : Out :=
  .next (op3 (.orC h g) (aluOr) (.gran h) (.gran g) (.gran g) s)
/-- R143: 16-bit granule exclusive or. -/
def execXorC (h : BitVec 5) (g : BitVec 5) (s : State) : Out :=
  .next (op3 (.xorC h g) (aluXor) (.gran h) (.gran g) (.gran g) s)
/-- R143: 16-bit load of a sign-extended 6-bit immediate. -/
def execLiC (i : BitVec 6) (g : BitVec 5) (s : State) : Out :=
  .next (opLi (.liC i g) (i.toNat, 6) (.gran g) s)
/-- R143: 16-bit shift left of a granule. -/
def execShlC (a : BitVec 5) (g : BitVec 5) (s : State) : Out :=
  .next (op1 (.shlC a g) (fun w x => shiftL w x.1 a.toNat) (.gran g) (.gran g) s)
/-- R143: 16-bit shift right of a granule. -/
def execShrC (a : BitVec 5) (g : BitVec 5) (s : State) : Out :=
  .next (op1 (.shrC a g) (fun w x => shiftR w x.1 a.toNat) (.gran g) (.gran g) s)

end Sys2Proof.Machine
end

