-- ==== Sys2Proof/Machine/Caps.lean ====
section
/-! DEFINITION. Capabilities (R36 to R40): fields, extents, and the instructions of R201 to R203. -/

namespace Sys2Proof.Machine

open Sys2Proof

/-! ### Fields (R38) -/

def capOtype (c : Cap) : Nat := field c.bits.toNat 116 12
def capSpace (c : Cap) : Nat := field c.bits.toNat 114 2
def capTile (c : Cap) : Nat := field c.bits.toNat 101 13
def capPerm (c : Cap) : Nat := field c.bits.toNat 93 8
def capRows (c : Cap) : Nat := field c.bits.toNat 77 16
def capCols (c : Cap) : Nat := field c.bits.toNat 61 16
def capDepth (c : Cap) : Nat := field c.bits.toNat 56 5
def capPath (c : Cap) : Nat := field c.bits.toNat 0 54

/-- v with bits [lo + n - 1 : lo] replaced. -/
def putField (v lo n x : Nat) : Nat :=
  v / 2 ^ (lo + n) * 2 ^ (lo + n) + x % 2 ^ n * 2 ^ lo + v % 2 ^ lo

/-- A capability with a field replaced. -/
def capWith (lo n x : Nat) (c : Cap) : Cap :=
  { c with bits := BitVec.ofNat 128 (putField c.bits.toNat lo n x) }

/-! Permission bits of R39, counted from bit 93. -/
def pR : Nat := 1
def pW : Nat := 2
def pX : Nat := 4
def pSync : Nat := 8
def pAtom : Nat := 16
def pLcap : Nat := 32
def pScap : Nat := 64
def pSeal : Nat := 128

/-- PERM holds every permission of a mask. -/
def hasPerm (c : Cap) (p : Nat) : Bool := capPerm c &&& p == p

/-- The side of a block and its extents (R36). -/
def blockUnits (c : Cap) : Nat := 4 ^ (27 - capDepth c)
def extRows (c : Cap) : Nat := if capDepth c ≤ 10 then 2 ^ (27 - capDepth c) else capRows c + 1
def extCols (c : Cap) : Nat := if capDepth c ≤ 10 then 2 ^ (27 - capDepth c) else capCols c + 1

/-- Does the unit at an offset lie in the block, and in the extents (R36)? -/
def offInBlock (c : Cap) (off : Nat) : Bool := off < blockUnits c
def offInside (c : Cap) (off : Nat) : Bool :=
  offInBlock c off && decide (rowOf off < extRows c) && decide (colOf off < extCols c)

/-- Checks 1 to 3 of R40. -/
def capFault (c : Cap) (perm : Nat) : Option Cause :=
  if !c.tag then some cCapTag
  else if capOtype c != 0 then some cCapSealed
  else if !hasPerm c perm then some cCapPerm
  else none

/-! ### Capability instructions -/

/-- The outcome of a capability instruction: a trap with its value, or the result. -/
abbrev CapRes := Except (Cause × Nat) Cap

/-- CA must be tagged and unsealed (R201). -/
def chkSource (a : Cap) : Except (Cause × Nat) Unit :=
  if !a.tag then .error (cCapTag, 0) else if capOtype a != 0 then .error (cCapSealed, 0) else .ok ()

/-- `cder` (R202). -/
def cderOf (a : Cap) (S : Nat) : CapRes := do
  chkSource a
  let k := capDepth a
  let j := min (field S 56 5) 27
  let P := clearLow (field S 0 54) (54 - 2 * j)
  if j < k ∨ inBlockOf P k (capPath a) = false then throw (cCapBounds, S)
  let off := P - capPath a
  let r0 := rowOf off
  let c0 := colOf off
  let side := 2 ^ (27 - j)
  let rows := min ((extRows a : Int) - r0) side
  let cols := min ((extCols a : Int) - c0) side
  if rows < 1 ∨ cols < 1 then throw (cCapBounds, S)
  let ext (x : Int) : Nat := if 11 ≤ j then (x - 1).toNat else 0xFFFF
  pure (capWith 77 16 (ext rows) (capWith 61 16 (ext cols) (capWith 56 5 j (capWith 0 54 P a))))
where
  inBlockOf (a d p : Nat) : Bool := a >>> (54 - 2 * d) == p >>> (54 - 2 * d)

/-- `cbnd` (R203). -/
def cbndOf (a : Cap) (S : Nat) : CapRes := do
  chkSource a
  let rows := field S 16 16
  let cols := field S 0 16
  if capDepth a ≤ 10 then
    if rows ≠ 0xFFFF ∨ cols ≠ 0xFFFF then throw (cCapBounds, S)
    pure a
  else if capRows a < rows ∨ capCols a < cols then throw (cCapBounds, S)
  else pure (capWith 77 16 rows (capWith 61 16 cols a))

/-- `cperm` (R203). -/
def cpermOf (a : Cap) (S : Nat) : CapRes := do
  chkSource a
  pure (capWith 93 8 (capPerm a &&& S % 256) a)

/-- CB authorises sealing: tagged, unsealed, with SEAL (R203). -/
def sealAuth (b : Cap) : Bool := b.tag && capOtype b == 0 && hasPerm b pSeal

/-- A type value lies inside CB's block and extents (R203). -/
def typeInside (b : Cap) (t : Nat) : Bool := decide (capPath b ≤ t) && offInside b (t - capPath b)

/-- `cseal` (R203). -/
def csealOf (a b : Cap) (t : Nat) : CapRes := do
  chkSource a
  if sealAuth b = false then throw (cCapPerm, 0)
  if t < 1 ∨ 4095 < t ∨ typeInside b t = false then throw (cCapType, t)
  pure (capWith 116 12 t a)

/-- `cunseal` (R203). -/
def cunsealOf (a b : Cap) : CapRes := do
  if !a.tag then throw (cCapTag, 0)
  if sealAuth b = false then throw (cCapPerm, 0)
  if capOtype a = 0 ∨ typeInside b (capOtype a) = false then throw (cCapType, capOtype a)
  pure (capWith 116 12 0 a)

/-- The field that a selector of `cget` names (R203). -/
def capField (c : Cap) (sel : Nat) : Nat :=
  match sel with
  | 0 => bit c.tag
  | 1 => capOtype c
  | 2 => capSpace c
  | 3 => capTile c
  | 4 => capPerm c
  | 5 => capRows c
  | 6 => capCols c
  | 7 => capDepth c
  | 8 => capPath c
  | 9 => field c.bits.toNat 0 64
  | _ => field c.bits.toNat 64 64

/-- A capability instruction: its sources, its checks, its result in CD (R201). -/
def opCap (i : Instr) (needs : List Need) (d : Nat) (r : CapRes) (s : State) : State :=
  let g := plainGate i needs [.cap d]
  match gate g s with
  | some s' => s'
  | none => match r with
    | .error (c, t) => cause c t s
    | .ok v => modMe (putCap d v) (advance g s)

/-- R202: Derive a capability for a sub-block. -/
def execCder (s : BitVec 8) (a : BitVec 4) (d : BitVec 4) (t : State) : Out :=
  .next (opCap (.cder s a d) [.cap a.toNat, srcNeed .d .B s 0 t.me] d.toNat
    (cderOf (getCap t.me a.toNat) (readOp .d .B s 0 t.me).1) t)
/-- R203: Narrow a capability's extents. -/
def execCbnd (s : BitVec 8) (a : BitVec 4) (d : BitVec 4) (t : State) : Out :=
  .next (opCap (.cbnd s a d) [.cap a.toNat, srcNeed .d .B s 0 t.me] d.toNat
    (cbndOf (getCap t.me a.toNat) (readOp .d .B s 0 t.me).1) t)
/-- R203: Mask a capability's permissions. -/
def execCperm (s : BitVec 8) (a : BitVec 4) (d : BitVec 4) (t : State) : Out :=
  .next (opCap (.cperm s a d) [.cap a.toNat, srcNeed .d .B s 0 t.me] d.toNat
    (cpermOf (getCap t.me a.toNat) (readOp .d .B s 0 t.me).1) t)
/-- R203: Seal a capability with a type authorised by CB. -/
def execCseal (s : BitVec 8) (b : BitVec 4) (a : BitVec 4) (d : BitVec 4) (t : State) : Out :=
  .next (opCap (.cseal s b a d) [.cap a.toNat, .cap b.toNat, srcNeed .d .B s 0 t.me] d.toNat
    (csealOf (getCap t.me a.toNat) (getCap t.me b.toNat) (readOp .d .B s 0 t.me).1) t)
/-- R203: Unseal a capability under CB's authority. -/
def execCunseal (b : BitVec 4) (a : BitVec 4) (d : BitVec 4) (t : State) : Out :=
  .next (opCap (.cunseal b a d) [.cap a.toNat, .cap b.toNat] d.toNat
    (cunsealOf (getCap t.me a.toNat) (getCap t.me b.toNat)) t)
/-- R203: Copy a capability register, tag included. -/
def execCmov (a : BitVec 4) (d : BitVec 4) (t : State) : Out :=
  .next (opCap (.cmov a d) [.cap a.toNat] d.toNat
    (.ok (getCap t.me a.toNat)) t)
/-- R203: Read a selected field of a capability into slices. -/
def execCget (s : BitVec 8) (l a : BitVec 4) (t : State) : Out :=
  .next (issue (plainGate (.cget s l a) [.cap a.toNat] [dstTgt .d .B s t.me])
    (writeOp .d .B s (capField (getCap t.me a.toNat) l.toNat)) t)

end Sys2Proof.Machine
end

