-- ==== Sys2Proof/Machine/Memory.lean ====
section
/-! DEFINITION. Memory as the homes keep it: bytes and side bands in canonical form, words with their
full/empty and tag bits (R41, R42), exact accumulators (R102), keys and integrity (R336, R337), and the
changes that a home applies. -/

namespace Sys2Proof.Machine

open Sys2Proof

/-! ### Bytes -/

/-- Is a location a byte of some die's boot ROM (R295)? -/
def isRom (a : Nat) : Bool :=
  a < 2 ^ 54 && a / 2 ^ 48 % 4 == 2 && a % 2 ^ 48 / 2 ^ 42 == 0 && a % 2 ^ 40 < 2 ^ 18

/-- What an unlisted location reads as: zero (R42, R352), and the mask-programmed byte in a ROM (R353,
log 3). -/
def unlisted (a : Nat) : Byte := if isRom a then Config.romByte (a % 2 ^ 40) else 0

/-- The byte at a location in a list in canonical form. -/
def lookupByte (a : Nat) : List Host.Cell → Option Byte
  | [] => none
  | c :: t => if c.1 = a then some c.2 else if a < c.1 then none else lookupByte a t

def readByte (m : Mem) (a : Nat) : Byte := (lookupByte a m.cells).getD (unlisted a)

/-- A list in canonical form with one byte replaced; a byte that an unlisted location has is removed. -/
def insertByte (a : Nat) (v : Byte) : List Host.Cell → List Host.Cell
  | [] => if v = unlisted a then [] else [(a, v)]
  | c :: t =>
    if a < c.1 then (if v = unlisted a then c :: t else (a, v) :: c :: t)
    else if c.1 = a then (if v = unlisted a then t else (a, v) :: t)
    else c :: insertByte a v t

def writeByte (m : Mem) (a : Nat) (v : Byte) : Mem := { m with cells := insertByte a v m.cells }

/-- Addresses rise strictly from a bound, and no listed byte is what an unlisted one reads as. -/
def cellsOk (lo : Nat) : List Host.Cell → Bool
  | [] => true
  | c :: t => decide (lo ≤ c.1) && decide (c.2 ≠ unlisted c.1) && cellsOk (c.1 + 1) t

/-! ### Side bands -/

/-- The side band of a line that nothing has written since the last wipe (R352). -/
def SideBand.init : SideBand := ⟨0xFF, 0, true, false, 0, 0, false, 0, false, false, false⟩

def getSide (m : Mem) (l : Nat) : SideBand := (lookupNat l m.side).getD SideBand.init

def setSide (m : Mem) (l : Nat) (b : SideBand) : Mem :=
  { m with side := updateNat l (if b = SideBand.init then none else some b) m.side }

/-- Line numbers rise strictly, and no listed side band is the initial one. -/
def sideOk (lo : Nat) : List (Nat × SideBand) → Bool
  | [] => true
  | (l, b) :: t => decide (lo ≤ l) && (b != SideBand.init) && sideOk (l + 1) t

/-- The canonical form of memory. -/
def Memory.wf (m : Mem) : Bool := cellsOk 0 m.cells && sideOk 0 m.side

/-! ### Words -/

/-- The bytes of a word, lowest first. -/
def wordBytes (m : Mem) (w : Nat) : List Byte := (List.range 8).map fun i => readByte m (8 * w + i)

/-- The data of a word (R3). -/
def rawWord (m : Mem) (w : Nat) : Nat := ofBytes (wordBytes m w)

/-- Store bytes from an address on. -/
def storeBytes (m : Mem) (a : Nat) : List Byte → Mem
  | [] => m
  | b :: t => storeBytes (writeByte m a b) (a + 1) t

def setRawWord (m : Mem) (w v : Nat) : Mem := storeBytes m (8 * w) (toBytes v 8)

/-- The line of a word, and a word's place in it. -/
def lineOf (w : Nat) : Nat := w / 8

/-- Is a word of a pan? -/
def isPanWord (w : Nat) : Bool := decide (panBase ≤ 8 * w) && decide (8 * w < semBase)

/-- The word of semaphore k of a tile (R237). -/
def semWord (t k : Nat) : Nat := semBase / 8 + 64 * t + 8 * k

/-- The tile of a pan word. -/
def panTile (w : Nat) : Nat := (8 * w - panBase) / 2 ^ 20

/-- The pan address of a pan word, and its bank (R44). -/
def panAddr (w : Nat) : Nat := (8 * w - panBase) % 2 ^ 20
def panBank (w : Nat) : Nat := panAddr w / 2 ^ 16

/-! ### Exact accumulators (R102) -/

/-- The addend of an FP32 code. -/
def faddOf (x : FVal) : FAdd :=
  match x with
  | .nan => .nan
  | .inf true => .ninf
  | .inf false => .pinf
  | .num n m e => .num (inUnits n m e (-149))

/-- The accumulator set from an FP32 content, and an addition. -/
def accumAdd (a : Accum) (t : FAdd) : Accum :=
  match t with
  | .num x => { a with a := BitVec.ofInt 448 (a.a.toInt + x) }
  | .pinf => { a with pinf := true }
  | .ninf => { a with ninf := true }
  | .nan => { a with nan := true }

def accumOf (c : Nat) : Accum := accumAdd ⟨0, false, false, false⟩ (faddOf (floatVal fp32 c))

/-- The exact value of an accumulator (R102, Reading). -/
def accumVal (a : Accum) : FVal :=
  if a.nan ∨ (a.pinf ∧ a.ninf) then .nan
  else if a.pinf then .inf false
  else if a.ninf then .inf true
  else .num (a.a.toInt < 0) a.a.toInt.natAbs (-149)

def accumRead (a : Accum) : Nat := roundFloat fp32 0 0 (accumVal a)

/-! ### A word as a reader sees it -/

/-- The word as memory holds it. -/
def viewOf (w : Nat) (s : State) : WordView :=
  let b := getSide s.mem (lineOf w)
  ⟨rawWord s.mem w, b.fe.getLsbD (w % 8), b.tag.getLsbD (w % 8), lookupNat (2 * w) s.accs,
    lookupNat (2 * w + 1) s.accs⟩

/-- The data a reader gets: accumulators read rounded (R102). -/
def viewVal (v : WordView) : Nat :=
  let l := match v.lo with
    | some a => accumRead a
    | none => field v.val 0 32
  let h := match v.hi with
    | some a => accumRead a
    | none => field v.val 32 32
  h * 2 ^ 32 + l

/-- The data of a word of memory as a reader gets it. -/
def memWord (w : Nat) (s : State) : Nat := viewVal (viewOf w s)

/-- Data written by a mask: bits outside it stay. -/
def mergeBits (old new mask : Nat) : Nat := (old &&& (2 ^ 64 - 1 - mask)) ||| (new &&& mask)

/-- A write of bits: full, untagged; an accumulator it touches ends first (R42, R102). -/
def viewWrite (val mask : Nat) (v : WordView) : WordView :=
  let keepLo := field mask 0 32 = 0
  let keepHi := field mask 32 32 = 0
  let base := (if keepHi then field v.val 32 32 else viewVal v / 2 ^ 32) * 2 ^ 32 +
    (if keepLo then field v.val 0 32 else viewVal v % 2 ^ 32)
  { val := mergeBits base val mask
    fe := true
    tag := false
    lo := if keepLo then v.lo else none
    hi := if keepHi then v.hi else none }

/-- An exact addition at the low or the high location (R102). -/
def viewFadd (high : Bool) (t : FAdd) (v : WordView) : WordView :=
  if high then
    { v with hi := some (accumAdd (v.hi.getD (accumOf (field v.val 32 32))) t), fe := true, tag := false }
  else
    { v with lo := some (accumAdd (v.lo.getD (accumOf (field v.val 0 32))) t), fe := true, tag := false }

/-- A change of memory as one word sees it. -/
def viewOp (w : Nat) (o : MOp) (v : WordView) : WordView :=
  match o with
  | .word w' val mask => if w' = w then viewWrite val.toNat mask.toNat v else v
  | .empty w' => if w' = w then { v with fe := false } else v
  | .pair w' val tag =>
    if w' = w then { viewWrite (field val.toNat 0 64) (2 ^ 64 - 1) v with tag := tag }
    else if w' + 1 = w then { viewWrite (field val.toNat 64 64) (2 ^ 64 - 1) v with tag := tag }
    else v
  | .fadd a t => if a / 2 = w then viewFadd (a % 2 = 1) t v else v
  | .log _ => v
  | .task _ => v
  | .heal _ => v
  | .host _ _ _ _ => v

/-- The words that a change touches. -/
def opWords : MOp → List Nat
  | .word w _ _ => [w]
  | .empty w => [w]
  | .pair w _ _ => [w, w + 1]
  | .fadd a _ => [a / 2]
  | .log _ => []
  | .task _ => []
  | .heal _ => []
  | .host _ _ _ _ => []

/-- The bits that a change writes in a word that it touches. -/
def opMask (o : MOp) : Nat :=
  match o with
  | .word _ _ m => m.toNat
  | .pair _ _ _ => 2 ^ 64 - 1
  | .fadd a _ => if a % 2 = 1 then (2 ^ 32 - 1) * 2 ^ 32 else 2 ^ 32 - 1
  | _ => 0

/-- Do changes cover a line whole? -/
def coversLine (l : Nat) (ops : List MOp) : Bool :=
  (List.range 8).all fun i => ops.any fun o => (opWords o).contains (8 * l + i) && opMask o == 2 ^ 64 - 1

/-- The changes of a `vst`: one that covers its line of global memory whole ends the line's failure in its sector slice
(R287). -/
def vstOps (l : Nat) (ops : List MOp) : List MOp :=
  if decide (64 * l < panBase) && coversLine l ops then .heal l :: ops else ops

/-- The number by which a line of host memory is told from others: it is no line of the domain's memory (R309). -/
def hostLine (pasid addr : Nat) : Nat := 2 ^ 80 + pasid * 2 ^ 60 + addr / 64

/-- The lines that a change touches. -/
def opLines : MOp → List Nat
  | .host pasid addr _ _ => [hostLine pasid addr]
  | o => (opWords o).map lineOf

/-- Put a word back into memory. -/
def putView (w : Nat) (v : WordView) (s : State) : State :=
  let m := setRawWord s.mem w v.val
  let b := getSide m (lineOf w)
  let k := w % 8
  let one : BitVec 8 := BitVec.ofNat 8 (2 ^ k)
  let b := { b with
    fe := if v.fe then b.fe ||| one else b.fe &&& ~~~one
    tag := if v.tag then b.tag ||| one else b.tag &&& ~~~one }
  { s with
    mem := setSide m (lineOf w) b
    accs := updateNat (2 * w) v.lo (updateNat (2 * w + 1) v.hi s.accs) }

/-! ### Keys and integrity (R332, R336, R337, R352) -/

/-- The sector (die × 8 + sector) whose slice is the home of a line of global memory (R14): one of its package's, and of
stack 0 of die 0 in reduced service (R359). Where in its package the hash puts a line is a free value. -/
def sectorFor (l : Nat) (s : State) : Nat :=
  if s.care.full then 64 * l / 2 ^ 50 * 32 + Config.homeSector l % 32 else Config.homeSector l % 4

/-- The stack (die × 2 + stack) that stores a line of global memory, and the line's channel in it (R14, R348). -/
def stackOf (l : Nat) (s : State) : Nat := sectorFor l s / 4
def channelOf (l : Nat) : Nat := Config.channel l % 32

/-- FAILMAP of a stack, a word of the partition-manager page (R347). -/
def failmap (stack : Nat) (s : State) : Nat := rawWord s.mem ((0x2400 + 8 * stack) / 8) % 2 ^ 32

/-- Is a line one of HBM? -/
def isHbm (l : Nat) : Bool := decide (64 * l < 2 ^ 54) && 64 * l / 2 ^ 48 % 4 == 0

/-- The failed channels of the stack of a line, and whether the line's own is one. -/
def failedIn (l : Nat) (s : State) : Nat := popCount (failmap (stackOf l s % 128) s) 32
def channelFailed (l : Nat) (s : State) : Bool := bitAt (failmap (stackOf l s % 128) s) (channelOf l)

/-- A line in a failed channel of a stack with two or more failed channels is uncorrectable (R348). -/
def twoFailed (l : Nat) (s : State) : Bool := isHbm l && decide (2 ≤ failedIn l s) && channelFailed l s

/-- A line in a healthy channel that ECC cannot correct (R348). -/
def eccFails (l : Nat) (s : State) : Bool :=
  let b := getSide s.mem l
  isHbm l && !b.wiped && b.ecc && !channelFailed l s

/-- Does the line of a stripe that parity rebuilds pass ECC: no other channel of the stack has failed (R348)? -/
def rebuilds (l : Nat) (s : State) : Bool := !(getSide s.mem l).lost && failedIn l s == 0

/-- A line that stays uncorrectable after ECC and rebuild (R337, R348). -/
def uncorrectable (l : Nat) (s : State) : Bool :=
  twoFailed l s || (eccFails l s && !rebuilds l s) || (isHbm l && channelFailed l s && (getSide s.mem l).lost)

/-- May a line of global memory be read under a key: it is wiped, or it does not fail its check, its key
set is live, and it is the reader's, or one of the two is the firmware's (log 12)? -/
def lineReads (l key : Nat) (s : State) : Bool :=
  let b := getSide s.mem l
  if panBase ≤ 64 * l then true
  else if b.wiped then true
  else !b.bad && !b.sliceBad && !uncorrectable l s && keyGen b.key s == some b.gen && (b.key == key || b.key == 16 || key == 16)

/-- Seal a line under a key set: the wipe mark goes, a failed check is past (R336, R352). -/
def sealLine (l key : Nat) (s : State) : State :=
  if panBase ≤ 64 * l then s
  else
    let b := getSide s.mem l
    let b := { b with
      wiped := false, key := key, gen := (keyGen key s).getD 0, bad := false, sliceBad := false, ecc := false
      lost := false }
    { s with mem := setSide s.mem l b }

/-- Is a pan word failed (R287)? -/
def wordBad (w : Nat) (s : State) : Bool := (getSide s.mem (lineOf w)).badWords.getLsbD (w % 8)

/-- What a read of a word under a key meets (R287, R337): a failed pan word, a failed line of a sector slice, a line that
fails its check, or nothing. -/
def failCause (key w : Nat) (s : State) : Option Cause :=
  if isPanWord w then (if wordBad w s then some cErrPan else none)
  else if lineReads (lineOf w) key s then none
  else some (if (getSide s.mem (lineOf w)).sliceBad then cErrSlice else cMemIntegrity)

/-- A line is no longer failed in its sector slice (R287). -/
def clearSlice (l : Nat) (s : State) : State :=
  { s with mem := setSide s.mem l { getSide s.mem l with sliceBad := false } }

/-- A write that covers a pan word whole clears its mark. -/
def clearBad (w : Nat) (s : State) : State :=
  let b := getSide s.mem (lineOf w)
  let b := { b with badWords := b.badWords &&& ~~~(BitVec.ofNat 8 (2 ^ (w % 8))) }
  { s with mem := setSide s.mem (lineOf w) b }

/-! ### Applying a change at a home -/

/-- The change of one word, its wakes apart. -/
def applyWord (o : MOp) (w : Nat) (s : State) : State := putView w (viewOp w o (viewOf w s)) s

/-- A change is applied: the words change in one step, their lines are sealed by the writer's key, and
every hart registered for a line is woken (R105, R114). -/
def applyOp (key : Nat) (o : MOp) (s : State) : State :=
  (opWords o).foldl (fun s w => wakeLine (lineOf w) (applyWord o w (sealLine (lineOf w) key s))) s

/-- Several changes in one step. -/
def applyOps (key : Nat) (l : List MOp) (s : State) : State := l.foldl (fun s o => applyOp key o s) s

/-! ### The partition manager's page (R311, R312, R347, R354) -/

/-- Is a word one of the page at physical address 0? -/
def isPageWord (w : Nat) : Bool := w < 2048

/-- The effect of a written word on BFCTL (R354): LOCK is set once; TENWR while it is clear. -/
def bfctlNew (old v : Nat) : Nat :=
  let tenwr := if bitAt old 0 then bitAt old 1 else bitAt v 1
  bit (bitAt old 0 || bitAt v 0) + 2 * bit tenwr

/-- CMD as a write leaves it: UNIT has Reserved bits in a FENCE or an UNFENCE (R9, R313). -/
def cmdNew (v : Nat) : Nat :=
  if field v 56 8 = 3 ∨ field v 56 8 = 4 then field v 40 24 * 2 ^ 40 + field v 0 13 else v

/-- What a write of a word's bits leaves in a register of the page: none for a word that a write leaves unchanged (R8, R9,
R312, R347). Bits that no table lists are dropped (log 60); the bits of CMD and of the descriptors that are called
Reserved with Access RW, and give BADARG when they are not zero, are kept as written (log 104). -/
def pageNew (off old v : Nat) : Option Nat :=
  if off = 0 then some (cmdNew v)
  else if off = 0x10 ∨ off = 0x18 then some v
  else if 0x400 ≤ off ∧ off < 0xC00 then
    if off % 128 = 0 then some (field old 62 2 * 2 ^ 62 + v % 2 ^ 62) else some v
  else if off = 0x2008 then some (v % 2 ^ 22)
  else if off = 0x2010 then some (max (v % 2 ^ 16) 256 + bit (bitAt v 16) * 2 ^ 16)
  else if off = 0x2018 then some (v % 2 ^ 6)
  else if off = 0x2020 then some (max (v % 2 ^ 32) 1)
  else if off = 0x2030 then some (bfctlNew old v)
  else if 0x2400 ≤ off ∧ off < 0x2800 then some (old ||| v % 2 ^ 32)
  else none

/-- A word of the page after a change by firmware: its register decides what the change leaves. A sum that the register takes
as it is stays exact (R102, log 89). -/
def pageOp (w : Nat) (o : MOp) (v : WordView) : WordView :=
  match o with
  | .empty w' => if w' = w then { v with fe := false } else v
  | o =>
    if (opWords o).contains w then
      let x := viewOp w o v
      match pageNew (8 * w) (viewVal v) (viewVal x) with
      | some y => if y = viewVal x then { x with val := y, tag := false } else ⟨y, true, false, none, none⟩
      | none => v
    else v

/-- A word through the changes that a transaction holds (R116). -/
def viewThrough (l : List MOp) (w : Nat) (v : WordView) : WordView :=
  l.foldl (fun v o => if isPageWord w then pageOp w o v else viewOp w o v) v

/-- A word as a unit that reads under a key set gets it: of the page, none but the firmware's gets more than zero (R311). -/
def viewUnder (key w : Nat) (s : State) : WordView :=
  if isPageWord w && key != 16 then ⟨0, true, false, none, none⟩ else viewOf w s

/-! ### Which addresses name memory (R295, R359) -/

def gib : Nat := 2 ^ 30

/-- The bytes of HBM that a package shows: 480 GiB in full service; in reduced service 60 GiB of package
0 (R359), and of the CXL tier nothing. -/
def hbmVisible (pkg : Nat) (s : State) : Nat :=
  if s.care.full then 480 * gib else if pkg = 0 then 60 * gib else 0

/-- Does a physical address name memory? -/
def namesMemory (a : Nat) (s : State) : Bool :=
  let pkg := a / 2 ^ 50
  let off := a % 2 ^ 48
  a < 2 ^ 54 && decide (pkg < s.pkgs) &&
    (match a / 2 ^ 48 % 4 with
      | 0 => decide (off < hbmVisible pkg s)
      | 1 => s.care.full && decide (off < s.cxl)
      | 2 => isRom a
      | _ => false)

/-- The home of a line (R14, R105): a bank port for a pan, else the sector slice of the hash; two lines
have one home when these are equal. The semaphores of a tile have one (R237). -/
def homeOf (l : Nat) (s : State) : Nat :=
  if semBase ≤ 64 * l then 2 ^ 40 + (64 * l - semBase) / 512
  else if panBase ≤ 64 * l then 2 ^ 20 + (64 * l - panBase) / 2 ^ 16 else sectorFor l s

def sameHome (l l' : Nat) (s : State) : Bool := l == l' || homeOf l s == homeOf l' s

end Sys2Proof.Machine
end

