-- ==== Sys2Proof/Machine/Translate.lean ====
section
/-! DEFINITION. Translation (R295 to R306): range entries, the walk, the firmware map, TLBs and ATC
entries. -/

namespace Sys2Proof.Machine

open Sys2Proof

/-- Does an address lie in the block of a depth and a path (R27)? -/
def inBlock (a depth path : Nat) : Bool := a >>> (54 - 2 * depth) == path >>> (54 - 2 * depth)

/-- The first address of the block of a depth that holds an address. -/
def blockBase (a depth : Nat) : Nat := clearLow a (54 - 2 * depth)

/-- A block word (R159). -/
def blockWord (depth path : Nat) : Nat := depth * 2 ^ 56 + path

/-- Does one of two blocks contain the other? -/
def overlaps (d p d' p' : Nat) : Bool := inBlock p (min d d') p' 

/-- The outcome of resolving an address (R302). Blocks are depth and path. -/
inductive Resolved where
  | ok (m : Mapping)
  | unmapped (depth path : Nat)
  /-- an FMT of 2 to 31 -/
  | badFmt (depth path : Nat)
  /-- an ABSENT entry: the line that holds it, and the block it covers -/
  | absent (line depth path : Nat)
  /-- a range or node entry that cannot be read: its line, which fails in a sector slice, if so marked, or its check (R287,
  R337) -/
  | failing (slice : Bool) (line : Nat)
  deriving DecidableEq, Repr

/-- A range entry (R298). -/
structure Range where
  depth : Nat
  path : Nat
  mode : Nat
  fmt : Nat
  limit : Nat
  offset : Nat
  hole : Option (Nat × Nat)
  shadow : Option Nat
  strip : Nat
  pasid : Nat
  malformed : Bool
  deriving DecidableEq, Repr

/-- A range entry from its eight words. -/
def rangeOf (w : Nat → Nat) : Range :=
  let depth := field (w 0) 56 5
  let path := field (w 0) 0 54
  let mode := field (w 1) 60 3
  let fmt := field (w 1) 54 6
  let hv := bitAt (w 3) 63
  let hd := field (w 3) 56 5
  let hp := field (w 3) 0 54
  let reserved := field (w 0) 61 3 ≠ 0 ∨ field (w 0) 54 2 ≠ 0 ∨ bitAt (w 1) 63 = true ∨
    field (w 3) 61 2 ≠ 0 ∨ field (w 3) 54 2 ≠ 0 ∨ field (w 4) 54 9 ≠ 0 ∨ field (w 5) 54 10 ≠ 0 ∨
    field (w 6) 20 44 ≠ 0 ∨ w 7 ≠ 0 ∨ (mode ≠ 3 ∧ field (w 2) 54 10 ≠ 0)
  let holeBad := hv = true ∧ (27 < hd ∨ hd < depth ∨ inBlock hp depth path = false)
  { depth := depth
    path := path
    mode := mode
    fmt := fmt
    limit := field (w 1) 0 54
    offset := w 2
    hole := if hv then some (hd, clearLow hp (54 - 2 * hd)) else none
    shadow := if bitAt (w 4) 63 ∧ mode ≠ 3 then some (field (w 4) 0 54) else none
    strip := field (w 5) 0 54
    pasid := field (w 6) 0 20
    malformed := decide (4 ≤ mode) || decide reserved || decide holeBad ||
      (mode == 2 && (depth % 3 != 0 || decide (depth < 9) || decide (18 < depth) ||
        w 2 % 2 ^ 10 != 0)) ||
      (mode == 1 && w 2 % 2 ^ 12 != 0) ||
      (mode == 3 && fmt != 0 && fmt != 1) }

/-- Does an address match a range entry (R296)? -/
def rangeMatches (r : Range) (a : Nat) : Bool :=
  r.mode != 0 && decide (r.depth ≤ 27) && inBlock a r.depth r.path

/-- The size of the frame of a block in bytes (R29). -/
def frameBytes (depth fmt : Nat) : Nat := 4 ^ (27 - depth) * containerBits fmt / 8

/-- The size of the scale strip of a block in bytes (R33). -/
def stripSize (depth fmt : Nat) : Nat := 4 ^ (27 - depth) / 1024 * stripBytes fmt

/-- What a walk under a key meets where a line does not read (R287, R337). -/
def lineFailing (l : Nat) (s : State) : Resolved := .failing (getSide s.mem l).sliceBad l

/-- May a walk under a key read the line of a word? -/
def walkReads (w key : Nat) (s : State) : Bool := lineReads (lineOf w) key s

/-- The walk from the node of a depth (R300 to R302). -/
def walkNode (fuel key node depth a : Nat) (r : Range) (s : State) : Resolved :=
  match fuel with
  | 0 => .unmapped depth (blockBase a depth)
  | fuel + 1 =>
    let i := (a >>> (54 - 2 * (depth + 3))) % 64
    let w := (node + 16 * i) / 8
    let d := depth + 3
    let p := blockBase a d
    if !walkReads w key s then lineFailing (lineOf w) s
    else
      let w0 := memWord w s
      let w1 := memWord (w + 1) s
      let kind := field w0 62 2
      let fmt := field w0 56 6
      let addr := field w0 0 54
      let strip := field w1 0 54
      let reserved := field w0 54 2 ≠ 0 ∨ field w1 54 10 ≠ 0
      if kind = 0 then .unmapped d p
      else if kind = 3 then .absent (lineOf w) d p
      else if reserved then .unmapped d p
      else if kind = 1 then
        if 21 ≤ d ∨ addr % 2 ^ 10 ≠ 0 ∨ namesMemory addr s = false then .unmapped d p
        else walkNode fuel key addr d a r s
      else if d ≠ 12 ∧ d ≠ 15 ∧ d ≠ 18 ∧ d ≠ 21 then .unmapped d p
      else if namesMemory addr s = false then .unmapped d p
      else if fmtKind fmt = .reserved then .badFmt d p
      else
        let size := frameBytes d fmt
        if addr % size ≠ 0 ∨ namesMemory (addr + size - 1) s = false ∨
            (hasStrip fmt = true ∧ (strip % min (stripSize d fmt) 64 ≠ 0 ∨ namesMemory strip s = false))
        then .unmapped d p
        else .ok { src := 2, path := p, depth := d, limit := r.path + r.limit, hole := r.hole,
                   frame := addr, fmt := fmt, strip := strip, shadow := r.shadow, pasid := 0 }

/-- An address that matches a range entry, resolved (R299, R302). -/
def resolveRange (key a : Nat) (r : Range) (s : State) : Resolved :=
  if r.malformed then .unmapped r.depth r.path
  else if r.limit < a - r.path then .unmapped 27 a
  else
    let inHole := match r.hole with
      | some (d, p) => inBlock a d p
      | none => false
    if inHole then match r.hole with
      | some (d, p) => .unmapped d p
      | none => .unmapped 27 a
    else if r.mode = 2 then walkNode 4 key r.offset r.depth a r s
    else if fmtKind r.fmt = .reserved then .badFmt r.depth r.path
    else
      let m : Mapping :=
        { src := if r.mode = 1 then 1 else 3, path := r.path, depth := r.depth,
          limit := r.path + r.limit, hole := r.hole, frame := r.offset, fmt := r.fmt, strip := r.strip,
          shadow := r.shadow, pasid := r.pasid }
      let phys := r.offset + (a - r.path) * containerBits r.fmt / 8
      if r.mode = 1 ∧ namesMemory phys s = false then .unmapped 27 a else .ok m

/-- The words of range entry i of a partition: as a die has cached them, if asked, else in memory (R304). -/
def rangeWords (cached : Bool) (die i : Nat) (p : Partition) (s : State) : Nat → Nat := fun k =>
  match (if cached then lookupNat (p.n * 64 + i) (getDie die s).ranges else none) with
  | some l => field l.toNat (64 * k) 64
  | none => memWord ((p.rangetab + 64 * i) / 8 + k) s

/-- May a die read range entry i? -/
def rangeReads (cached : Bool) (die i : Nat) (p : Partition) (s : State) : Bool :=
  (cached && (lookupNat (p.n * 64 + i) (getDie die s).ranges).isSome) ||
    lineReads (p.rangetab / 64 + i) p.n s

/-- What a search of a range table finds: the matching entry of lowest index (R296), no entry, or one that cannot be
read. -/
inductive Found where
  | entry (i : Nat) (r : Range)
  | nothing
  | unread (line : Nat)

/-- The entry that resolves an address: the matching one of lowest index from i on (R296). -/
def findRange (cached : Bool) (die : Nat) (p : Partition) (a : Nat) (s : State) (i : Nat) : Nat → Found
  | 0 => .nothing
  | n + 1 =>
    if !rangeReads cached die i p s then .unread (p.rangetab / 64 + i)
    else
      let r := rangeOf (rangeWords cached die i p s)
      if rangeMatches r a then .entry i r else findRange cached die p a s (i + 1) n

/-- An address resolved through the range table of a partition. -/
def resolveWith (cached : Bool) (die : Nat) (p : Partition) (a : Nat) (s : State) : Resolved :=
  match findRange cached die p a s 0 64 with
  | .unread l => lineFailing l s
  | .nothing => .unmapped 27 a
  | .entry _ r => resolveRange p.n a r s

/-- The same: what a die's cached entries map stays mapped until `rinv`; what they do not map is looked for in
memory, so a new mapping needs no `rinv` (R308). -/
def resolveTable (die : Nat) (p : Partition) (a : Nat) (s : State) : Resolved :=
  match resolveWith true die p a s with
  | .ok m => .ok m
  | _ => resolveWith false die p a s

/-- An address resolved through the firmware map (R297), in pieces of 4 KiB. -/
def resolveFirmware (a : Nat) (s : State) : Resolved :=
  if namesMemory a s then
    let p := blockBase a 21
    .ok { src := 0, path := p, depth := 21, limit := p + 4095, hole := none, frame := p, fmt := 0,
          strip := 0, shadow := none, pasid := 0 }
  else .unmapped 27 a

/-- An address resolved for a tile under one of the two maps. -/
def resolve (fw : Bool) (tile a : Nat) (s : State) : Resolved :=
  if fw then resolveFirmware a s
  else match partitionOf tile s with
    | some p => resolveTable (tile / 2 ^ 7) p a s
    | none => .unmapped 27 a

/-- Does a mapping cover an address? -/
def covers (m : Mapping) (a : Nat) : Bool :=
  inBlock a m.depth m.path && decide (a ≤ m.limit) &&
    (match m.hole with
      | some (d, p) => !inBlock a d p
      | none => true)

/-- Does a mapping map an address? The unit of a range, or of the firmware map, also names memory (R295, R297, R303). -/
def mapsUnit (m : Mapping) (a : Nat) (s : State) : Bool :=
  covers m a && (decide (1 < m.src) || namesMemory (m.frame + (a - m.path) * containerBits m.fmt / 8) s)

/-- Is a TLB entry one of a hart's that an address hits? -/
def entryHits (h : Hart) (a : Nat) (s : State) (e : TlbEntry) : Bool :=
  e.slot == slotOf h.nm && e.fw == (h.mode == .firmware) && mapsUnit e.map a s

/-- The TLB entry of a hart that an address hits (R303). -/
def tlbHit (h : Hart) (a : Nat) (s : State) : Option Mapping :=
  ((getCell (cellOf h.nm) s).tlb.find? (entryHits h a s)).map fun e => e.map

/-- Drop the last entry of a list that a test picks. -/
def dropLast {α : Type} (p : α → Bool) (l : List α) : List α :=
  (l.reverse.eraseP p).reverse

/-- A fill (R303): the least recently used entry of the slot is replaced if it holds two or more, else
the cell's. The list has the most recently used entry first. -/
def tlbFill (h : Hart) (m : Mapping) (s : State) : State :=
  let c := getCell (cellOf h.nm) s
  let e : TlbEntry := ⟨slotOf h.nm, h.mode == .firmware, m⟩
  let mine (x : TlbEntry) : Bool := x.slot == slotOf h.nm
  let l := c.tlb
  let l := if l.length < 32 then l
    else if 2 ≤ (l.filter mine).length then dropLast mine l
    else l.dropLast
  setCell (cellOf h.nm) { c with tlb := e :: l } s

/-- The entry that an address hits becomes the most recently used. -/
def tlbTouch (h : Hart) (a : Nat) (s : State) : State :=
  let c := getCell (cellOf h.nm) s
  match c.tlb.find? (entryHits h a s) with
  | some e => setCell (cellOf h.nm) { c with tlb := e :: c.tlb.eraseP (entryHits h a s) } s
  | none => s

/-- The page of a host address, and the ATC entry that allows an access (R309). -/
def hostAddr (m : Mapping) (a : Nat) : Nat := m.frame + (a - m.path) * containerBits m.fmt / 8

def atcAllows (m : Mapping) (a : Nat) (write : Bool) (s : State) : Bool :=
  s.host.atc.any fun e => e.pasid == m.pasid && e.page == hostAddr m a / 2 ^ 12 &&
    (if write then e.w else e.r)

end Sys2Proof.Machine
end

