-- ==== Sys2Proof/Machine/Txn.lean ====
section
/-! DEFINITION. Transactions and tasks at the homes (R114 to R119, R125, R126): what a party reads, which
accesses conflict, and the `retry` of a transaction. -/

namespace Sys2Proof.Machine

open Sys2Proof

/-- Every hart, those in flight between cells included. -/
def everyHart (s : State) : List Hart := allHarts s ++ s.migs

/-- Change every hart, those in flight included. -/
def modEvery (f : Hart → Hart) (s : State) : State :=
  modAll (fun h => if present h then f h else h) { s with migs := s.migs.map f }

/-- The hart whose open transaction has a number. -/
def txnHart (id : Nat) (s : State) : Option Hart :=
  (everyHart s).find? fun h => inTxn h && h.txn.id == id

/-- Change the hart whose open transaction has a number. -/
def modTxn (id : Nat) (f : Txn → Txn) (s : State) : State :=
  modEvery (fun h => if inTxn h && h.txn.id == id then { h with txn := f h.txn } else h) s

/-- The lines that a transaction has written and those it has read (R116); abandoned lines are apart
(R117). -/
def writeLines (t : Txn) : List Nat := t.buf.flatMap fun o => opLines o.2.2
def readLines (t : Txn) : List Nat := t.reads.map fun r => r.1

def countDistinct (l : List Nat) : Nat := l.eraseDups.length

/-- A word with what an ancestor wrote in it: a 32-bit location written whole comes with its accumulator. -/
def Seen.on (x : Seen) (v : WordView) : WordView :=
  let m := x.mask.toNat
  let lo := field m 0 32 == 2 ^ 32 - 1
  let hi := field m 32 32 == 2 ^ 32 - 1
  let part := (if lo then 0 else field m 0 32) + (if hi then 0 else field m 32 32) * 2 ^ 32
  let u := if part = 0 then v else { viewWrite (viewVal x.view) part v with fe := v.fe, tag := v.tag }
  let u := if lo then { u with val := field u.val 32 32 * 2 ^ 32 + field x.view.val 0 32, lo := x.view.lo } else u
  let u := if hi then { u with val := field x.view.val 32 32 * 2 ^ 32 + field u.val 0 32, hi := x.view.hi } else u
  if x.own then { u with fe := x.view.fe, tag := x.view.tag } else u

/-- A word as a task sees it before its own writes: what its ancestors wrote, the oldest first (R126). -/
def viewInherited (l : List Seen) (w : Nat) (v : WordView) : WordView :=
  l.foldl (fun v x => if x.w = w then x.on v else v) v

/-- A word as a transaction or task of a hart sees it (R116, R126). -/
def seenWord (h : Hart) (w : Nat) (s : State) : WordView :=
  let v := viewOf w s
  let v := match h.task with
    | some t => viewInherited t.enq.inh w v
    | none => v
  viewThrough (h.txn.buf.map fun o => o.2.2) w v

/-- Of two transactions the older one: lower begin time, then lower name (R117). -/
def older (a b : Hart) : Bool :=
  a.txn.beginTime < b.txn.beginTime || (a.txn.beginTime == b.txn.beginTime && a.nm < b.nm)

/-- The order of keys (R124): timestamps first, then the enqueuers' keys, then the counts; a name compares
below every task key. -/
def keyCmp : TaskKey → TaskKey → Ordering
  | .root a, .root b => compare a b
  | .root _, .node _ _ _ => .lt
  | .node _ _ _, .root _ => .gt
  | .node t k n, .node t' k' n' => (compare t t').then ((keyCmp k k').then (compare n n'))

/-- Is key a below key b? -/
def keyLt (a b : TaskKey) : Bool := keyCmp a b == .lt

/-- The key of the task that enqueued a task. -/
def parentKey (k : TaskKey) : TaskKey :=
  match k with
  | .node _ p _ => p
  | .root n => .root n

/-- May a task read a line that another has written: its parent (R126), or an ancestor whose write it sees? -/
def readsPast (reader writer : TaskRun) (line : Nat) : Bool :=
  parentKey reader.key == writer.key || reader.enq.inh.any fun x => x.of == writer.key && lineOf x.w == line

/-- A write of a line raises no conflict with the reads of the writer's children (R126). -/
def writesPast (writer : TaskRun) (h : Hart) (line : Nat) : Bool :=
  match h.task with
  | some b => parentKey b.key == writer.key && !(writeLines h.txn).contains line
  | none => false

/-- Decide an abort of the transaction of a hart: its first reason stands. -/
def doomTxn (id status detail : Nat) (s : State) : State :=
  modTxn id (fun t => { t with doom := match t.doom with
    | some d => some d
    | none => some (status, detail) }) s

/-- A non-transactional write to a line (R117): transactions and tasks that hold it abort with CONFLICT
detail 0; a line that only abandoned alternatives read sets WOKEN (R119). `task` is the committing task, if
one writes. -/
def conflictWrite (line : Nat) (task : Option TaskRun) (s : State) : State :=
  let hit (h : Hart) : Bool :=
    inTxn h &&
      !(task.any fun a => writesPast a h line) &&
      ((readLines h.txn).contains line || (writeLines h.txn).contains line)
  let s := ((everyHart s).filter hit).foldl (fun s h => doomTxn h.txn.id stConflict 0 s) s
  modEvery (fun h =>
    if inTxn h && h.txn.stale.contains line then { h with txn := { h.txn with woken := true } } else h) s

/-- Bits of a word are replaced in memory: a task sees the new ones (R126). -/
def Seen.cut (w mask : Nat) (x : Seen) : Seen :=
  if x.w = w then { x with mask := x.mask &&& ~~~BitVec.ofNat 64 mask, own := false } else x

def dropInh (w mask : Nat) (e : TaskEnq) : TaskEnq :=
  { e with inh := (e.inh.map (Seen.cut w mask)).filter fun x => x.own || x.mask != 0 }

/-- A queued task that waits after a `retry` may start once its read set changes (R192). -/
def wakeTask (line : Nat) (e : TaskEnq) : TaskEnq :=
  if (e.wakeOn.getD []).contains line then { e with wakeOn := none } else e

/-- Change every task: running, queued, spilled or in flight toward its unit. -/
def modEnqs (f : TaskEnq → TaskEnq) (s : State) : State :=
  let s := modEvery (fun h => { h with task := h.task.map fun t => { t with enq := f t.enq } }) s
  { s with
    enqs := s.enqs.map fun e => (e.1, f e.2)
    tiles := s.tiles.map fun (t, v) => (t, { v with tasks := v.tasks.map f, spill := v.spill.map f }) }

/-- A write of bits of a word outside any transaction meets those who hold its line (R117, R126, R192). What the
descendants of a committing task see is settled apart. -/
def foreignWrite (w mask : Nat) (task : Option TaskRun) (s : State) : State :=
  let mine (e : TaskEnq) : Bool := task.any fun t => descends t.key e.key
  modEnqs (fun e => wakeTask (lineOf w) (if mine e then e else dropInh w mask e)) (conflictWrite (lineOf w) task s)

/-- The same for a line of which no bit is known to change. -/
def foreignLine (l : Nat) (s : State) : State := modEnqs (wakeTask l) (conflictWrite l none s)

/-- A transactional access by a party to a line that another party holds (R117, R125). -/
def conflictTxn (p : Hart) (line : Nat) (writes : Bool) (s : State) : State :=
  let hit (h : Hart) : Bool :=
    inTxn h && h.txn.id != p.txn.id &&
      ((writes && (readLines h.txn).contains line) || (writeLines h.txn).contains line)
  ((everyHart s).filter hit).foldl (fun s h =>
    match p.task, h.task with
    | none, none =>
      if older p h then doomTxn h.txn.id stConflict 1 s else doomTxn p.txn.id stConflict 1 s
    | none, some _ => doomTxn p.txn.id stConflict 2 s
    | some _, none => doomTxn h.txn.id stConflict 2 s
    | some a, some b =>
      if (if writes then writesPast a h line else readsPast a b line) then s
      else if keyLt a.key b.key then doomTxn h.txn.id stConflict 0 s
      else doomTxn p.txn.id stConflict 0 s) s

/-- A line enters the read set of a transaction, in the same step as the access (R114, R116); a 65th line
aborts with CAPACITY detail 0. Number 0 marks a request of an abandoned alternative (R117). -/
def addRead (id gen line : Nat) (s : State) : State :=
  match txnHart id s with
  | none => s
  | some h =>
    let t := h.txn
    let held := readLines t ++ t.stale
    if !held.contains line && decide (64 ≤ countDistinct held) then doomTxn id stCapacity 0 s
    else
      if gen = 0 then modTxn id (fun t => { t with
        stale := if held.contains line then t.stale else t.stale ++ [line] }) s
      else
      let s := conflictTxn h line false s
      let s := modTxn id (fun t => { t with
        reads := if (readLines t).contains line then t.reads else t.reads ++ [(line, gen)]
        stale := t.stale.filter fun l => l != line }) s
      register line h s

/-- A change enters the write set of a transaction (R116); a 33rd line aborts with CAPACITY detail 1. A
change of an abandoned alternative is discarded (R119). -/
def addWrite (id gen req : Nat) (o : MOp) (s : State) : State :=
  match txnHart id s with
  | none => s
  | some h =>
    let lines := writeLines h.txn
    let new := (opLines o).filter fun l => !lines.contains l
    if gen = 0 then s
    else if decide (32 < countDistinct (lines ++ new)) then doomTxn id stCapacity 1 s
    else
      let s := (opLines o).foldl (fun s l => conflictTxn h l true s) s
      modTxn id (fun t => { t with buf := t.buf ++ [(gen, req, o)] }) s

/-- Does a request read its line (R116)? -/
def readsLine (o : HomeOp) : Bool :=
  match o with
  | .write _ => false
  | .lapp _ => false
  | .hostWrite _ _ _ _ => false
  | _ => true

/-- The lines that reads of a transaction in flight will put into its read set, those of abandoned alternatives
among them (R119). -/
def comingLines (id : Nat) (s : State) : List Nat :=
  (s.reqs.filter fun r => (r.txn.any fun t => t.1 == id) && readsLine r.op).map fun r => r.line

/-- An access of an alternative after a mark is one of no alternative (R119). -/
def abandoned (id mark : Nat) (t : Option (Nat × Nat)) : Option (Nat × Nat) :=
  t.map fun (i, g) => (i, if i = id ∧ mark < g then 0 else g)

/-- The requests in flight and posted increments of the alternatives after a mark are marked abandoned (R119). -/
def abandonReqs (id mark : Nat) (s : State) : State :=
  { s with
    reqs := s.reqs.map fun r => { r with txn := abandoned id mark r.txn }
    tiles := s.tiles.map fun (t, v) =>
      (t, { v with semv := v.semv.map fun x => { x with txn := abandoned id mark x.txn } }) }

/-- `retry` (R119, R192): back to the alternative, or the transaction ends and its hart waits on the read
set, or restarts at once if WOKEN; a task is queued again, until its read set changes unless WOKEN. -/
def retryAt (n : Nat) (s : State) : State :=
  match hartAt n s with
  | none => s
  | some h =>
    let t := h.txn
    match t.alt with
    | some pc =>
      let gone := t.reads.filter fun r => t.mark < r.2
      let keep := t.reads.filter fun r => !(t.mark < r.2)
      modHart n (fun h => { h with
        pc := pc
        stat := .running
        txn := { t with
          alt := none
          gen := t.gen + 1
          buf := t.buf.filter fun o => !(t.mark < o.1)
          reads := keep
          stale := t.stale ++ (gone.map fun r => r.1) } }) (abandonReqs t.id t.mark s)
    | none =>
      let lines := (readLines t ++ t.stale ++ comingLines t.id s).eraseDups
      if h.task.isSome then rollback n (if t.woken then none else some lines) s
      else if t.woken then
        cancelWakes n (modHart n (fun h => { Hart.abort 0 0 h with pc := t.beginPc }) s)
      else
        let s := cancelWakes n (modHart n (fun h => { Hart.abort 0 0 h with
          pc := t.beginPc
          stat := .waiting (lines.map Loc.line)
          epoch := h.epoch + 1 }) s)
        match hartAt n s with
        | some h => lines.foldl (fun s l => register l h s) s
        | none => s

end Sys2Proof.Machine
end

