-- ==== Sys2Proof/Machine/Page.lean ====
section
/-! DEFINITION. The partition-manager page (R311, R312, R347, R354) and the error log (R347, R348). -/

namespace Sys2Proof.Machine

open Sys2Proof

/-- A word of the page, at a byte offset. -/
def pageGet (off : Nat) (s : State) : Nat := rawWord s.mem (off / 8)

/-- Write a word of the page, full, under the firmware's key. -/
def pagePut (off v : Nat) (s : State) : State :=
  foreignWrite (off / 8) (2 ^ 64 - 1) none
    (applyOp 16 (.word (off / 8) (BitVec.ofNat 64 v) (BitVec.allOnes 64)) s)

/-- The full/empty bit of a word of the page. -/
def pageFull (off : Nat) (s : State) : Bool := (viewOf (off / 8) s).fe

/-- Take a word of the page with the effect of `ldfe`. -/
def pageTake (off : Nat) (s : State) : State := applyOp 16 (.empty (off / 8)) s

/-- INT.ERROR to the hart that NOTIFY names, with the value its trap reports (R347). -/
def notify (val : Nat) (s : State) : State := sendError (field (pageGet 0x2008 s) 0 22) val s

/-- A record of the error log (R347): kind, FAILMAP index of 7 bits, physical address of 54. Kinds 1, 3 and 4 also send
INT.ERROR to NOTIFY. -/
def logEvent (kind idx phys : Nat) (s : State) : State :=
  let off := 0x3000 + 16 * (s.care.elogNext % 256)
  let phys := phys % 2 ^ 54
  let s := { s with care := { s.care with elogNext := s.care.elogNext + 1 } }
  let s := if pageFull off s then pagePut 0x2028 (pageGet 0x2028 s + 1) s
    else pagePut off phys (pagePut (off + 8) (kind + idx % 2 ^ 7 * 2 ^ 8) s)
  if kind = 2 then s else notify phys s

/-- Channels of a stack become failed (R348): one event each, TWOFAIL once two have failed. A stack has 32; the bits above
them are dropped (log 60). -/
def failChannels (stack new : Nat) (s : State) : State :=
  let old := failmap stack s
  let new := new % 2 ^ 32
  let fresh := (List.range 32).filter fun c => bitAt new c && !bitAt old c
  let s := if fresh.isEmpty then s else pagePut (0x2400 + 8 * stack) (old ||| new) s
  let s := fresh.foldl (fun s _ => logEvent 3 stack 0 s) s
  if 2 ≤ popCount (failmap stack s) 32 then pagePut 0x2000 (pageGet 0x2000 s ||| 4) s else s

/-! ### Reads of a stack (R348, R350) -/

/-- The scrubber of a stack. -/
def scrubOf (k : Nat) (s : State) : Scrub := (lookupNat k s.care.scrubs).getD ⟨0, 0, false, 0, []⟩

def setScrub (k : Nat) (v : Scrub) (s : State) : State :=
  { s with care := { s.care with scrubs := updateNat k (some v) s.care.scrubs } }

/-- A read that ECC cannot correct: the sixteenth of a channel in a scrub pass fails the channel (R348). -/
def countRead (l : Nat) (s : State) : State :=
  let k := stackOf l s
  let c := channelOf l
  let v := scrubOf k s
  let n := (lookupNat c v.uncorr).getD 0 + 1
  let s := setScrub k { v with uncorr := updateNat c (some n) v.uncorr } s
  if n = 16 then failChannels k (2 ^ c) s else s

/-- A read of a line that stays uncorrectable counts, if ECC failed in it. -/
def countFailing (l : Nat) (s : State) : State := if eccFails l s then countRead l s else s

/-- A read of a line that ECC cannot correct and parity rebuilds: the line is written back, unless its channel fails with
this read, and logged (R348). -/
def repairLine (l : Nat) (s : State) : State :=
  let k := stackOf l s
  let s := countRead l s
  if channelFailed l s then s
  else logEvent 2 k (64 * l) { s with mem := setSide s.mem l { getSide s.mem l with ecc := false } }

/-- The first of some lines that its stack must rebuild and write back before they are read, after that (R348). -/
def repairFirst (lines : List Nat) (s : State) : Option State :=
  (lines.find? fun l => eccFails l s && rebuilds l s).map fun l => repairLine l s

/-! ### Writes of the page -/

/-- A change by firmware of a word of the page is applied (R8, R9, R312, R347): channels that it makes failed are events. -/
def pageStore (w : Nat) (o : MOp) (s : State) : State :=
  let off := 8 * w
  let x := pageOp w o (viewOf w s)
  match pageNew off (rawWord s.mem w) (viewVal (viewOp w o (viewOf w s))) with
  | none => s
  | some y =>
    if 0x2400 ≤ off ∧ off < 0x2800 then failChannels ((off - 0x2400) / 8) y s
    else
      let s := pagePut off y s
      { s with accs := updateNat (2 * w) x.lo (updateNat (2 * w + 1) x.hi s.accs) }

/-- The whole of a register of the page is written. -/
def pageSet (off v : Nat) (s : State) : State :=
  pageStore (off / 8) (.word (off / 8) (BitVec.ofNat 64 v) (BitVec.allOnes 64)) s

/-! ### The page after a wipe (R312, R347, R352) -/

/-- A word of the page with its full/empty bit, as the boot hart writes it. -/
def pageInit (off v : Nat) (full : Bool) (s : State) : State :=
  let s := pagePut off v s
  if full then s else pageTake off s

/-- Words from an offset on, written alike. -/
def pageFill (off n v : Nat) (full : Bool) (s : State) : State :=
  (List.range n).foldl (fun s i => pageInit (off + 8 * i) v full s) s

/-- The initial state of the partition-manager page (R312, R347, R354), but for FENCE and what a wipe has left zero and
full: no command has been carried out, and nothing else writes there. -/
def initPage (s : State) : State :=
  let s := pageInit 0 0 false (pageInit 8 0 false s)
  let s := pageInit 0x2000 0 true (pageInit 0x2028 0 true (pageFill 0x2400 128 0 true s))
  let s := pageInit 0x2010 4096 true (pageInit 0x2018 8 true (pageInit 0x2020 0x8000 true (pageInit 0x2030 2 true s)))
  pageFill 0x3000 512 0 false s

/-- Has the boot written the page? -/
def pageStands (s : State) : Bool := (getDie 0 s).trained0

/-- The registers of the page that outlast a wipe without a reset (R347, R354; log 39): MCSTAT, FENCE and FAILMAP, and BFCTL
once it is locked. -/
def pageKeeps (old : State) : List Nat :=
  (0x2000 :: (List.range 128).map fun i => 0x1000 + 8 * i) ++ ((List.range 128).map fun i => 0x2400 + 8 * i) ++
    if bitAt (pageGet 0x2030 old) 0 then [0x2030] else []

/-- The page after a wipe without a reset: as the boot writes it, but for the registers that outlast the wipe. -/
def renewPage (old s : State) : State :=
  if pageStands old then (pageKeeps old).foldl (fun s off => pagePut off (pageGet off old) s) (initPage s) else s

end Sys2Proof.Machine
end

