-- ==== Sys2Proof/Machine/Access.lean ====
section
/-! DEFINITION. Where an access goes: the checks of R40, the run of units it moves (R29, R30, R32, R360),
and the sending of requests to the homes (R14, R43 to R46, R105). -/

namespace Sys2Proof.Machine

open Sys2Proof

/-- The space that an access reaches: a pan, or a mapping of global space. -/
inductive Place where
  | pan (tile : Nat)
  | map (m : Mapping)
  deriving DecidableEq, Repr

/-- How an access runs over units. -/
inductive Kind where
  /-- a run of so many bits within one word (R30) -/
  | run (bits : Nat)
  /-- a run within one word that no bit-plane page admits (R179, R360) -/
  | single (bits : Nat)
  /-- so many bytes on RAW or RAW64 (R181) -/
  | bytes (n : Nat)
  /-- an aligned line (R223, mode 00) -/
  | line
  /-- an aligned block of elements of a width (R223, mode 01) -/
  | block (e : Nat)
  /-- an aligned pair of words (R183); the flag says that a tag is stored, which no host word holds
  (R310) -/
  | pair (tagged : Bool)
  /-- an aligned location of a width (R184) -/
  | atomic (bits : Nat)
  /-- the 32-bit location of `amo.fadd` (R186) -/
  | fadd
  /-- the target word of `lapp` with a data operand of a width (R189) -/
  | log (bits : Nat)
  /-- one element of a width by index (R224) -/
  | elem (e : Nat)
  /-- the first unit of a block, of any format (R190) -/
  | first
  deriving DecidableEq, Repr

/-- A located access: place, format, its first unit and their number, the container in bits. -/
structure Acc where
  place : Place
  fmt : Nat
  u : Nat
  n : Nat
  addr : Nat
  deriving DecidableEq, Repr

/-- The outcome of the checks. -/
inductive Located where
  | ok (a : Acc)
  | trap (c : Cause) (t : Nat)
  /-- the hart parks (R40 step 5, R306, R309) -/
  | park (st : Stat)
  deriving DecidableEq, Repr

/-- The outcome of translating one unit. -/
inductive Unit1 where
  | ok (p : Place) (fmt u : Nat)
  | trap (c : Cause) (t : Nat)
  | park (st : Stat)
  deriving DecidableEq, Repr

/-- The cause that a walk left for an address (R287, R302): 0 unmapped, 1 format, 2 integrity, 3 a failed line of a
sector slice. -/
def walkCause (k : Nat) : Cause :=
  match k with
  | 0 => cMemUnmapped
  | 1 => cMemFmt
  | 2 => cMemIntegrity
  | _ => cErrSlice

/-- The mapping of an address: a TLB hit, or what a walk for this instruction found. -/
def mappingOf (h : Hart) (a : Nat) (s : State) : Option Mapping :=
  match tlbHit h a s with
  | some m => some m
  | none => h.walked.find? fun m => mapsUnit m a s

/-- The fault that a walk, or the host, left for an address. -/
def leftFault (h : Hart) (a : Nat) : Option Cause :=
  (h.walkFaults.find? fun (_, b) => b == a).map fun (k, _) => walkCause k

/-- One unit of global space (R40 step 5, R303, R304, R309): a TLB hit, the fault that a walk found, or a
park. -/
def globalUnit (h : Hart) (a : Nat) (write : Bool) (s : State) : Unit1 :=
  match leftFault h a, mappingOf h a s with
  | some c, _ => .trap c a
  | none, some m =>
    if m.src = 3 then
      match s.host.iface with
      | .run => if atcAllows m a write s then .ok (.map m) m.fmt (a - m.path) else .park (.hostPark a write 0)
      | .quiesced => .park (.hostPark a write 0)
      | _ => .trap cMemUnmapped a
    else if write && m.src = 0 && isRom a then .trap cMemFmt a
    else .ok (.map m) m.fmt (a - m.path)
  | none, none => .park (.missed a)

/-- One unit of the space of a capability (R44). -/
def unitOf (h : Hart) (c : Cap) (a : Nat) (write : Bool) (s : State) : Unit1 :=
  match capSpace c with
  | 0 => if a < 2 ^ 54 then globalUnit h a write s else .trap cCapBounds a
  | 1 => if a < 2 ^ 20 then .ok (.pan (tileOf h.nm)) 0 a else .trap cCapBounds a
  | 2 => if a < 2 ^ 20 then .ok (.pan (capTile c)) 0 a else .trap cCapBounds a
  | _ => .trap cCapBounds a

/-- Is a format a bit-plane format, and its precision (R31, R32)? -/
def planesOf (fmt : Nat) : Option Nat :=
  match fmtKind fmt with
  | .planes k _ => some k
  | _ => none

/-- The number of units of a run, the multiple its offset must be of, and whether the format admits it:
R30, R179, R181, R183, R184, R186, R189, R223, R224. -/
def runShape (k : Kind) (fmt : Nat) : Nat × Nat × Bool :=
  let c := containerBits fmt
  let raw := fmt = 0
  let raw64 := fmt = 1
  match k with
  | .run b => (max 1 (b / c), 1, decide (c ≤ b))
  | .single b => (max 1 (b / c), 1, decide (c ≤ b) && (planesOf fmt).isNone)
  | .bytes n => (max 1 ((8 * n + c - 1) / c), 1, decide (raw ∨ raw64))
  | .line => (512 / c, 512 / c, true)
  | .block e => (512 / c, 512 / c, decide (c = e))
  | .pair _ => (max 1 (128 / c), if raw ∨ raw64 then 128 / c else 1, decide (raw ∨ raw64))
  | .atomic b => (if raw then b / 8 else 1, if raw then b / 8 else 1, decide (raw ∨ (raw64 ∧ b = 64)))
  | .fadd => (if raw then 4 else 1, if raw then 4 else 1, decide (raw ∨ fmt = 57))
  | .log b => (if raw then b / 8 else 1, if raw then b / 8 else 1, decide (raw ∨ raw64 ∨ fmt = 57))
  | .elem e => (if raw then e / 8 else 1, 1, decide (raw ∨ c = e))
  | .first => (1, 1, true)

/-- What a HOST range admits (R310). -/
def hostAdmits (k : Kind) : Bool :=
  match k with
  | .single _ => false
  | .atomic _ => false
  | .fadd => false
  | .log _ => false
  | .first => false
  | .pair t => !t
  | _ => true

/-- Is a place a HOST range (R309)? -/
def hostOf (p : Place) : Option Mapping :=
  match p with
  | .map m => if m.src = 3 then some m else none
  | .pan _ => none

/-- Must the run lie within one word, or one group of bit planes (R40 step 7)? -/
def inWord (k : Kind) : Bool :=
  match k with
  | .run _ => true
  | .single _ => true
  | .elem _ => true
  | _ => false

/-- A run of n units from u on crosses its word or its group (R30, R360). -/
def crosses (fmt u n : Nat) : Bool :=
  if (planesOf fmt).isSome then u / 64 != (u + n - 1) / 64
  else u * containerBits fmt / 64 != ((u + n) * containerBits fmt - 1) / 64

/-- The offset in units: on RAW, an index counts elements (R224; log 91). -/
def unitOffset (k : Kind) (fmt off : Nat) : Nat :=
  match k with
  | .elem e => if fmt = 0 then off * (e / 8) else off
  | _ => off

/-- The first byte of a place's frame on the address line. -/
def frameOf (p : Place) : Nat :=
  match p with
  | .pan t => panBase + t * 2 ^ 20
  | .map m => m.frame

/-- The first bit of a unit on the address line (R29); not for bit planes. -/
def unitBit (p : Place) (fmt u : Nat) : Nat := 8 * frameOf p + u * containerBits fmt

/-- May the run of a kind be carried out in pieces (R181)? -/
def splits (k : Kind) : Bool :=
  match k with
  | .bytes _ => true
  | _ => false

/-- The units of a run beyond the first: each must translate to the same format (R40 step 8). A run that is one request
stays where its first unit is: a unit that lies elsewhere in memory is in another word (log 85). -/
def restOk (h : Hart) (c : Cap) (p : Place) (fmt u a : Nat) (write : Bool) (k : Kind) (s : State) :
    Nat → Option Unit1
  | 0 => none
  | i + 1 =>
    match restOk h c p fmt u a write k s i with
    | some r => some r
    | none =>
      let b := a + i
      let near := match p with
        | .pan _ => true
        | .map m => mapsUnit m b s && m.src != 3
      if near then none
      else match unitOf h c b write s with
        | .ok p' f u' =>
          if f ≠ fmt then some (.trap cMemFmt b)
          else if splits k || unitBit p' f u' == unitBit p fmt (u + i) then none
          else some (.trap cMemAlign a)
        | r => some r

/-- Is an access a lane of a gather or a scatter, which traps with the address of its element (R224)? -/
def ofElem (k : Kind) : Bool :=
  match k with
  | .elem _ => true
  | _ => false

/-- The checks of R40 on an access of a kind through a capability at an offset. -/
def locate (h : Hart) (c : Cap) (off perm : Nat) (write : Bool) (k : Kind) (s : State) : Located :=
  let off := if capSpace c = 0 then off else unitOffset k 0 off
  let a := capPath c + off
  match capFault c perm with
  | some e => .trap e a
  | none =>
  if !offInBlock c off then .trap cCapBounds a
  else match unitOf h c a write s with
  | .trap e t => .trap e t
  | .park st => .park st
  | .ok p fmt u =>
    if fmtKind fmt = .reserved then .trap cMemFmt a
    else
      let off' := if capSpace c = 0 then unitOffset k fmt off else off
      let a' := capPath c + off'
      if !offInBlock c off' then .trap cCapBounds a'
      else match (if off' = off then Unit1.ok p fmt u else unitOf h c a' write s) with
      | .trap e t => .trap e t
      | .park st => .park st
      | .ok p fmt u =>
        let (n, align, admits) := runShape k fmt
        if !(List.range n).all fun i => offInside c (off' + i) then .trap cCapBounds a'
        else if off' % align != 0 || (inWord k && crosses fmt u n) then .trap cMemAlign a'
        else if !admits || ((hostOf p).isSome && !hostAdmits k) then .trap cMemFmt a'
        else match restOk h c p fmt u a' write k s n with
        | some (.trap e t) => .trap e (if ofElem k then a' else t)
        | some (.park st) => .park st
        | _ => .ok ⟨p, fmt, u, n, a'⟩

/-! ### Locations -/

/-- The word of plane p that holds the group of unit u (R31). -/
def planeWord (pl : Place) (u p : Nat) : Nat :=
  (frameOf pl + u / 1024 * 1024 + (7 - p) * 128 + u % 1024 / 64 * 8) / 8

/-- The tile of another pan that an access reaches, if it does (R44, R46). -/
def farPan (h : Hart) (p : Place) : Option Nat :=
  match p with
  | .pan t => if t = tileOf h.nm then none else some t
  | .map _ => none

/-! ### Pieces of a run (R40 step 8, R181) -/

/-- The place of unit i of a located run. -/
def unitPlace (h : Hart) (c : Cap) (a : Acc) (write : Bool) (s : State) (i : Nat) : Place × Nat :=
  match a.place with
  | .pan _ => (a.place, a.u + i)
  | .map m =>
    if mapsUnit m (a.addr + i) s && m.src != 3 then (a.place, a.u + i)
    else match unitOf h c (a.addr + i) write s with
      | .ok p _ u => (p, u)
      | _ => (a.place, a.u + i)

/-- The first n units of a located run as accesses that each lie together. -/
def piecesOf (h : Hart) (c : Cap) (a : Acc) (write : Bool) (s : State) : Nat → List Acc
  | 0 => []
  | i + 1 =>
    let l := piecesOf h c a write s i
    let x := unitPlace h c a write s i
    match l.getLast? with
    | some q =>
      if q.place = x.1 ∧ q.u + q.n = x.2 then l.dropLast ++ [{ q with n := q.n + 1 }]
      else l ++ [⟨x.1, a.fmt, x.2, 1, a.addr + i⟩]
    | none => [⟨x.1, a.fmt, x.2, 1, a.addr⟩]

/-- The bits of a piece, of n that are left. -/
def pieceBits (a : Acc) (n : Nat) : Nat := min n (a.n * containerBits a.fmt)

/-! ### Requests -/

/-- What a request is made from; `va` is the address of the access that it serves. -/
structure ReqSpec where
  op : HomeOp
  line : Nat
  pend : Option Nat
  part : Nat
  isWrite : Bool
  counted : Bool
  remote : Bool
  va : Nat

/-- Does a request act on words of many lines: an `lmerge` or a `publish`? -/
def manyLines (o : HomeOp) : Bool :=
  match o with
  | .lmerge _ _ _ _ => true
  | .publish _ _ _ => true
  | _ => false

/-- The tile at which the home of a line stands: a pan's or its semaphores'; none for a sector slice (R44, R237). -/
def lineTile (l : Nat) : Option Nat :=
  if semBase ≤ 64 * l then (if 64 * l < semBase + 2 ^ 22 then some ((64 * l - semBase) / 512) else none)
  else if panBase ≤ 64 * l then some ((64 * l - panBase) / 2 ^ 20)
  else none

/-- Send a request of the hart with the turn: it follows the hart's earlier requests and fills to the line (R105), though not
the other lanes of one gather (R225), and the writes in its history (R108); a store or posted atomic is unacknowledged until
applied (R46). What returns a value joins the history when it lands (R107). -/
def sendReq (q : ReqSpec) (s : State) : State :=
  let (i, s) := freshId s
  let h := s.me
  let mine := s.reqs.filter fun r => h.out.contains r.id
  let (stamp, s) := sealFrom (tileOf h.nm) (lineTile q.line) (keyFor h s) s
  let r : Req :=
    { id := i, src := h.nm, op := q.op, line := q.line, pend := q.pend, part := q.part,
      isWrite := q.isWrite, counted := q.counted, remote := q.remote, fw := h.mode == .firmware,
      key := keyFor h s, txn := if inTxn h then some (h.txn.id, h.txn.gen) else none,
      own := (mine.filter fun r => (r.line == q.line || manyLines r.op || manyLines q.op) &&
        (r.pend.isNone || r.pend != q.pend)).map (fun r => r.id) ++ h.work,
      hist := h.hist, va := q.va, passed := [], stamp := stamp }
  modMe (fun h => { h with
      out := (mine.map fun r => r.id) ++ [i]
      hist := if q.isWrite && q.pend.isNone then h.hist ++ [i] else h.hist
      unacked := if q.counted then h.unacked + 1 else h.unacked })
    { s with reqs := s.reqs ++ [r] }

def sendReqs (l : List ReqSpec) (s : State) : State := l.foldl (fun s q => sendReq q s) s

/-- What the accesses of a hart follow, and those that are under way with what their reads have found: all that happens
before what it hands on (R106, pairs 3 to 6). -/
def allHist (h : Hart) (s : State) : List Nat :=
  (h.hist ++ h.out ++ (s.pends.filter fun p => p.route == h.nm).flatMap fun p => p.hist).eraseDups

/-- Draw n tags of the hart's slot from its counter (R81). -/
def drawTags (n : Nat) (s : State) : List Nat × State :=
  let c := cellOf s.me.nm
  let tags := (freeTags s.me.nm s).take n
  match tags.getLast? with
  | none => ([], s)
  | some t =>
    let cell := getCell c s
    (tags, setCell c { cell with tagNext := updateNat (slotOf s.me.nm) (some ((t + 1) % 64)) cell.tagNext } s)

/-- Expect a reply (R59): its destination is marked empty (R56); `holds` keeps the hart from issuing until
the reply lands (R180). `parts` are what is known of it already; `next` and `eats` are what the form does once it has
been performed. -/
def expectTagged (dest : Dest) (shape : Shape) (parts : List (Option (BitVec 520))) (tags : List Nat) (holds : Bool)
    (next : Option Addr) (eats : List Nat) (s : State) : Nat × State :=
  let (i, s) := freshId s
  let p : Pend :=
    { id := i, origin := s.me.nm, route := s.me.nm, dest := dest, shape := shape, parts := parts, tags := tags,
      holds := holds, next := next, eats := eats, hist := [],
      txn := if inTxn s.me then some s.me.txn.id else none, done := [] }
  let s := { s with pends := s.pends ++ [p] }
  let s := modMe (fun h =>
    let h := match dest with
      | .slices a n => emptySlices a n h
      | .vec k => emptyVec k h
      | .cap k => emptyCap k h
      | _ => h
    if holds then { h with stat := .held i } else h) s
  (i, s)

/-- The same with so many tags drawn for it. -/
def expectWith (dest : Dest) (shape : Shape) (parts : List (Option (BitVec 520))) (ntags : Nat) (holds : Bool)
    (next : Option Addr) (eats : List Nat) (s : State) : Nat × State :=
  let (tags, s) := drawTags ntags s
  expectTagged dest shape parts tags holds next eats s

/-- Expect a reply of so many parts, none of which is known yet, to an instruction that has issued. -/
def expect (dest : Dest) (shape : Shape) (nparts ntags : Nat) (holds : Bool) (s : State) : Nat × State :=
  expectWith dest shape (List.replicate nparts none) ntags holds none [] s

/-- The plane words that a read of precision k touches, plane 7 first (R32, R360). -/
def planeReads (p : Place) (u k : Nat) : List Nat :=
  (List.range k).map fun i => planeWord p u (7 - i)

/-- The eight plane-row writes of n elements of a run, low k bits of each container (R32, R360). -/
def planeWrites (p : Place) (u n k v : Nat) : List MOp :=
  let first := u % 64
  let mask := ofBits (fun j => decide (first ≤ j ∧ j < first + n)) 64
  (List.range 8).map fun i =>
    let pl := 7 - i
    let bits := ofBits (fun j =>
      decide (first ≤ j ∧ j < first + n) && decide (8 - k ≤ pl) &&
        bitAt v (8 * (j - first) + (pl - (8 - k)))) 64
    .word (planeWord p u pl) (BitVec.ofNat 64 bits) (BitVec.ofNat 64 mask)

/-- A value with the top two bits of each byte cleared, for 6-bit formats (R29). -/
def mask6 (v : Nat) : Nat → Nat
  | 0 => 0
  | n + 1 => v % 64 + 256 * mask6 (v / 256) n

/-- The value a store puts into the containers of a format. -/
def storeVal (fmt v n : Nat) : Nat := if sixBit fmt then mask6 v n else v

/-- The write of a run within one word: bits at a bit address. -/
def wordWrite (bitAddr width v : Nat) : MOp :=
  let o := bitAddr % 64
  .word (bitAddr / 64) (BitVec.ofNat 64 (v % 2 ^ width * 2 ^ o)) (BitVec.ofNat 64 ((2 ^ width - 1) * 2 ^ o))

/-- The host address of a unit (R309). -/
def hostByte (m : Mapping) (u : Nat) : Nat := m.frame + u * containerBits m.fmt / 8

/-- The requests that read the run of an access into a reply, from part `part` on. -/
def readSpecs (a : Acc) (pend part : Nat) : List ReqSpec :=
  match hostOf a.place with
  | some m =>
    [⟨.hostRead m.pasid (hostByte m a.u), hostLine m.pasid (hostByte m a.u), some pend, part, false, false, false,
      a.addr⟩]
  | none =>
    match planesOf a.fmt with
    | some k => (List.range k).map fun i =>
        let w := planeWord a.place a.u (7 - i)
        ⟨.read w, lineOf w, some pend, part + i, false, false, false, a.addr⟩
    | none =>
        let w := unitBit a.place a.fmt a.u / 64
        [⟨.read w, lineOf w, some pend, part, false, false, false, a.addr⟩]

/-- The number of requests, and of tags, of a read (R81, R360). -/
def readParts (a : Acc) : Nat := (planesOf a.fmt).getD 1

/-- The shape of the reply of a run of so many bits. -/
def readShape (a : Acc) (bits : Nat) : Shape :=
  match hostOf a.place with
  | some _ => .scalar 0 bits false
  | none => match planesOf a.fmt with
    | some k => .planes (a.u % 64) a.n k
    | none => .scalar (unitBit a.place a.fmt a.u % 64) bits (sixBit a.fmt)

/-- The requests that write the run of an access. -/
def writeSpecs (a : Acc) (bits v : Nat) (remote counted : Bool) : List ReqSpec :=
  match hostOf a.place with
  | some m =>
    [⟨.hostWrite m.pasid (hostByte m a.u) (BitVec.ofNat 512 (v % 2 ^ bits))
        (BitVec.ofNat 512 (2 ^ bits - 1)), hostLine m.pasid (hostByte m a.u), none, 0, true, counted, false, a.addr⟩]
  | none => match planesOf a.fmt with
    | some k => (planeWrites a.place a.u a.n k v).map fun o =>
        ⟨.write [o], (opWords o).headD 0 / 8, none, 0, true, counted, remote, a.addr⟩
    | none =>
      let o := wordWrite (unitBit a.place a.fmt a.u) bits (storeVal a.fmt v (bits / 8))
      [⟨.write [o], (opWords o).headD 0 / 8, none, 0, true, counted, remote, a.addr⟩]

/-! ### Failing storage met by an access (R287, R337) -/

/-- The words that the run of an access reads. -/
def accWords (a : Acc) (bits : Nat) : List Nat :=
  if (hostOf a.place).isSome then []
  else match planesOf a.fmt with
    | some k => planeReads a.place a.u k
    | none =>
      let b := unitBit a.place a.fmt a.u
      (List.range ((b + bits - 1) / 64 - b / 64 + 1)).map fun i => b / 64 + i

/-- The cause of a read of failed storage: ERR.PAN, ERR.SLICE or MEM.INTEGRITY. -/
def readFault (h : Hart) (words : List Nat) (s : State) : Option Cause :=
  words.findSome? fun w => failCause (keyFor h s) w s

/-- The first word that may not be read counts toward the failure of its channel, if ECC failed in its line (R348). -/
def countWords (h : Hart) (words : List Nat) (s : State) : State :=
  match words.find? fun w => (failCause (keyFor h s) w s).isSome with
  | some w => countFailing (lineOf w) s
  | none => s

/-! ### The frame of a memory instruction -/

/-- An access to another tile's pan: a load of any kind, and any access in a transaction, migrates the
hart (R46). -/
def migrates (h : Hart) (a : Acc) (stays : Bool) : Option (Nat × Nat) :=
  match farPan h a.place with
  | some t => if stays && !inTxn h then none else some (t, a.u / 2 ^ 16)
  | none => none

/-- An access: the checks of R40 from the operands, then migration (R46), then failing storage, then what
the instruction does with the located run. `stays` marks the stores that travel (R46); `reads` is the
number of bits read, 0 for none. -/
def accessBy (c : Cap) (off perm : Nat) (write stays : Bool) (reads : Acc → Nat) (k : Kind)
    (base : Gate) (fin : Acc → State → State) (s : State) : State :=
  match gate base s with
  | some s' => s'
  | none =>
    match locate s.me c off perm write k s with
    | .trap e t => cause e t s
    | .park st => parkMe st s
    | .ok a =>
      match migrates s.me a stays with
      | some (t, b) => beginMove (.bank (t * 32 + b)) t s
      | none =>
        match (if reads a = 0 then none else readFault s.me (accWords a (reads a)) s) with
        | some e => cause e a.addr (countWords s.me (accWords a (reads a)) s)
        | none => fin a (tlbTouch s.me a.addr s)

/-- An access that issues and then has its effect. -/
def access (g : Acc → Gate) (c : Cap) (off perm : Nat) (write stays : Bool) (reads : Acc → Nat)
    (k : Kind) (base : Gate) (eff : Acc → State → State) (s : State) : State :=
  accessBy c off perm write stays reads k base (fun a => issue (g a) (eff a)) s

/-- An access whose form does not move on until it has been performed at its home (R180). -/
def accessHeld (g : Acc → Gate) (c : Cap) (off perm : Nat) (write stays : Bool) (reads : Acc → Nat)
    (k : Kind) (base : Gate) (eff : Acc → State → State) (s : State) : State :=
  accessBy c off perm write stays reads k base (fun a s => (gate (g a) s).getD (eff a s)) s

end Sys2Proof.Machine
end

