-- ==== Sys2Proof/Machine/Home.lean ====
section
/-! DEFINITION. Homes (R105): what they hold back, histories, traces, writes and reads, and forms and reads that end
without effect (R59, R106, R108, R111, R179 to R190, R287, R311, R337). -/

namespace Sys2Proof.Machine

open Sys2Proof

/-! ### What homes hold back (R103, R189) -/

/-- Is a request one of the host port's? -/
def reqHost (o : HomeOp) : Bool :=
  match o with
  | .hostRead _ _ => true
  | .hostWrite _ _ _ _ => true
  | _ => false

/-- Do two requests have one home? -/
def reqsMeet (a b : Req) (s : State) : Bool :=
  match reqHost a.op, reqHost b.op with
  | true, true => true
  | false, false => sameHome a.line b.line s
  | _, _ => false

/-- Has a request no home of its own, as it acts on words of many lines? A merge takes every entry whose `lapp` happens
before it (R128), and a `publish` writes every line of its region (R249). -/
def needsAll (o : HomeOp) : Bool := manyLines o

/-- The records of exact accumulators that a sector slice holds at most (R103). -/
def accumMax : Nat := 4194304

/-- So many additions need new records that their slice has not free (R103). Only a slice counts records: an
accumulator of a pan location needs none (log 88). -/
def accumShort (a4 n : Nat) (s : State) : Bool :=
  !isPanWord (a4 / 2) && (lookupNat a4 s.accs).isNone &&
    decide (accumMax < (s.accs.filter fun a => sameHome (a.1 / 16) (a4 / 16) s).length + n)

/-- An addition needs a new record while its slice has none free. -/
def accumFull (a4 : Nat) (s : State) : Bool := accumShort a4 1 s

/-- So many entries find no room in the log of the home of a line (R189). -/
def logShort (l n : Nat) (s : State) : Bool :=
  decide (2 ^ 20 < (s.logs.filter fun e => sameHome (e.loc / 64) l s).length + n)

/-- The log of the home of a line is full. -/
def logFull (l : Nat) (s : State) : Bool := logShort l 1 s

/-- Is a request held at its home, which has no room for it? What a transaction holds needs none before its commit. -/
def heldOp (r : Req) (s : State) : Bool :=
  r.txn.isNone && (match r.op with
    | .fadd a _ _ => accumFull a s
    | .lapp e => logFull (e.loc / 64) s
    | _ => false)

/-- Do changes that are to be applied together find room at their homes? -/
def roomFor (l : List MOp) (s : State) : Bool :=
  let adds := (l.filterMap fun o => match o with
    | .fadd a _ => some a
    | _ => none).eraseDups
  let logs := l.filterMap fun o => match o with
    | .log e => some (e.loc / 64)
    | _ => none
  (adds.all fun a => !accumShort a (adds.filter fun b =>
      !isPanWord (b / 2) && (lookupNat b s.accs).isNone && sameHome (b / 16) (a / 16) s).length s) &&
    logs.all fun m => !logShort m (logs.filter fun m' => sameHome m m' s).length s

/-! ### Histories (R106 to R109) -/

/-- Is an access still in flight: a request, a message or a posted `msem.v`? -/
def inFlight (i : Nat) (s : State) : Bool :=
  s.reqs.any (fun q => q.id == i) || s.msgs.any (fun m => m.id == i) ||
    s.tiles.any fun t => t.2.semv.any (fun v => v.id == i) || t.2.semHeld.any fun v => v.id == i

/-- Has an access not been performed yet: one in flight, or a fill? -/
def unended (i : Nat) (s : State) : Bool :=
  inFlight i s || s.tiles.any fun t => t.2.fills.any fun f => f.id == i

/-- The bit of a word's history that stands for its full/empty and tag state. -/
def stateBit : Nat := 2 ^ 64

/-- What the writes that left some bits of a word follow, as far as it has not ended. -/
def wordHist (w mask : Nat) (s : State) : List Nat :=
  ((((lookupNat w s.whist).getD []).filter fun x => x.1 &&& mask != 0).flatMap fun x => x.2).filter
    fun i => unended i s

/-- A write leaves its history with the bits that it wrote, and with the state of the word (R106). -/
def setHist (r : Req) (w mask : Nat) (s : State) : State :=
  let m := mask ||| stateBit
  let rest := (((lookupNat w s.whist).getD []).map fun x => (x.1 - (x.1 &&& m), x.2)).filter fun x =>
    x.1 != 0 && x.2.any fun i => unended i s
  let l := r.hist.filter fun i => i != r.id && unended i s
  let new := if l.isEmpty then rest else rest ++ [(m, l)]
  { s with whist := updateNat w (if new.isEmpty then none else some new) s.whist }

/-- A history that holds an access, after the access has read what others follow. -/
def addHist (i : Nat) (l h : List Nat) : List Nat := if h.contains i then (h ++ l).eraseDups else h

/-- What a task follows. -/
def TaskEnq.learn (f : List Nat → List Nat) (e : TaskEnq) : TaskEnq := { e with hist := f e.hist }

/-- What a hart follows, with its task. -/
def Hart.learn (f : List Nat → List Nat) (h : Hart) : Hart :=
  { h with hist := f h.hist, task := h.task.map fun t => { t with enq := t.enq.learn f } }

/-- What a hart has read or received precedes what it does next (R106). -/
def Hart.follow (hist : List Nat) (h : Hart) : Hart := { h with hist := (h.hist ++ hist).eraseDups }

/-- What an engine's chains and its command follow. -/
def Engine.learn (f : List Nat → List Nat) (e : Engine) : Engine :=
  { e with
    chains := e.chains.map fun c => { c with hist := f c.hist }
    run := e.run.map fun r => { r with hist := f r.hist } }

/-- What the units of a tile follow. -/
def Tile.learn (f : List Nat → List Nat) (t : Tile) : Tile :=
  { t with
    fills := t.fills.map fun x => { x with after := f x.after }
    semv := t.semv.map fun x => { x with hist := f x.hist }
    semHeld := t.semHeld.map fun x => { x with hist := f x.hist }
    copy := t.copy.learn f
    quant := t.quant.learn f
    tasks := t.tasks.map (TaskEnq.learn f)
    spill := t.spill.map (TaskEnq.learn f) }

/-- What a request hands on to an engine or a log follows (R106). -/
def HomeOp.learn (f : List Nat → List Nat) (o : HomeOp) : HomeOp :=
  match o with
  | .chadv ch n t eng => .chadv { ch with hist := f ch.hist } n t eng
  | .lapp e => .lapp { e with hist := f e.hist }
  | o => o

/-- An access has read words that follow others: so does everything that follows the access (R106). -/
def spreadHist (i : Nat) (l : List Nat) (s : State) : State :=
  if l.isEmpty then s
  else
    let f := addHist i l
    { s with
      me := s.me.learn f
      harts := s.harts.map (Hart.learn f)
      migs := s.migs.map (Hart.learn f)
      reqs := s.reqs.map fun q => { q with hist := f q.hist, op := q.op.learn f }
      pends := s.pends.map fun p => { p with hist := f p.hist, done := p.done.map fun x => (x.1, f x.2) }
      msgs := s.msgs.map fun m => { m with hist := f m.hist }
      ipis := s.ipis.map fun m => { m with hist := f m.hist }
      enqs := s.enqs.map fun e => (e.1, e.2.learn f)
      logs := s.logs.map fun e => { e with hist := f e.hist }
      pendw := s.pendw.map fun p => { p with hist := f p.hist }
      whist := s.whist.map fun x => (x.1, x.2.map fun y => (y.1, f y.2))
      tiles := s.tiles.map fun t => (t.1, t.2.learn f) }

/-! ### Replies and acknowledgements -/

/-- A part of a reply arrives, and what the request has read precedes what follows it. -/
def reply (r : Req) (v : Nat) (hist : List Nat) (s : State) : State :=
  let s := spreadHist r.id hist s
  match r.pend with
  | none => s
  | some i => { s with pends := s.pends.map fun p =>
      if p.id = i then
        { p with parts := setNth p.parts r.part (some (BitVec.ofNat 520 v)),
                 hist := (p.hist ++ hist).eraseDups, done := p.done ++ [(r.line, hist)] }
      else p }

/-- A store or posted atomic is applied: its acknowledgement leaves for the hart (R110). -/
def ack (r : Req) (s : State) : State :=
  if r.counted then { s with acks := s.acks ++ [r.src] } else s

/-- Completions of Invalidate Requests whose uses have all been performed are sent (R309). -/
def settleInvals (s : State) : State :=
  let due (l : List Nat) : Bool := !(l.any fun i =>
    s.reqs.any (fun q => q.id == i) || (everyHart s).any fun h => h.txn.buf.any fun o => o.2.1 == i)
  { s with host := { s.host with
      invals := s.host.invals.filter fun l => !due l
      invalsDone := s.host.invalsDone + (s.host.invals.filter due).length } }

/-- The accesses in flight that happen before an access to lines keep the lines in mind (R108). -/
def markLines (lines hist : List Nat) (s : State) : State :=
  { s with reqs := s.reqs.map fun q =>
      if hist.contains q.id then { q with passed := (q.passed ++ lines).eraseDups } else q }

/-! ### Seals of replies (R334) -/

/-- The interface of the home of a line: the tile's whose pan or semaphores it is of, or the sector slice's. -/
def lineIface (l : Nat) (s : State) : Nat :=
  match lineTile l with
  | some t => tileIface t
  | none => otherIface 0 (sectorFor l s / 8) (sectorFor l s % 8)

/-- A unit of a tile exchanges messages with the home of a line, or with the host port: request and answer are sealed if that
stands elsewhere. -/
def sealTrip (tile key : Nat) (host : Bool) (l : Nat) (s : State) : State :=
  let (x, s) := sealFrom tile (if host then none else lineTile l) key s
  answerSeal (if host then otherIface 2 0 0 else lineIface l s) x s

/-- The same for the lines of words. -/
def sealTrips (tile key : Nat) (words : List Nat) (s : State) : State :=
  ((words.map lineOf).eraseDups).foldl (fun s l => sealTrip tile key false l s) s

/-! ### Trace rings (R111, R112) -/

/-- An entry of a ring; the oldest is overwritten when it is full. Its SEQ counts the entries before it (log 106). -/
def ringAdd (src w : Nat) (mask : Nat) (remote : Bool) (r : Ring) : Ring :=
  let bmask := BitVec.ofNat 8 (ofBits (fun i => field mask (8 * i) 8 != 0) 8)
  let e : TraceEntry := ⟨src, panAddr w / 8, bmask, r.count % 2 ^ 15, remote⟩
  { entries := (if r.entries.length < 1024 then r.entries else r.entries.drop 1) ++ [e]
    count := r.count + 1
    last := if remote then (if r.last.contains w then r.last else r.last ++ [w])
      else r.last.filter fun x => x != w }

/-- A write of a pan word is applied at its bank port: every remote store is logged, and the first local
write to a word after one. -/
def traceWrite (src w mask : Nat) (remote : Bool) (s : State) : State :=
  if !isPanWord w then s
  else
    let t := getTile (panTile w) s
    let r := (lookupNat (panBank w) t.rings).getD ⟨[], 0, []⟩
    if remote || r.last.contains w then
      setTile (panTile w) { t with rings := updateNat (panBank w) (some (ringAdd src w mask remote r)) t.rings } s
    else s

/-! ### Writes at a home -/

/-- The word that a change must not be applied to, if any: a failed pan word it does not cover whole
(R287), or a line that fails its check (R337). -/
def writeBlocked (key : Nat) (o : MOp) (s : State) : Option Nat :=
  (opWords o).find? fun w =>
    if isPanWord w then wordBad w s && opMask o != 2 ^ 64 - 1
    else !lineReads (lineOf w) key s

/-- The value that INT.ERROR reports for a word: the address of its line, in its pan or in memory (R286, R337). -/
def errorVal (w : Nat) : Nat := if isPanWord w then clearLow (panAddr w) 6 else 64 * lineOf w

/-- A change of memory is applied at its home: conflicts, trace, wakes, history (R42, R105, R111, R114, R117). `task` is
the task that commits it, if one does. -/
def memWrite (task : Option TaskRun) (r : Req) (o : MOp) (s : State) : State :=
  match writeBlocked r.key o s with
  | some w => sendError r.src (errorVal w) (countFailing (lineOf w) s)
  | none =>
    (opWords o).foldl (fun s w =>
      let s := foreignWrite w (opMask o) task s
      let s := traceWrite r.src w (opMask o) r.remote s
      let s := if isPanWord w && opMask o == 2 ^ 64 - 1 then clearBad w s else s
      setHist r w (opMask o) s) (applyOp r.key o s)

/-- A word of the partition manager's page is changed: its registers decide what a write leaves, and only firmware
writes (R8, R9, R311). -/
def pageWrite (r : Req) (o : MOp) (s : State) (w : Nat) : State :=
  if r.fw then setHist r w (opMask o) (pageStore w o s) else s

/-- Bits of 64 bytes leave for the host (R309, R310). -/
def sendHost (pasid addr : Nat) (val mask : Line) (s : State) : State :=
  (opLines (.host pasid addr val mask)).foldl (fun s l => wakeLine l (foreignLine l s))
    { s with host := { s.host with sent := s.host.sent ++ [(pasid, addr, val, mask)] } }

/-- A change of words is applied at its home: of the manager's page, or of memory. -/
def storeWords (task : Option TaskRun) (r : Req) (o : MOp) (s : State) : State :=
  if (opWords o).any isPageWord then (opWords o).foldl (pageWrite r o) s else memWrite task r o s

/-- A change is applied at its home. -/
def storeHomeFor (task : Option TaskRun) (r : Req) (o : MOp) (s : State) : State :=
  match o with
  | .word _ _ _ => storeWords task r o s
  | .pair _ _ _ => storeWords task r o s
  | .fadd _ _ => storeWords task r o s
  | .empty w => if isPageWord w && !r.fw then s else memWrite task r o s
  | .log _ => s
  | .task _ => s
  | .heal l => clearSlice l s
  | .host pasid addr val mask => sendHost pasid addr val mask s

/-- The same for a change that no task makes. -/
def storeHome (r : Req) (o : MOp) (s : State) : State := storeHomeFor none r o s

/-- A change by a request: held in its transaction if that is open, lost if it has ended, else applied
(R116, R122). -/
def writeReq (r : Req) (o : MOp) (s : State) : State :=
  match r.txn with
  | some (id, gen) => if (txnHart id s).isSome then addWrite id gen r.id o s else s
  | none => storeHome r o s

/-- Several changes. -/
def writeAll (r : Req) (l : List MOp) (s : State) : State := l.foldl (fun s o => writeReq r o s) s

/-! ### Reads at a home -/

/-- The word as a request sees it. -/
def viewFor (r : Req) (w : Nat) (s : State) : WordView :=
  if isPageWord w && !r.fw then ⟨0, true, false, none, none⟩
  else match r.txn with
    | some (id, _) => match txnHart id s with
      | some h => seenWord h w s
      | none => viewOf w s
    | none => viewOf w s

/-- A read enters the read set of an open transaction (R116). -/
def noteRead (r : Req) (line : Nat) (s : State) : State :=
  match r.txn with
  | some (id, gen) => addRead id gen line s
  | none => s

/-- A line's 512 bits as a request sees them. -/
def lineFor (r : Req) (l : Nat) (s : State) : Nat :=
  (List.range 8).foldl (fun acc i => acc + viewVal (viewFor r (8 * l + i) s) * 2 ^ (64 * i)) 0

/-- The reply that a request is for. -/
def pendOf (r : Req) (s : State) : Option Pend :=
  match r.pend with
  | some i => s.pends.find? fun p => p.id == i
  | none => none

/-! ### Atomics (R184 to R188) -/

/-- The new value of a location; none if nothing is written. -/
def amoNew (op : AmoOp) (width m x e : Nat) : Option Nat :=
  let sm := toSigned m width
  let sx := toSigned x width
  match op with
  | .add => some ((m + x) % 2 ^ width)
  | .and => some (m &&& x)
  | .or => some (m ||| x)
  | .xor => some (m ^^^ x)
  | .min => some (wrap (min sm sx) width)
  | .max => some (wrap (max sm sx) width)
  | .swap => some x
  | .cas => if m = e then some x else none
  | .maxrst => some 0

/-- The accumulator at a location as a word view shows it: without one, that which an addition would begin (R102). -/
def accumAt (v : WordView) (a4 : Nat) : Accum :=
  (if a4 % 2 = 1 then v.hi else v.lo).getD (accumOf (field v.val (if a4 % 2 = 1 then 32 else 0) 32))

/-- The value that an `amo.fadd` returns: the FP32 reading, rounded again into BF16 (1) or FP16 (2) (R186). -/
def faddRet (ret : Nat) (a : Accum) : Nat :=
  let x := accumRead a
  match ret with
  | 1 => roundFloat bf16 0 0 (floatVal fp32 x)
  | 2 => roundFloat fp16 0 0 (floatVal fp32 x)
  | _ => x

/-! ### Forms and reads that end without effect -/

/-- What a reply was to fill is full again, with what it held. -/
def refillDest (d : Dest) (h : Hart) : Hart :=
  match d with
  | .slices a n => { h with gfull := h.gfull ||| granules a n }
  | .vec k => { h with vfull := h.vfull ||| bit16 k }
  | .cap k => { h with cfull := h.cfull ||| bit16 k }
  | _ => h

/-- The form that a reply belongs to is undone: the reply is no longer due, and what it marked empty is full
again (R180). -/
def undoForm (p : Pend) (s : State) : State :=
  modHart p.route (fun h => { refillDest p.dest h with stat := .running }) (dropPend p s)

/-- A full/empty form finds its word in the wrong state (R179, R180): outside a transaction its hart waits
on the line, registered there; inside one the line enters the read set, and the form acts as `retry` (R114, R116). What the
state that its test found follows precedes what the hart does next (R106). -/
def formFails (r : Req) (line : Nat) (hist : List Nat) (s : State) : State :=
  match pendOf r s with
  | none => s
  | some p =>
    let s := noteRead r line (modHart p.route (Hart.follow hist) (undoForm p s))
    match hartAt p.route s with
    | none => s
    | some h =>
      if inTxn h then (if h.txn.doom.isSome then s else retryAt p.route s)
      else
        let s := modHart p.route (fun h => { h with
          stat := .waiting [.line line], woken := false, epoch := h.epoch + 1 }) s
        match hartAt p.route s with
        | some h => register line h s
        | none => s

/-- A hart traps at the instruction that it presents, an attempt that counts as an issue (R71); a hart that no trap can reach
gets INT.ERROR (log 24). -/
def trapLater (n : Nat) (c : Cause) (t : Nat) (s : State) : State :=
  match hartAt n s with
  | none => s
  | some h =>
    if inTxn h || h.stat == .running || offRotation h.stat then turnPast n (causeAt n c t (h.stat != .running) s)
    else sendError n t s

/-- A form meets a cause at its home: no effect, and its hart traps at it (R287, R337). -/
def formTraps (r : Req) (c : Cause) (t : Nat) (s : State) : State :=
  let s := countFailing r.line s
  match pendOf r s with
  | none => s
  | some p => trapLater p.route c t (undoForm p s)

/-- A read meets a cause at its home after its instruction has issued: nothing is delivered, and its transaction aborts
with FAULT, or its hart traps (R287, R337, log 24). -/
def readTraps (r : Req) (c : Cause) (s : State) : State :=
  let s := countFailing r.line s
  match r.txn with
  | some (id, _) => doomTxn id stFault (codeOfCause c) (modEvery (fun h =>
      if inTxn h && h.txn.id == id then Hart.faultVal r.va h else h) s)
  | none => match pendOf r s with
    | none => trapLater r.src c r.va s
    | some p => trapLater p.route c r.va (modHart p.route (refillDest p.dest) (dropPend p s))

/-! ### Logs (R128, R189, R190) -/

/-- The update of a log entry on its word. -/
def logUpdate (e : LogEntry) (s : State) : MOp :=
  let w := e.loc / 8
  let o := 8 * (e.loc % 8)
  let v := viewVal (viewOf w s)
  match e.kind with
  | .int64 => .word w (BitVec.ofNat 64 (v + e.val.toNat)) (BitVec.allOnes 64)
  | .int32 =>
    wordWrite (64 * w + o) 32 (field v o 32 + e.val.toNat)
  | .fp32 => wordWrite (64 * w + o) 32 (fp32Add (field v o 32) (e.val.toNat % 2 ^ 32))

/-- The order of a merge: address, then source name, then append sequence. -/
def logBefore (a b : LogEntry) : Bool :=
  if a.loc != b.loc then a.loc < b.loc
  else if a.src != b.src then a.src < b.src
  else a.seq < b.seq

/-- An entry placed in a sorted list, and a list sorted. -/
def logInsert (e : LogEntry) : List LogEntry → List LogEntry
  | [] => [e]
  | x :: t => if logBefore e x then e :: x :: t else x :: logInsert e t

def logSort : List LogEntry → List LogEntry
  | [] => []
  | e :: t => logInsert e (logSort t)

/-- The home takes an entry: its sequence number is the number of entries to come before it. -/
def logAppend (e : LogEntry) (s : State) : State :=
  { s with logs := s.logs ++ [{ e with seq := s.ids }], ids := s.ids + 1 }

end Sys2Proof.Machine
end

