-- ==== Sys2Proof/Machine/Units.lean ====
section
/-! DEFINITION. Units as fills and engines read and write them (R29 to R33, R235, R251, R361): the bits of a
unit from its frame, its scale, its words, and whether it can be read. -/

namespace Sys2Proof.Machine

open Sys2Proof

/-! ### Bits of memory -/

/-- n bits from a bit address on, n at most 64, as a reader under a key set gets them (R311). -/
def memBits (key b n : Nat) (s : State) : Nat :=
  field (viewVal (viewUnder key (b / 64) s) + viewVal (viewUnder key (b / 64 + 1) s) * 2 ^ 64) (b % 64) n

/-- The bit address of plane p of unit u of a frame (R31). -/
def planeBit (frame u p : Nat) : Nat := 8 * (frame + u / 1024 * 1024 + (7 - p) * 128 + u % 1024 / 8) + u % 8

/-- The bit address of unit u of a frame whose units have containers (R29). -/
def contBit (frame fmt u : Nat) : Nat := 8 * frame + u * containerBits fmt

/-- The words that hold unit u of a frame. -/
def unitWords (frame fmt u : Nat) : List Nat :=
  match planesOf fmt with
  | some k => (List.range k).map fun i => planeBit frame u (7 - i) / 64
  | none => [contBit frame fmt u / 64]

/-- The code of unit u of a frame: a bit-plane unit is the top k planes, sign-extended (R32). -/
def unitCode (key frame fmt u : Nat) (s : State) : Nat :=
  match planesOf fmt with
  | some k => sext (ofBits (fun b => memBits key (planeBit frame u (8 - k + b)) 1 s == 1) k) k 8
  | none => (fun v => if sixBit fmt then v % 64 else v) (memBits key (contBit frame fmt u) (containerBits fmt) s)

/-- The changes that write a code into unit u of a frame (R29, R32). -/
def unitOps (frame fmt u code : Nat) : List MOp :=
  match planesOf fmt with
  | some k => (List.range 8).map fun p =>
      wordWrite (planeBit frame u p) 1 (bit (decide (8 - k ≤ p) && bitAt code (p - (8 - k))))
  | none => [wordWrite (contBit frame fmt u) (containerBits fmt) (if sixBit fmt then code % 64 else code)]

/-! ### Scales (R33) -/

/-- Does a format share one scale in a whole square, as BPS does? -/
def squareScale (fmt : Nat) : Bool := stripBytes fmt == 1

/-- The byte of the strip that holds the scale of unit u: one for a square, or one for each of its rows. -/
def scaleByte (strip fmt u : Nat) : Nat :=
  strip + u / 1024 * stripBytes fmt + (if squareScale fmt then 0 else rowOf (u % 1024))

def scaleAt (key strip fmt u : Nat) (s : State) : Nat := memBits key (8 * scaleByte strip fmt u) 8 s

/-! ### What can be read -/

/-- May a word be read under a key set: it is of the manager's page, which answers any (R311), or it is no failed pan
word, and its line passes its check (R287, R337)? -/
def wordReads (w key : Nat) (s : State) : Bool :=
  isPageWord w || (failCause key w s).isNone

/-- The first word of a list that may not be read. -/
def badWord (l : List Nat) (key : Nat) (s : State) : Option Nat := l.find? fun w => !wordReads w key s

/-- The key set of a tile's accesses under one of the two maps. -/
def tileKey (tile : Nat) (fw : Bool) (s : State) : Nat :=
  if fw then 16 else match partitionOf tile s with
    | some p => p.n
    | none => 16

/-! ### Elements of a pan (R361) -/

/-- The bytes that element u of a format occupies, counted from the capability's first address. -/
def elemBytes (fmt u : Nat) : List Nat :=
  match planesOf fmt with
  | some _ => (List.range 8).map fun p => planeBit 0 u p / 8
  | none =>
    let b := contBit 0 fmt u
    (List.range ((b + containerBits fmt - 1) / 8 - b / 8 + 1)).map fun i => b / 8 + i

/-- Does unit u lie in the block of a capability, and in its extents? A unit of global space has an offset; a pan
element has its bytes. -/
def unitInBlock (c : Cap) (fmt u : Nat) : Bool :=
  if capSpace c = 0 then offInBlock c u else (elemBytes fmt u).all (offInBlock c)

def unitInside (c : Cap) (fmt u : Nat) : Bool :=
  if capSpace c = 0 then offInside c u else (elemBytes fmt u).all (offInside c)

/-- The first byte of a capability's elements in a tile's pan. -/
def panFrame (tile : Nat) (c : Cap) : Nat := panBase + tile * 2 ^ 20 + capPath c

/-! ### Sources of fills (R234, R236) -/

/-- The mapping of a list that covers an address. -/
def mapAt (l : List Mapping) (a : Nat) : Option Mapping := l.find? fun m => covers m a

/-- Where a unit of a fill's source lies: its frame, format, place in the frame, and the strip of a scaled page. -/
def fillUnit (f : Fill) (z : Nat) : Option (Nat × Nat × Nat × Option Nat) :=
  match f.pan with
  | some t => some (panFrame t f.cap, f.fmt, f.off + z, none)
  | none =>
    let a := capPath f.cap + f.off + z
    (mapAt f.maps a).map fun m =>
      (m.frame, m.fmt, a - m.path, if hasStrip m.fmt then some m.strip else none)

/-- The words that a fill reads. -/
def fillWords (f : Fill) : List Nat :=
  ((List.range f.n).flatMap fun z => match fillUnit f z with
    | none => []
    | some (frame, fmt, u, strip) =>
      unitWords frame fmt u ++ (strip.map fun p => scaleByte p fmt u / 8).toList).eraseDups

/-! ### Writes of the units of a tile -/

/-- The name that a trace entry and an engine's write carry: it names no hart. -/
def noHart : Nat := 0x3FFFFF

/-- A request that stands for a write of no hart's, under a key set. -/
def bareReq (key : Nat) : Req :=
  { id := 0, src := noHart, op := .read 0, line := 0, pend := none, part := 0, isWrite := true, counted := false,
    remote := false, fw := key == 16, key := key, txn := none, own := [], hist := [], va := 0, passed := [], stamp := none }

/-- An engine's or a manager's store applied at the home of its line (R245). -/
def unitStore (key : Nat) (o : MOp) (s : State) : State := storeHome (bareReq key) o s

def unitStores (key : Nat) (l : List MOp) (s : State) : State := l.foldl (fun s o => unitStore key o s) s

end Sys2Proof.Machine
end

