-- ==== Sys2Proof/Machine/Publish.lean ====
section
/-! DEFINITION. Semaphores (R237, R238), chains and their headers (R245 to R247, R267), pending engine writes and
their publication (R248, R249, R268). -/

namespace Sys2Proof.Machine

open Sys2Proof

/-! ### Semaphores (R237, R238) -/

/-- The greatest count of a semaphore. -/
def semMax : Nat := 65535

/-- The tile of a semaphore word. -/
def semTile (w : Nat) : Nat := (w - semBase / 8) / 64

/-- An increment takes its point in the order of its semaphore, and is acknowledged; a fence that waits for it looks again
(R110). -/
def semAdd (v : SemV) (s : State) : State :=
  let n := rawWord s.mem v.w
  let read := wordHist v.w (2 ^ 64 - 1) s
  let r := { bareReq 16 with src := v.src, hist := v.hist ++ read }
  let s := storeHome r (.word v.w (BitVec.ofNat 64 (n + 1)) (BitVec.allOnes 64)) (spreadHist v.id read s)
  signalAll .completion { s with acks := s.acks ++ [v.src] }

/-- Held increments of a word are applied at once when its count is below the greatest, in the order in which they
came. -/
def semDrain (w : Nat) (s : State) : State :=
  let t := getTile (semTile w) s
  match t.semHeld.find? fun v => v.w == w with
  | none => s
  | some v =>
    if rawWord s.mem w < semMax then
      semAdd v (setTile (semTile w) { t with semHeld := t.semHeld.filter fun x => x.id != v.id } s)
    else s

/-- As many held increments of the semaphores that changes write as their counts admit (R237). -/
def semSettle (l : List MOp) (s : State) : State :=
  let words := ((l.flatMap opWords).filter fun w => decide (semBase ≤ 8 * w)).eraseDups
  words.foldl (fun s w =>
    (List.range (getTile (semTile w) s).semHeld.length).foldl (fun s _ => semDrain w s) s) s

/-! ### Chain headers (R245) -/

def stIdle : Nat := 0
def stRun : Nat := 1
def stHeld : Nat := 2

/-- Word n of a header, as a reader under a key set gets it. -/
def hdrWord (key hdr n : Nat) (s : State) : Nat := viewVal (viewUnder key (hdr / 8 + n) s)

/-- Words of a header written in one step. -/
def hdrWrite (r : Req) (hdr : Nat) (l : List (Nat × Nat)) (s : State) : State :=
  l.foldl (fun s x => storeHome r (.word (hdr / 8 + x.1) (BitVec.ofNat 64 x.2) (BitVec.allOnes 64)) s) s

/-- One of the two engines of a tile: the quantizer if the flag is set (R230). -/
def getEngine (t : Nat) (eng : Bool) (s : State) : Engine :=
  if eng then (getTile t s).quant else (getTile t s).copy

def setEngine (t : Nat) (eng : Bool) (v : Engine) (s : State) : State :=
  let tile := getTile t s
  setTile t (if eng then { tile with quant := v } else { tile with copy := v }) s

/-- Is a chain registered with an engine? -/
def hasChain (hdr : Nat) (e : Engine) : Bool := e.chains.any fun c => c.hdr == hdr

/-- Is a chain registered with an engine of the domain other than a given one? -/
def chainElsewhere (hdr t : Nat) (eng : Bool) (s : State) : Bool :=
  s.tiles.any fun (t', v) =>
    (hasChain hdr v.copy && (t' != t || eng)) || (hasChain hdr v.quant && (t' != t || !eng))

/-- A chain is registered, or its record replaced, with what it follows added (R246). -/
def addChain (ch : Chain) (e : Engine) : Engine :=
  if hasChain ch.hdr e then
    { e with chains := e.chains.map fun c =>
        if c.hdr = ch.hdr then { ch with maps := c.maps ++ ch.maps, hist := (c.hist ++ ch.hist).eraseDups } else c }
  else { e with chains := e.chains ++ [ch] }

/-- `chadv` is performed (R246, R267): LIMIT rises and a chain that is not in RUN runs, in one step at the header's
home; the commands that it makes available follow everything that it follows, and run under its map (R297). -/
def chainAdvance (r : Req) (ch : Chain) (n t : Nat) (eng : Bool) (s : State) : State :=
  let w := ch.hdr / 8
  if (writeBlocked r.key (.word (w + 2) 0 (BitVec.allOnes 64)) s).isSome then sendError r.src (errorVal w) s
  else
    let limit := (hdrWord r.key ch.hdr 2 s + n) % 2 ^ 64
    let state := hdrWord r.key ch.hdr 7 s
    let s := hdrWrite r ch.hdr
      ((2, limit) :: if state % 4 = stRun then [] else [(7, stRun)]) s
    setEngine t eng
      (addChain { ch with maps := [(limit, ch.fw)], hist := (ch.hist ++ r.hist).eraseDups } (getEngine t eng s)) s

/-! ### Pending writes (R248) -/

/-- The lines that have pending writes are marked so in their side band (R298). -/
def markPending (l : Nat) (on : Bool) (s : State) : State :=
  { s with mem := setSide s.mem l { getSide s.mem l with pending := on } }

/-- A pending write: a later one replaces the bits of an earlier one of its word (R248). A line of global memory is held
at its shadow, `shoff` on (R298). -/
def addPending (o : MOp) (shoff : Option Nat) (key : Nat) (hist : List Nat) (s : State) : State :=
  match o with
  | .word w val mask =>
    let p : PendWrite := ⟨w, val, mask, isPanWord w, shoff.map fun k => (8 * w + k) % 2 ^ 54, key, hist⟩
    markPending (lineOf w) true { s with pendw := s.pendw ++ [p] }
  | _ => s

/-- The bits of a pending write as its line's shadow holds them: a later pending write that has the same shadow word has
replaced its own (R298). No reader but `publish` sees them there (R127, log 109). -/
def heldVal (p : PendWrite) (l : List PendWrite) : Word :=
  match p.held with
  | none => p.val
  | some a => l.foldl (fun v q => if q.held = some a then (v &&& ~~~q.mask) ||| (q.val &&& q.mask) else v) p.val

/-- The lines of a pan with pending writes, at most 256 KiB of them. -/
def panPending (t : Nat) (s : State) : List Nat :=
  ((s.pendw.filter fun p => isPanWord p.w && panTile p.w == t).map fun p => lineOf p.w).eraseDups

def panPendMax : Nat := 4096

/-! ### The lines of a region (R249, R268) -/

/-- The leaves under a node of a depth whose block begins at an address. -/
def leavesOf (fuel key node depth base : Nat) (r : Range) (s : State) : List Mapping :=
  match fuel with
  | 0 => []
  | fuel + 1 => (List.range 64).flatMap fun i =>
      let a := base + i * 4 ^ (24 - depth)
      let w := (node + 16 * i) / 8
      if walkReads w key s = false then []
      else if field (memWord w s) 62 2 = 1 then
        leavesOf fuel key (field (memWord w s) 0 54) (depth + 3) a r s
      else match walkNode 1 key node depth a r s with
        | .ok m => [m]
        | _ => []

/-- The mappings that the range table of a partition makes, by the entries that a die has cached and by those in memory
(R308). -/
def tableMaps (die : Nat) (p : Partition) (s : State) : List Mapping :=
  (List.range 64).flatMap fun i => [true, false].flatMap fun cached =>
    if rangeReads cached die i p s = false then []
    else
      let r := rangeOf (rangeWords cached die i p s)
      if r.malformed || r.mode == 0 || decide (27 < r.depth) then []
      else if r.mode = 2 then leavesOf 4 p.n r.offset r.depth r.path r s
      else match resolveRange p.n r.path { r with hole := none } s with
        | .ok m => [{ m with hole := r.hole }]
        | _ => []

/-- The units of a frame that have bits in 64 bytes of it: the first and their number (R29, R31). -/
def lineUnits (fmt off : Nat) : Nat × Nat :=
  if (planesOf fmt).isSome then (off / 1024 * 1024 + off % 128 * 8, 512)
  else (off * 8 / containerBits fmt, 512 / containerBits fmt)

/-- Does a mapping place a unit of a region in a line? The unit is mapped so, and no earlier range entry holds it. -/
def mapHolds (tile : Nat) (m : Mapping) (depth path l : Nat) (s : State) : Bool :=
  let (u, n) := lineUnits m.fmt (64 * l - clearLow m.frame 6)
  decide (m.frame / 64 ≤ l) && (List.range n).any fun i =>
    let a := m.path + u + i
    covers m a && inBlock a depth path &&
      (match resolve false tile a s with
        | .ok x => x.frame == m.frame && x.src == m.src
        | _ => false)

/-- Does a mapping place the scale of a unit of a region in a line (R33)? -/
def mapScales (tile : Nat) (m : Mapping) (depth path l : Nat) (s : State) : Bool :=
  hasStrip m.fmt && (List.range 64).any fun i =>
    let b := 64 * l + i
    let square := (b - m.strip) / stripBytes m.fmt
    decide (m.strip ≤ b) && (List.range 1024).any fun u =>
      let a := m.path + square * 1024 + u
      scaleByte m.strip m.fmt (square * 1024 + u) == b && covers m a && inBlock a depth path &&
        (match resolve false tile a s with
          | .ok x => x.strip == m.strip && x.src == m.src
          | _ => false)

/-- Does a line belong to a region as its space is mapped now (R268)? A line that the region touches does (log 66). -/
def lineInRegion (r : Req) (pan : Option Nat) (depth path l : Nat) (s : State) : Bool :=
  match pan with
  | some t =>
    isPanWord (8 * l) && panTile (8 * l) == t &&
      (inBlock (panAddr (8 * l)) (min depth 24) (clearLow path 6))
  | none =>
    if panBase ≤ 64 * l then false
    else if r.fw then namesMemory (64 * l) s && inBlock (64 * l) (min depth 24) (clearLow path 6)
    else
      let t := tileOf r.src
      match partitionOf t s with
      | none => false
      | some p => (tableMaps (t / 2 ^ 7) p s).any fun m =>
          m.src != 3 && (mapHolds t m depth path l s || mapScales t m depth path l s)

/-- The lines that somebody watches: waiting harts, open transactions, and tasks that wait after a `retry` (R192). -/
def watchedLines (s : State) : List Nat :=
  let queued := (s.enqs.map fun e => e.2) ++ s.tiles.flatMap fun t => t.2.tasks ++ t.2.spill
  ((s.wake.map fun e => e.line) ++
    ((everyHart s).flatMap fun h => readLines h.txn ++ writeLines h.txn ++ h.txn.stale) ++
    queued.flatMap fun e => e.wakeOn.getD []).eraseDups

/-- A failing primary of a pending line reads as zero outside the pending bytes (R337). -/
def zeroLine (key l : Nat) (s : State) : State :=
  (List.range 8).foldl
    (fun s i => applyOp key (.word (8 * l + i) 0 (BitVec.allOnes 64)) (clearBad (8 * l + i) s)) s


/-- `publish` at its point (R249, R268): every pending write of the region's lines becomes current, in the order in which
the engines wrote, and every line of the region counts as written. -/
def publishRegion (r : Req) (pan : Option Nat) (depth path : Nat) (s : State) : State :=
  let here (l : Nat) : Bool := lineInRegion r pan depth path l s
  let lines := ((s.pendw.map fun p => lineOf p.w).eraseDups).filter here
  let mine := s.pendw.filter fun p => lines.contains (lineOf p.w)
  let held := s.pendw
  let rest := s.pendw.filter fun p => !lines.contains (lineOf p.w)
  let failing := lines.filter fun l => decide (64 * l < panBase) && !lineReads l r.key s
  let s := failing.foldl (fun s l => zeroLine r.key l s) { s with pendw := rest }
  let s := mine.foldl (fun s p => storeHome { r with hist := r.hist ++ p.hist } (.word p.w (heldVal p held) p.mask) s) s
  let s := lines.foldl (fun s l => markPending l false s) s
  let others := (watchedLines s).filter fun l => !lines.contains l && here l
  others.foldl (fun s l => wakeLine l (foreignLine l s)) s

end Sys2Proof.Machine
end

