-- ==== Sys2Proof/Machine/Perform.lean ====
section
/-! DEFINITION. The performance of a request at its home in one step (R105, R106, R179 to R190, R199, R237, R246,
R249), and how its reply reaches the hart (R59, R180). -/

namespace Sys2Proof.Machine

open Sys2Proof

/-! ### What a request reads (R106) -/

/-- The runs of bits that a piece of a run takes from part i of its reply, of n parts. -/
def pieceBitsOf (i : Nat) : List (Nat × Nat × Nat) → List (Nat × Nat)
  | [] => []
  | (n, off, bits) :: t =>
    if i < n then
      let lo := max off (512 * i)
      let hi := min (off + bits) (512 * i + 512)
      [(lo - 512 * i, hi - lo)]
    else pieceBitsOf (i - n) t

/-- The runs of bits that a reply takes from part i of it: the first bit and the number. -/
def partBits (x : Shape) (i : Nat) : List (Nat × Nat) :=
  match x with
  | .scalar off width _ => [(off, width)]
  | .planes first n _ => [(first, n)]
  | .lanes e l => l.filterMap fun o => o.bind fun (part, off, k, _) =>
      if k = 0 then (if part = i then some (off, e) else none)
      else if part ≤ i ∧ i < part + k then some (off, 1) else none
  | .bytes pieces _ => pieceBitsOf i pieces
  | .line _ _ => [(0, 512)]
  | .planesLine _ _ => [(0, 64)]
  | .pair => [(0, 128)]

/-- The bits of word j that runs of bits take. -/
def wordMask (l : List (Nat × Nat)) (j : Nat) : Nat :=
  ofBits (fun b => l.any fun x => decide (x.1 ≤ 64 * j + b) && decide (64 * j + b < x.1 + x.2)) 64

/-- The bits of the words of memory that a request reads; bit 64 of a mask is a word's state. -/
def readWords (r : Req) (s : State) : List (Nat × Nat) :=
  let mask (j : Nat) : Nat := match pendOf r s with
    | some p => wordMask (partBits p.shape r.part) j
    | none => 2 ^ 64 - 1
  match r.op with
  | .read w => [(w, mask 0)]
  | .readLine l => (List.range 8).map fun i => (8 * l + i, mask i)
  | .readPair w _ => [(w, mask 0 + stateBit), (w + 1, mask 1 + stateBit)]
  | .loadFull w _ => [(w, mask 0 + stateBit)]
  | .storeFull w _ _ _ => [(w, stateBit)]
  | .amo _ w off width _ _ => [(w, (2 ^ width - 1) * 2 ^ off)]
  | .fadd a _ _ => [(a / 2, if a % 2 = 1 then (2 ^ 32 - 1) * 2 ^ 32 else 2 ^ 32 - 1)]
  | .semP w => [(w, 2 ^ 64 - 1)]
  | .chadv ch _ _ _ => [(ch.hdr / 8 + 2, 2 ^ 64 - 1), (ch.hdr / 8 + 7, 2 ^ 64 - 1)]
  | _ => []

/-- What the words that a request reads follow (R106). -/
def readHist (r : Req) (s : State) : List Nat := (readWords r s).flatMap fun x => wordHist x.1 x.2 s

/-- A request whose write follows what its read followed: an atomic reads the write before its own (R106). -/
def Req.after (r : Req) (hist : List Nat) : Req := { r with hist := r.hist ++ hist }

/-- What a read of a request meets (R287, R337); the partition manager's page answers any. -/
def readFails (r : Req) (s : State) : Option Cause :=
  (readWords r s).findSome? fun x => if isPageWord x.1 then none else failCause r.key x.1 s

/-! ### Merges of logs (R128, R190) -/

/-- Does an `lmerge` of a block merge an entry? -/
def merges1 (pan : Bool) (ctx depth path : Nat) (e : LogEntry) : Bool :=
  e.pan == pan && e.ctx == ctx && inBlock e.va depth path

/-- The update of an entry applied; it follows the `lapp` and what the word's last writes follow. -/
def mergeEntry (r : Req) (s : State) (e : LogEntry) : State :=
  let w := e.loc / 8
  storeHome (r.after (e.hist ++ wordHist w (2 ^ 64 - 1) s)) (logUpdate e s) s

/-- What an update of an entry meets. -/
def entryFails (r : Req) (s : State) (e : LogEntry) : Option Cause :=
  if isPageWord (e.loc / 8) then none else failCause r.key (e.loc / 8) s

/-! ### When a request is performed (R103, R105, R108) -/

/-- Does a request that acts on words of many lines act on a line? -/
def actsOn (r : Req) (l : Nat) (s : State) : Bool :=
  match r.op with
  | .lmerge pan ctx depth path => s.logs.any fun e => merges1 pan ctx depth path e && e.loc / 64 == l
  | .publish pan depth path => (s.pendw.any fun p => lineOf p.w == l) && lineInRegion r pan depth path l s
  | _ => false

/-- Must a request follow an earlier request of its hart (R105)? -/
def ownBlocks (q r : Req) (s : State) : Bool :=
  if needsAll q.op && needsAll r.op then true
  else q.line == r.line || actsOn q r.line s || actsOn r q.line s

/-- Must a request follow an access that happens before it (R108)? A write to its home must have been applied, and a
write follows a read of its line. -/
def histBlocks (q r : Req) (s : State) : Bool :=
  if q.isWrite then needsAll q.op || needsAll r.op || reqsMeet q r s else r.isWrite && q.line == r.line

/-- Does a request read what an access follows that a later request of the same history has not waited for (R108)? -/
def readsLate (r : Req) (s : State) : Bool :=
  (readHist r s).any fun i => s.reqs.any fun x => x.id == i && x.isWrite && r.passed.any fun l => sameHome x.line l s

/-- A posted increment that happens before an `msem.p` at the same home stands before it; one that is held stands at no
point (R237). -/
def semBlocks (r : Req) (s : State) : Bool :=
  match r.op with
  | .semP w => (getTile (semTile w) s).semv.any fun v => r.hist.contains v.id
  | _ => false

/-- Is a request's home a pan that is out of service (R315, log 90)? -/
def panOut (r : Req) (s : State) : Bool :=
  isPanWord (8 * r.line) && s.fenced.contains (panTile (8 * r.line))

/-- The lines that a request acts on. -/
def reqLines (r : Req) (s : State) : List Nat :=
  match r.op with
  | .lmerge pan ctx depth path => (s.logs.filter (merges1 pan ctx depth path)).map fun e => e.loc / 64
  | .publish _ _ _ => ((s.pendw.map fun p => lineOf p.w).filter fun l => actsOn r l s).eraseDups
  | _ => [r.line]

/-- A request follows its hart's earlier fill that reads a line of it (R105), and a write follows any fill that happens
before it and reads its line (R106). -/
def fillBlocks (r : Req) (s : State) : Bool :=
  s.tiles.any fun t => t.2.fills.any fun f =>
    (r.own.contains f.id || ((r.isWrite || needsAll r.op) && r.hist.contains f.id)) &&
      (fillWords f).any fun w => (reqLines r s).contains (lineOf w)

/-- A line of a request that its stack must rebuild and write back first (R348). -/
def repairFor (r : Req) (s : State) : Option Nat := (reqLines r s).find? fun l => eccFails l s && rebuilds l s

/-- A request with all that happens before it: before a `publish` the pending writes that it makes current do, with what they
follow (R127). -/
def Req.whole (r : Req) (s : State) : Req :=
  match r.op with
  | .publish _ _ _ => r.after ((s.pendw.filter fun p => actsOn r (lineOf p.w) s).flatMap fun p => p.hist)
  | _ => r

/-- Must a write of no request's wait for what happens before it: writes to its home, reads of its line, fills and posted
increments (R105, R106, R108)? -/
def writeWaits (r : Req) (s : State) : Bool :=
  (s.reqs.any fun q => r.hist.contains q.id && histBlocks q r s) || fillBlocks r s ||
    s.tiles.any fun t => t.2.semv.any fun v => r.hist.contains v.id && lineOf v.w == r.line

/-- May a request be performed now: its hart's earlier requests to its line, and the writes to its home in its history,
have been, its home has room and is in service, its key has nonces left, and its lines need no repair? -/
def reqReady (r : Req) (s : State) : Bool :=
  !(s.reqs.any fun q => q.id != r.id &&
      ((r.own.contains q.id && ownBlocks q r s) || ((r.whole s).hist.contains q.id && histBlocks q r s))) &&
    !readsLate r s && !semBlocks r s && !fillBlocks (r.whole s) s && !keySpent r.key s && !heldOp r s && !panOut r s &&
    (repairFor r s).isNone

/-! ### Performance (R105) -/

/-- Host memory as a request of a transaction sees it: what the transaction holds overlays it (R116, R309). -/
def hostThrough (r : Req) (pasid addr v : Nat) (s : State) : Nat :=
  match r.txn.bind fun t => txnHart t.1 s with
  | none => v
  | some h => h.txn.buf.foldl (fun v o => match o.2.2 with
      | .host p a val mask =>
        let merge (v : Nat) (i : Nat) : Nat :=
          if p = pasid ∧ a ≤ addr + i ∧ addr + i < a + 64 then
            let m := field mask.toNat (8 * (addr + i - a)) 8
            let x := (field v (8 * i) 8 &&& (255 - m)) ||| (field val.toNat (8 * (addr + i - a)) 8 &&& m)
            v - field v (8 * i) 8 * 2 ^ (8 * i) + x * 2 ^ (8 * i)
          else v
        (List.range 64).foldl merge v
      | _ => v) v

/-- A read of a value that meets no failure replies with it, and the line enters the read set. -/
def readReply (r : Req) (v : Nat) (s : State) : State :=
  match readFails r s with
  | some c => readTraps r c s
  | none => reply r v (readHist r s) (noteRead r r.line s)

/-- An atomic that meets a failure: one that returns traps, and so does a posted one in a pan; a posted one that merges into
a failing line of memory reports it (R287, R337). -/
def atomicFails (r : Req) (c : Cause) (s : State) : State :=
  if r.pend.isSome || c == cErrPan then ack r (readTraps r c s)
  else ack r (sendError r.src (64 * r.line) s)

/-! ### Claims of span counters (R199, R330) -/

/-- The indices that a claim gets from a counter that has some left. -/
def claimed (c : Span) (count : Nat) : Nat := min count (c.limit - c.next)

/-- Has the leader of a counter a replica? -/
def hasReplica (c : Span) (s : State) : Bool := s.parts.any fun p => p.n == c.part && p.replica.isSome

/-- What a claim awaits once its step has been taken: the replica's acknowledgement, then the leader's reply. -/
def spanOnward (r : Req) (s : State) : Option HomeOp :=
  match r.op with
  | .spnext ctr count width => match s.spans.find? fun c => c.id == ctr with
    | some c =>
      if c.next < c.limit ∧ hasReplica c s = true then some (.spanAck ctr count width c.next (claimed c count)) else none
    | none => none
  | .spanAck ctr count width base _ => some (.spanReply ctr count width base)
  | _ => none

/-- A request is performed at its home: one step, at one point in the order of each word it touches. -/
def performOp (r : Req) (s : State) : State :=
  let hist := readHist r s
  match r.op with
  | .read w => readReply r (viewVal (viewFor r w s)) s
  | .readLine l => readReply r (lineFor r l s) s
  | .readPair w lcap =>
    let a := viewFor r w s
    let b := viewFor r (w + 1) s
    let t := a.tag && b.tag && lcap
    readReply r (viewVal a + viewVal b * 2 ^ 64 + bit t * 2 ^ 128) s
  | .loadFull w take =>
    let v := viewFor r w s
    if isPageWord w && !r.fw then reply r 0 [] s
    else match readFails r s with
    | some c => formTraps r c r.va s
    | none =>
      if !v.fe then formFails r (lineOf w) hist s
      else
        let s := noteRead r (lineOf w) s
        reply r (viewVal v) hist (if take then writeReq (r.after hist) (.empty w) s else s)
  | .write l => ack r (reply r 0 [] (writeAll r l s))
  | .storeFull w val mask toEmpty =>
    let v := viewFor r w s
    if isPageWord w && !r.fw then reply r 0 [] s
    else match readFails r s with
    | some c => formTraps r c r.va s
    | none =>
      if v.fe == toEmpty then formFails r (lineOf w) hist s
      else reply r 0 hist (writeReq (r.after hist) (.word w val mask) (noteRead r (lineOf w) s))
  | .amo op w off width x e =>
    match readFails r s with
    | some c => atomicFails r c s
    | none =>
      let m := field (viewVal (viewFor r w s)) off width
      let s := noteRead r (lineOf w) s
      let s := match amoNew op width m x.toNat e.toNat with
        | some v => writeReq (r.after hist) (wordWrite (64 * w + off) width v) s
        | none => s
      ack r (reply r m hist s)
  | .fadd a4 t ret =>
    match readFails r s with
    | some c => atomicFails r c s
    | none =>
      let w := a4 / 2
      let v := faddRet ret (accumAt (viewFor r w s) a4)
      ack r (reply r v hist (writeReq (r.after hist) (.fadd a4 t) (noteRead r (lineOf w) s)))
  | .lapp e =>
    let e := { e with hist := e.hist ++ r.hist }
    match r.txn with
    | some (id, gen) =>
      ack r (if (txnHart id s).isSome then addWrite id gen r.id (.log e) s else s)
    | none => ack r (logAppend e s)
  | .lmerge pan ctx depth path =>
    let l := logSort (s.logs.filter (merges1 pan ctx depth path))
    match l.findSome? fun e => (entryFails r s e).map fun c => (c, e.va) with
    | some (c, a) => formTraps r c a s
    | none =>
      let found := l.flatMap fun e =>
        (e.hist.filter fun i => unended i s) ++ wordHist (e.loc / 8) (2 ^ 64 - 1) s
      let s := l.foldl (mergeEntry r) s
      let s := { s with logs := s.logs.filter fun e => !merges1 pan ctx depth path e }
      signalAll .logs (reply r l.length found s)
  | .semP w =>
    let v := viewVal (viewFor r w s)
    if v = 0 then formFails r (lineOf w) hist s
    else
      let s := noteRead r (lineOf w) s
      semDrain w (reply r 0 hist
        (writeReq (r.after hist) (.word w (BitVec.ofNat 64 (v - 1)) (BitVec.allOnes 64)) s))
  | .chadv ch n tile eng => ack r (reply r 0 hist (chainAdvance (r.after hist) ch n tile eng s))
  | .publish pan depth path =>
    let found := (s.pendw.filter fun p => actsOn r (lineOf p.w) s).flatMap fun p => p.hist.filter fun i => unended i s
    reply r 0 found (publishRegion r pan depth path s)
  | .spnext ctr count width =>
    match s.spans.find? fun c => c.id == ctr with
    | none => reply r (2 ^ width - 1) [] s
    | some c =>
      if c.limit ≤ c.next then reply r (2 ^ width - 1) [] s
      else
        let t := { s with spans := s.spans.map fun d =>
          if d.id = ctr then { d with next := c.next + claimed c count } else d }
        if (spanOnward r s).isSome then t else reply r (c.next % 2 ^ width) [] t
  | .spanAck ctr _ _ base n =>
    { s with spans := s.spans.map fun d => if d.id = ctr then { d with copy := max d.copy (base + n) } else d }
  | .spanReply _ _ width base => reply r (base % 2 ^ width) [] s
  | .hostRead pasid addr =>
    let v := hostThrough r pasid addr (Config.hostWord s.free).toNat s
    reply r v [] (noteRead r (hostLine pasid addr) { s with free := s.free + 1 })
  | .hostWrite pasid addr val mask => ack r (reply r 0 [] (writeReq r (.host pasid addr val mask) s))

/-- The accesses in flight that happen before one performed now keep its line in mind (R108). -/
def markPassed (r : Req) (hist : List Nat) (s : State) : State := markLines (r.line :: r.passed) hist s

/-- A request is performed and leaves the list, but for a claim that awaits more; a hart whose fence or `rinv` waits looks
again (R110). -/
def perform (r : Req) (s : State) : State :=
  let s := markPassed r ((r.whole s).hist ++ readHist r s) s
  let t := performOp r s
  let reqs := match spanOnward r s with
    | some op => t.reqs.map fun q => if q.id = r.id then { q with op := op } else q
    | none => t.reqs.filter fun q => q.id != r.id
  signalAll .completion (settleInvals { t with reqs := reqs })

/-! ### Seals of replies (R334) -/

/-- The interface at which a request is performed: the host port's, the tile's whose pan or semaphores it reaches, or the
home slice's. -/
def homeIface (r : Req) (s : State) : Nat :=
  if reqHost r.op then otherIface 2 0 0 else lineIface r.line s

/-- The answer to a sealed request is sealed. -/
def sealReply (iface : Nat) (r : Req) (s : State) : State := answerSeal iface r.stamp s

/-! ### Deposits (R59) -/

/-- The containers of a 6-bit format read with the top two bits zero (R29). -/
def readSix (six : Bool) (v bits : Nat) : Nat := if six then mask6 v (bits / 8) else v

/-- Part i of a reply. -/
def partVal (p : Pend) (i : Nat) : Nat :=
  match p.parts[i]? with
  | some (some v) => v.toNat
  | _ => 0

/-- Element j of a group of bit planes whose plane 7 - i is part i0 + i: the top k planes, sign-extended to
8 bits (R32). -/
def planeElem (p : Pend) (i0 k j : Nat) : Nat :=
  let v := ofBits (fun b => bitAt (partVal p (i0 + (k - 1 - b))) j) k
  sext v k 8

/-- A line whose units of width e stand in Z-order, as rows and columns of a block (R223). -/
def blockLanes (e v : Nat) : Nat :=
  let n := 512 / e
  let rows := 2 ^ (log2 n / 2)
  let cols := n / rows
  joinLanes e ((List.range n).map fun i => field v (e * zOf (i / cols) (i % cols)) e)

/-- The register of a `vst.blk` as the units of a line in Z-order. -/
def unblockLanes (e v : Nat) : Nat :=
  let n := 512 / e
  let cols := n / 2 ^ (log2 n / 2)
  joinLanes e ((List.range n).map fun z => field v (e * (rowOf z * cols + colOf z)) e)

/-- The pieces of a run one after another, from part i on. -/
def joinPieces (p : Pend) (i : Nat) : List (Nat × Nat × Nat) → Nat
  | [] => 0
  | (n, off, bits) :: t =>
    field (joinLanes 512 ((List.range n).map fun j => partVal p (i + j))) off bits + 2 ^ bits * joinPieces p (i + n) t

/-- The value that the parts of a reply make. -/
def replyVal (p : Pend) : Nat :=
  match p.shape with
  | .scalar off width six => readSix six (field (partVal p 0) off width) width
  | .planes first n k => joinLanes 8 ((List.range n).map fun j => planeElem p 0 k (first + j))
  | .lanes e l =>
    joinLanes e (l.map fun o => match o with
      | none => 0
      | some (i, off, k, six) =>
        if k = 0 then readSix six (field (partVal p i) off e) e else planeElem p i k off)
  | .bytes l nslices => joinPieces p 0 l % 2 ^ (4 * nslices)
  | .line six blk =>
    let v := readSix six (partVal p 0 % 2 ^ 512) 512
    if blk = 0 then v else blockLanes blk v
  | .planesLine k blk =>
    let v := joinLanes 8 ((List.range 64).map fun j => planeElem p 0 k j)
    if blk = 0 then v else blockLanes blk v
  | .pair => partVal p 0

/-- Every part of a reply has arrived. -/
def replyWhole (p : Pend) : Bool := p.parts.all fun v => v.isSome

/-- What a performed form does to the pc and to its special sources (R180). -/
def finishForm (p : Pend) (h : Hart) : Hart :=
  match p.next with
  | none => h
  | some pc =>
    let drop (k : Nat) (x : Nat × Stream) : Nat × Stream :=
      if x.1 = k then (x.1, { x.2 with buf := x.2.buf.drop 1 }) else x
    let h := p.eats.foldl (fun h e =>
      if e = 4 then { h with rxFull := false } else { h with streams := h.streams.map (drop e) }) h
    { h with pc := pc, xiv := false, walked := [], walkFaults := [], stepped := stepNow h }

/-- A value lands in its destination (R59). -/
def land (p : Pend) (h : Hart) : Hart :=
  let v := replyVal p
  let h := match p.dest with
    | .slices a n => putSlices a n v h
    | .none => h
    | .vec k => putVec k (BitVec.ofNat 512 v) h
    | .cap k => putCap k ⟨BitVec.ofNat 128 v, bitAt v 128⟩ h
    | .rx w => { h with rx := BitVec.ofNat 64 (v % 2 ^ w), rxFull := true }
    | .tx _ _ => h
  { h with
    hist := (h.hist ++ p.hist).eraseDups
    stat := if h.stat = .held p.id then .running else h.stat }

/-- A reply lands as a deposit in the hart where it is now due (R59, R81). -/
def depositReply (p : Pend) (s : State) : State :=
  let s := modHart p.route (fun h => land p (finishForm p h)) s
  let s := match p.dest with
    | .tx w dst => sendMsg p.route dst (replyVal p % 2 ^ w) s
    | _ => s
  let s := signalHart p.route .mailbox (signalHart p.route .regs s)
  dropPend p (modHart p.route (fun h => { h with work := h.work.filter fun i => i != p.id }) s)

end Sys2Proof.Machine
end

