-- ==== Sys2Proof/Machine/MemInstr.lean ====
section
/-! DEFINITION. Memory instructions (R174 to R183): loads, stores, full/empty forms, spill and fill, cell
commons, capability loads and stores. -/

namespace Sys2Proof.Machine

open Sys2Proof

/-! ### Shared parts -/

/-- Where a reply to an operand lands. -/
def opdDest (p : Pos) (o : Opd) (h : Hart) : Dest :=
  match o with
  | .byte sc x => destOf sc p x h
  | .gran g => .slices (8 * g.toNat) 8

/-- What an M form reads besides its data: the capability and the offset (R174). -/
def memNeeds (o : Opd) (prev c : Nat) (h : Hart) : List Need := [.cap c, opdNeed .B o prev h]

/-- A gate with so many request tags (R81). -/
def tagged (g : Gate) (n : Nat) : Gate := { g with tags := n }

/-- A form that is held expects the reply of its one request, and does what issuing does once it has been performed
(R180). -/
def expectForm (i : Instr) (needs : List Need) (dest : Dest) (shape : Shape) (ntags : Nat) (s : State) : Nat × State :=
  expectWith dest shape [none] ntags true (some (BitVec.ofNat 54 (npc i s.me))) (eatsOf needs) s

/-- The requests that a held store sends wait for one reply (R178). -/
def awaited (p : Nat) (l : List ReqSpec) : List ReqSpec :=
  (List.range l.length).filterMap fun i => (l[i]?).map fun q => { q with pend := some p, part := i }

/-- Bits of a run as changes of its words. -/
def runOps (b n v : Nat) : List MOp :=
  (List.range ((b + n - 1) / 64 - b / 64 + 1)).map fun i =>
    let w := b / 64 + i
    let lo := max b (64 * w)
    let hi := min (b + n) (64 * w + 64)
    wordWrite lo (hi - lo) (v / 2 ^ (lo - b))

/-- The lines of a run of n bits from bit b on. -/
def runLines (b n : Nat) : List Nat := (List.range ((b + n - 1) / 512 - b / 512 + 1)).map fun i => b / 512 + i

/-- A run of n bits of host memory in pieces of 64 bytes. -/
def hostPieces (n : Nat) : List Nat := List.range ((n + 511) / 512)

/-- The line requests that write a run over words and lines (R181). -/
def runWrites (a : Acc) (n v : Nat) (remote : Bool) : List ReqSpec :=
  match hostOf a.place with
  | some m =>
    (hostPieces n).map fun i =>
      ⟨.hostWrite m.pasid (hostByte m a.u + 64 * i) (BitVec.ofNat 512 (v / 2 ^ (512 * i)))
        (BitVec.ofNat 512 (2 ^ min 512 (n - 512 * i) - 1)), hostLine m.pasid (hostByte m a.u + 64 * i), none, 0, true, true, false, a.addr⟩
  | none =>
    let b := unitBit a.place a.fmt a.u
    (runLines b n).map fun l =>
      ⟨.write ((runOps b n v).filter fun o => (opWords o).any fun w => lineOf w == l), l, none, 0, true, true,
        remote, a.addr⟩

/-- The requests that read a run of n bits, from part 0 on. -/
def runReads (a : Acc) (n pend : Nat) : List ReqSpec :=
  match hostOf a.place with
  | some m =>
    (hostPieces n).map fun i =>
      ⟨.hostRead m.pasid (hostByte m a.u + 64 * i), hostLine m.pasid (hostByte m a.u + 64 * i), some pend, i, false, false,
        false, a.addr⟩
  | none =>
    let ls := runLines (unitBit a.place a.fmt a.u) n
    (List.range ls.length).filterMap fun i => (ls[i]?).map fun l =>
      ⟨.readLine l, l, some pend, i, false, false, false, a.addr⟩

/-- The bit offset of an access in the first line it reads; host memory is read from the access on. -/
def lineBit (a : Acc) : Nat :=
  match hostOf a.place with
    | some _ => 0
    | none => unitBit a.place a.fmt a.u % 512

/-- Does an access reach another tile's pan? -/
def isFar (h : Hart) (a : Acc) : Bool := (farPan h a.place).isSome

/-! ### Loads and stores -/

/-- `ld` (R176). -/
def opLoad (i : Instr) (o d : Opd) (c : Nat) (s : State) : State :=
  let bits := opdBits d
  let base := plainGate i (memNeeds o 0 c s.me) [opdTgt .A d s.me]
  access (fun a => tagged base (readParts a)) (getCap s.me c) (readOpd .B o 0 s.me).1 pR false false
    (fun _ => bits) (.run bits) base
    (fun a t =>
      let (p, t) := expect (opdDest .A d s.me) (readShape a bits) (readParts a) (readParts a) false t
      sendReqs (readSpecs a p 0) t) s

/-- `st` and `stc` (R177, R178): `hold` keeps the hart until the store has been applied. A stream element is stored at its
container's width (R48). -/
def opStore (i : Instr) (hold : Bool) (o x : Opd) (c : Nat) (s : State) : State :=
  let (v, bits) := readOpd .A x 0 s.me
  let prev := sameStrm x o
  let base := plainGate i (opdNeed .A x 0 s.me :: memNeeds o prev c s.me) []
  access (fun _ => base) (getCap s.me c) (readOpd .B o prev s.me).1 pW true true (fun _ => 0)
    (.run bits) base
    (fun a t =>
      let l := writeSpecs a bits v (isFar s.me a) true
      if hold && !inTxn s.me then
        let (p, t) := expect .none (.scalar 0 0 false) l.length 0 true t
        sendReqs (awaited p l) t
      else sendReqs l t) s

/-- `ldfe` and `ldff` (R179, R180). -/
def opLoadFull (i : Instr) (take : Bool) (o d : Opd) (c : Nat) (s : State) : State :=
  let bits := opdBits d
  let base := plainGate i (memNeeds o 0 c s.me) [opdTgt .A d s.me]
  accessHeld (fun _ => tagged base 1) (getCap s.me c) (readOpd .B o 0 s.me).1 (pR + pSync) false false
    (fun _ => bits) (.single bits) base
    (fun a t =>
      let (p, t) := expectForm i base.needs (opdDest .A d s.me) (readShape a bits) 1 t
      let w := unitBit a.place a.fmt a.u / 64
      sendReq ⟨.loadFull w take, lineOf w, some p, 0, take, false, false, a.addr⟩ t) s

/-- `stef` and `stff` (R179, R180). -/
def opStoreFull (i : Instr) (toEmpty : Bool) (o x : Opd) (c : Nat) (s : State) : State :=
  let (v, bits) := readOpd .A x 0 s.me
  let prev := sameStrm x o
  let base := plainGate i (opdNeed .A x 0 s.me :: memNeeds o prev c s.me) []
  accessHeld (fun _ => base) (getCap s.me c) (readOpd .B o prev s.me).1 (pW + pSync) true false
    (fun _ => bits) (.single bits) base
    (fun a t =>
      let (p, t) := expectForm i base.needs .none (.scalar 0 0 false) 0 t
      let b := unitBit a.place a.fmt a.u
      let val := storeVal a.fmt v (bits / 8) % 2 ^ bits * 2 ^ (b % 64)
      let mask := (2 ^ bits - 1) * 2 ^ (b % 64)
      sendReq ⟨.storeFull (b / 64) (BitVec.ofNat 64 val) (BitVec.ofNat 64 mask) toEmpty, lineOf (b / 64),
          some p, 0, true, false, false, a.addr⟩ t) s

/-! ### Spill and fill (R181) -/

/-- The requests that write n bits to the pieces of a run. -/
def pieceWrites (n v : Nat) (far : Bool) : List Acc → List ReqSpec
  | [] => []
  | a :: t =>
    let k := pieceBits a n
    runWrites a k v far ++ pieceWrites (n - k) (v / 2 ^ k) far t

/-- The requests that read n bits from the pieces of a run, from a part of the reply on. -/
def pieceReads (n pend part : Nat) : List Acc → List ReqSpec
  | [] => []
  | a :: t =>
    let k := pieceBits a n
    let l := (runReads a k pend).map fun q => { q with part := part + q.part }
    l ++ pieceReads (n - k) pend (part + l.length) t

/-- How the lines that these read make up the run: of each piece their number, where it starts in the first, and its
bits. -/
def pieceShape (n : Nat) : List Acc → List (Nat × Nat × Nat)
  | [] => []
  | a :: t =>
    let k := pieceBits a n
    ((runReads a k 0).length, lineBit a, k) :: pieceShape (n - k) t

/-- The words that these read. -/
def pieceWords (n : Nat) : List Acc → List Nat
  | [] => []
  | a :: t =>
    let k := pieceBits a n
    accWords a k ++ pieceWords (n - k) t

/-- `spill`: n slices from slice s0 on, two to a byte. -/
def opSpill (i : Instr) (n s0 c : Nat) (s : State) : State :=
  let bytes := (n + 1) / 2
  let v := readSlices s.me.slices s0 n
  let base := plainGate i [.cap c, .slices 1 0 s0 n] []
  access (fun _ => base) (getCap s.me c) 0 pW true true (fun _ => 0) (.bytes bytes) base
    (fun a t =>
      sendReqs (pieceWrites (8 * bytes) v (isFar s.me a) (piecesOf s.me (getCap s.me c) a true s a.n)) t) s

/-- `fill`. -/
def opFill (i : Instr) (n s0 c : Nat) (s : State) : State :=
  let bytes := (n + 1) / 2
  let base := plainGate i [.cap c] [.slices s0 n]
  let at_ (a : Acc) : List Acc := piecesOf s.me (getCap s.me c) a false s a.n
  accessBy (getCap s.me c) 0 pR false false (fun _ => 0) (.bytes bytes) base
    (fun a t =>
      match readFault s.me (pieceWords (8 * bytes) (at_ a)) t with
      | some e => cause e a.addr (countWords s.me (pieceWords (8 * bytes) (at_ a)) t)
      | none => issue (tagged base 1) (fun t =>
          let (p, t) := expect (.slices s0 n) (.bytes (pieceShape (8 * bytes) (at_ a)) n)
            (pieceReads (8 * bytes) 0 0 (at_ a)).length 1 false t
          sendReqs (pieceReads (8 * bytes) p 0 (at_ a)) t) t) s

/-! ### Cell commons (R182) -/

/-- The commons slices that a run of n from `off` on names hold a failed one (R287). -/
def commonsBad (c : Cell) (off n : Nat) : Bool :=
  (List.range n).any fun i => c.cbad.getLsbD ((off + i) % 256)

/-- The oldest `cmst` of a cell is applied (R69). -/
def applyCommons (c : Nat) (s : State) : State :=
  let v := getCell c s
  match v.stq with
  | [] => s
  | x :: t =>
    let whole : BitVec 256 := BitVec.ofNat 256 (ofBits (fun k => decide ((k + 256 - x.off % 256) % 256 < x.n)) 256)
    signalAll .completion (setCell c { v with
      commons := writeSlicesRaw v.commons x.off x.n x.val.toNat
      cbad := v.cbad &&& ~~~whole
      stq := t } s)

/-- A hart's own earlier `cmst`s are applied before it can issue again (R69, R72), and with them those before; `settled`
is the state in which the hart with the turn issues. -/
def settleCommons (n : Nat) : Nat → State → State
  | 0, s => s
  | k + 1, s =>
    if (getCell (cellOf n) s).stq.any fun x => x.src == n then settleCommons n k (applyCommons (cellOf n) s) else s

def settled (s : State) : State := settleCommons s.me.nm (getCell (cellOf s.me.nm) s).stq.length s

/-- `cmld`. -/
def opCmld (i : Instr) (sc : Scale) (o d : Byte) (s : State) : State :=
  let off := (readOp sc .B o 0 s.me).1 % 256
  let g := plainGate i [srcNeed sc .B o 0 s.me] [dstTgt sc .A d s.me]
  let s := settled s
  let cell := getCell (cellOf s.me.nm) s
  if (gate g s).isNone && commonsBad cell off (opSlices sc d) then cause (cErrReg 2) (wordNat i) s
  else issue g (writeOp sc .A d (readSlices cell.commons off (opSlices sc d))) s

/-- `cmst`: applied later, in the order of issue (R69). -/
def opCmst (i : Instr) (sc : Scale) (o x : Byte) (s : State) : State :=
  let prev := sameStream x o
  let off := (readOp sc .B o prev s.me).1 % 256
  let (v, bits) := readOp sc .A x 0 s.me
  issue (plainGate i [srcNeed sc .A x 0 s.me, srcNeed sc .B o prev s.me] [])
    (fun t =>
      let c := cellOf s.me.nm
      let cell := getCell c t
      setCell c { cell with stq := cell.stq ++ [⟨off, bits / 4, BitVec.ofNat 64 v, s.me.nm⟩] } t) s

/-! ### Capability loads and stores (R183) -/

/-- `ldcap`. -/
def opLdcap (i : Instr) (o : Byte) (k c : Nat) (s : State) : State :=
  let cap := getCap s.me c
  let base := plainGate i [.cap c, srcNeed .d .B o 0 s.me] [.cap k]
  access (fun _ => tagged base 1) cap (readOp .d .B o 0 s.me).1 pR false false (fun _ => 128) (.pair false) base
    (fun a t =>
      match hostOf a.place with
      | some m =>
        let (p, t) := expect (.cap k) (.scalar (lineBit a) 128 false) 1 1 false t
        sendReq ⟨.hostRead m.pasid (hostByte m a.u), hostLine m.pasid (hostByte m a.u), some p, 0, false, false, false,
          a.addr⟩ t
      | none =>
        let (p, t) := expect (.cap k) .pair 1 1 false t
        let w := unitBit a.place a.fmt a.u / 64
        sendReq ⟨.readPair w (hasPerm cap pLcap), lineOf w, some p, 0, false, false, false, a.addr⟩ t) s

/-- `stcap`: a tagged capability needs SCAP. -/
def opStcap (i : Instr) (o : Byte) (k c : Nat) (s : State) : State :=
  let v := getCap s.me k
  let base := plainGate i [.cap k, .cap c, srcNeed .d .B o 0 s.me] []
  access (fun _ => base) (getCap s.me c) (readOp .d .B o 0 s.me).1 (if v.tag then pW + pScap else pW) true true
    (fun _ => 0) (.pair v.tag) base
    (fun a t =>
      if (hostOf a.place).isSome then sendReqs (runWrites a 128 v.bits.toNat false) t
      else
        let w := unitBit a.place a.fmt a.u / 64
        sendReq ⟨.write [.pair w v.bits v.tag], lineOf w, none, 0, true, true, isFar s.me a, a.addr⟩ t) s

/-! ### One meaning for each instruction -/

/-- R176: Load, n-scale. -/
def execLdN (o : BitVec 8) (a : BitVec 8) (c : BitVec 4) (s : State) : Out :=
  .next (opLoad (.ldN o a c) (.byte .n o) (.byte .n a) c.toNat s)
/-- R177: Store, n-scale. -/
def execStN (o : BitVec 8) (a : BitVec 8) (c : BitVec 4) (s : State) : Out :=
  .next (opStore (.stN o a c) false (.byte .n o) (.byte .n a) c.toNat s)
/-- R178: Store and wait until applied, n-scale. -/
def execStcN (o : BitVec 8) (a : BitVec 8) (c : BitVec 4) (s : State) : Out :=
  .next (opStore (.stcN o a c) true (.byte .n o) (.byte .n a) c.toNat s)
/-- R179: Load a full word and leave it empty, n-scale. -/
def execLdfeN (o : BitVec 8) (a : BitVec 8) (c : BitVec 4) (s : State) : Out :=
  .next (opLoadFull (.ldfeN o a c) true (.byte .n o) (.byte .n a) c.toNat s)
/-- R179: Load a full word and leave it full, n-scale. -/
def execLdffN (o : BitVec 8) (a : BitVec 8) (c : BitVec 4) (s : State) : Out :=
  .next (opLoadFull (.ldffN o a c) false (.byte .n o) (.byte .n a) c.toNat s)
/-- R179: Store into an empty word, n-scale. -/
def execStefN (o : BitVec 8) (a : BitVec 8) (c : BitVec 4) (s : State) : Out :=
  .next (opStoreFull (.stefN o a c) true (.byte .n o) (.byte .n a) c.toNat s)
/-- R179: Store into a full word, n-scale. -/
def execStffN (o : BitVec 8) (a : BitVec 8) (c : BitVec 4) (s : State) : Out :=
  .next (opStoreFull (.stffN o a c) false (.byte .n o) (.byte .n a) c.toNat s)
/-- R182: Load from the commons of the cell, n-scale. -/
def execCmldN (o : BitVec 8) (a : BitVec 8) (s : State) : Out :=
  .next (opCmld (.cmldN o a) .n o a s)
/-- R182: Store to the commons of the cell, n-scale. -/
def execCmstN (o : BitVec 8) (a : BitVec 8) (s : State) : Out :=
  .next (opCmst (.cmstN o a) .n o a s)
/-- R176: Load, d-scale. -/
def execLdD (o : BitVec 8) (a : BitVec 8) (c : BitVec 4) (s : State) : Out :=
  .next (opLoad (.ldD o a c) (.byte .d o) (.byte .d a) c.toNat s)
/-- R177: Store, d-scale. -/
def execStD (o : BitVec 8) (a : BitVec 8) (c : BitVec 4) (s : State) : Out :=
  .next (opStore (.stD o a c) false (.byte .d o) (.byte .d a) c.toNat s)
/-- R178: Store and wait until applied, d-scale. -/
def execStcD (o : BitVec 8) (a : BitVec 8) (c : BitVec 4) (s : State) : Out :=
  .next (opStore (.stcD o a c) true (.byte .d o) (.byte .d a) c.toNat s)
/-- R179: Load a full word and leave it empty, d-scale. -/
def execLdfeD (o : BitVec 8) (a : BitVec 8) (c : BitVec 4) (s : State) : Out :=
  .next (opLoadFull (.ldfeD o a c) true (.byte .d o) (.byte .d a) c.toNat s)
/-- R179: Load a full word and leave it full, d-scale. -/
def execLdffD (o : BitVec 8) (a : BitVec 8) (c : BitVec 4) (s : State) : Out :=
  .next (opLoadFull (.ldffD o a c) false (.byte .d o) (.byte .d a) c.toNat s)
/-- R179: Store into an empty word, d-scale. -/
def execStefD (o : BitVec 8) (a : BitVec 8) (c : BitVec 4) (s : State) : Out :=
  .next (opStoreFull (.stefD o a c) true (.byte .d o) (.byte .d a) c.toNat s)
/-- R179: Store into a full word, d-scale. -/
def execStffD (o : BitVec 8) (a : BitVec 8) (c : BitVec 4) (s : State) : Out :=
  .next (opStoreFull (.stffD o a c) false (.byte .d o) (.byte .d a) c.toNat s)
/-- R182: Load from the commons of the cell, d-scale. -/
def execCmldD (o : BitVec 8) (a : BitVec 8) (s : State) : Out :=
  .next (opCmld (.cmldD o a) .d o a s)
/-- R182: Store to the commons of the cell, d-scale. -/
def execCmstD (o : BitVec 8) (a : BitVec 8) (s : State) : Out :=
  .next (opCmst (.cmstD o a) .d o a s)
/-- R143: 16-bit load through c1 or c2. -/
def execLdC (s : BitVec 1) (h : BitVec 5) (g : BitVec 5) (t : State) : Out :=
  .next (opLoad (.ldC s h g) (.gran h) (.gran g) (1 + s.toNat) t)
/-- R143: 16-bit store through c1 or c2. -/
def execStC (s : BitVec 1) (h : BitVec 5) (g : BitVec 5) (t : State) : Out :=
  .next (opStore (.stC s h g) false (.gran h) (.gran g) (1 + s.toNat) t)
/-- R181: Store a run of slices as bytes. -/
def execSpill (l : BitVec 8) (s : BitVec 8) (c : BitVec 4) (t : State) : Out :=
  .next (opSpill (.spill l s c) (l.toNat + 1) s.toNat c.toNat t)
/-- R181: Load bytes into a run of slices. -/
def execFill (l : BitVec 8) (s : BitVec 8) (c : BitVec 4) (t : State) : Out :=
  .next (opFill (.fill l s c) (l.toNat + 1) s.toNat c.toNat t)
/-- R183: Load a capability. -/
def execLdcap (o : BitVec 8) (k : BitVec 4) (c : BitVec 4) (s : State) : Out :=
  .next (opLdcap (.ldcap o k c) o k.toNat c.toNat s)
/-- R183: Store a capability. -/
def execStcap (o : BitVec 8) (k : BitVec 4) (c : BitVec 4) (s : State) : Out :=
  .next (opStcap (.stcap o k c) o k.toNat c.toNat s)

end Sys2Proof.Machine
end

