-- ==== Sys2Proof/Machine/Atomics.lean ====
section
/-! DEFINITION. Atomics and update logs (R184 to R190). -/

namespace Sys2Proof.Machine

open Sys2Proof

/-- The three permissions of an atomic (R184). -/
def pAmo : Nat := pR + pW + pAtom

/-- The bit address of a located run. -/
def accBit (a : Acc) : Nat := unitBit a.place a.fmt a.u

/-- The request of an atomic: a returning one has a reply, a posted one is unacknowledged (R184, R188). -/
def amoReq (a : Acc) (op : HomeOp) (pend : Option Nat) : ReqSpec :=
  ⟨op, accBit a / 512, pend, 0, true, pend.isNone, false, a.addr⟩

/-- The operation of an atomic on a located run. -/
def amoOn (op : AmoOp) (a : Acc) (bits x e : Nat) : HomeOp :=
  .amo op (accBit a / 64) (accBit a % 64) bits (BitVec.ofNat 64 x) (BitVec.ofNat 64 e)

/-- A returning atomic (R184): the old value lands in its data operand. `srcs` are the stretches it reads,
`x` and `e` its operands, `bits` the width of the value that returns. -/
def opAmo (i : Instr) (k : Kind) (bits : Nat) (srcs : List Need) (f : Acc → HomeOp) (o d : Byte) (c : Nat)
    (s : State) : State :=
  let base := plainGate i (srcs ++ memNeeds (.byte .d o) 0 c s.me) [dstTgt .d .A d s.me]
  access (fun _ => tagged base 1) (getCap s.me c) (readOp .d .B o 0 s.me).1 pAmo true false (fun _ => bits) k base
    (fun a t =>
      let (p, t) := expect (destOf .d .A d s.me) (.scalar 0 bits false) 1 1 false t
      sendReq (amoReq a (f a) (some p)) t) s

/-- The bits that a posted atomic reads in a pan, whose failed words it traps on (R287); in memory it reports them later
(R337). -/
def panBits (bits : Nat) (a : Acc) : Nat :=
  match a.place with
  | .pan _ => bits
  | .map _ => 0

/-- A data operand whose width the instruction does not admit, as a stream element can have it (R48, R184, R186;
log 92). -/
def badWidth (i : Instr) (g : Gate) (s : State) : State := (gate g s).getD (cause (cIllegal 2 0) (wordNat i) s)

/-- A posted atomic (R188): it reads A and returns nothing. -/
def opPost (i : Instr) (k : Kind) (bits : Nat) (f : Acc → HomeOp) (o x : Byte) (c : Nat) (s : State) : State :=
  let prev := sameStream x o
  let base := plainGate i (srcNeed .d .A x 0 s.me :: memNeeds (.byte .d o) prev c s.me) []
  access (fun _ => base) (getCap s.me c) (readOp .d .B o prev s.me).1 pAmo true false (panBits bits) k base
    (fun a t => sendReq (amoReq a (f a) none) t) s

/-- The atomics of R184 but for `amo.cas` and the exact additions. -/
def opAmoInt (i : Instr) (op : AmoOp) (o x : Byte) (c : Nat) (s : State) : State :=
  let bits := opBits .d x
  opAmo i (.atomic bits) bits [srcNeed .d .A x 0 s.me] (fun a => amoOn op a bits (readOp .d .A x 0 s.me).1 0)
    o x c s

/-- `amo.cas` (R185): the expected value stands in the slices that follow A. -/
def opAmoCas (i : Instr) (o x : Byte) (c : Nat) (s : State) : State :=
  let bits := opBits .d x
  let n := opSlices .d x
  let s0 := opFirst .A x s.me
  opAmo i (.atomic bits) bits [.slices 1 0 s0 n, .slices 1 0 (s0 + n) n]
    (fun a => amoOn .cas a bits (readSlices s.me.slices s0 n) (readSlices s.me.slices (s0 + n) n)) o x c s

/-- `amax.rst` (R187): A is not read. -/
def opAmaxRst (i : Instr) (o d : Byte) (c : Nat) (s : State) : State :=
  let bits := opBits .d d
  opAmo i (.atomic bits) bits [] (fun a => amoOn .maxrst a bits 0 0) o d c s

def opPostInt (i : Instr) (op : AmoOp) (o x : Byte) (c : Nat) (s : State) : State :=
  let (v, bits) := readOp .d .A x 0 s.me
  if bits = 32 ∨ bits = 64 then opPost i (.atomic bits) bits (fun a => amoOn op a bits v 0) o x c s
  else badWidth i (plainGate i [srcNeed .d .A x 0 s.me] []) s

/-- The addend that a code of a width stands for (R186). -/
def addendOf (f16 : Bool) (bits v : Nat) : FAdd :=
  if bits = 32 then faddOf (floatVal fp32 v)
  else if f16 then faddOf (floatVal fp16 v)
  else faddOf (floatVal bf16 v)

/-- The format in which `amo.fadd` returns: FP32 (0), BF16 (1), FP16 (2). -/
def faddRetOf (f16 : Bool) (bits : Nat) : Nat := if bits = 32 then 0 else if f16 then 2 else 1

/-- `amo.fadd` and `amo.fadd.f16` (R186). -/
def opFadd (i : Instr) (f16 : Bool) (o x : Byte) (c : Nat) (s : State) : State :=
  let bits := opBits .d x
  let t := addendOf f16 bits (readOp .d .A x 0 s.me).1
  opAmo i .fadd bits [srcNeed .d .A x 0 s.me] (fun a => .fadd (accBit a / 32) t (faddRetOf f16 bits)) o x c s

def opFaddPost (i : Instr) (f16 : Bool) (o x : Byte) (c : Nat) (s : State) : State :=
  let (v, bits) := readOp .d .A x 0 s.me
  if bits = 16 ∨ (bits = 32 ∧ f16 = false) then
    opPost i .fadd 32 (fun a => .fadd (accBit a / 32) (addendOf f16 bits v) (faddRetOf f16 bits)) o x c s
  else badWidth i (plainGate i [srcNeed .d .A x 0 s.me] []) s

/-- The context of a space by which `lmerge` and `publish` tell addresses apart: the tile of a pan, else
the key set of the hart's map. -/
def spaceOf (h : Hart) (a : Acc) (s : State) : Bool × Nat :=
  match a.place with
  | .pan t => (true, t)
  | .map _ => (false, keyFor h s)

/-- The kind of update that a target and a width determine (R189); none for a width that the format does
not admit. -/
def logKindOf (fmt bits : Nat) : Option LogKind :=
  if fmt = 57 then (if bits = 32 then some .fp32 else none)
  else if bits = 64 then some .int64
  else if fmt ≠ 1 ∧ bits = 32 then some .int32
  else none

/-- `lapp` (R189): outside a transaction it waits while the log of the home is full. -/
def opLapp (i : Instr) (o x : Byte) (c : Nat) (s : State) : State :=
  let prev := sameStream x o
  let (v, bits) := readOp .d .A x 0 s.me
  let base := plainGate i (srcNeed .d .A x 0 s.me :: memNeeds (.byte .d o) prev c s.me) []
  accessBy (getCap s.me c) (readOp .d .B o prev s.me).1 (pW + pAtom) true false (fun _ => 0) (.log bits) base
    (fun a t =>
      match logKindOf a.fmt bits with
      | none => cause (cIllegal 2 0) (wordNat i) t
      | some k =>
        if !inTxn s.me && logFull (accBit a / 512) t then waitOn [.logs] t
        else
          let sp := spaceOf s.me a s
          let e : LogEntry := ⟨accBit a / 8, k, BitVec.ofNat 64 v, s.me.nm, 0, sp.1, sp.2, a.addr, []⟩
          issue base (sendReq ⟨.lapp e, accBit a / 512, none, 0, true, true, false, a.addr⟩) t) s

/-- `lmerge` (R190): a block is named by its first unit, which is checked and translated as R40 says. -/
def opLmerge (i : Instr) (d : Byte) (c : Nat) (s : State) : State :=
  let cap := getCap s.me c
  let base : Gate := { plainGate i [.cap c] [dstTgt .d .A d s.me] with bars := true }
  accessHeld (fun _ => tagged base 1) cap 0 pAmo true false (fun _ => 0) .first base
    (fun a t =>
      let sp := spaceOf s.me a s
      let (p, t) := expectForm i base.needs (destOf .d .A d s.me) (.scalar 0 (opBits .d d) false) 1 t
      sendReq ⟨.lmerge sp.1 sp.2 (capDepth cap) (capPath cap), accBit a / 512, some p, 0, true, false, false, a.addr⟩ t) s

/-! ### One meaning for each instruction -/

/-- R184: Atomic add, returning. -/
def execAmoAdd (o : BitVec 8) (a : BitVec 8) (c : BitVec 4) (s : State) : Out :=
  .next (opAmoInt (.amoAdd o a c) .add o a c.toNat s)
/-- R188: Atomic add, posted. -/
def execAmoAddPost (o : BitVec 8) (a : BitVec 8) (c : BitVec 4) (s : State) : Out :=
  .next (opPostInt (.amoAddPost o a c) .add o a c.toNat s)
/-- R184: Atomic and, returning. -/
def execAmoAnd (o : BitVec 8) (a : BitVec 8) (c : BitVec 4) (s : State) : Out :=
  .next (opAmoInt (.amoAnd o a c) .and o a c.toNat s)
/-- R188: Atomic and, posted. -/
def execAmoAndPost (o : BitVec 8) (a : BitVec 8) (c : BitVec 4) (s : State) : Out :=
  .next (opPostInt (.amoAndPost o a c) .and o a c.toNat s)
/-- R184: Atomic or, returning. -/
def execAmoOr (o : BitVec 8) (a : BitVec 8) (c : BitVec 4) (s : State) : Out :=
  .next (opAmoInt (.amoOr o a c) .or o a c.toNat s)
/-- R188: Atomic or, posted. -/
def execAmoOrPost (o : BitVec 8) (a : BitVec 8) (c : BitVec 4) (s : State) : Out :=
  .next (opPostInt (.amoOrPost o a c) .or o a c.toNat s)
/-- R184: Atomic xor, returning. -/
def execAmoXor (o : BitVec 8) (a : BitVec 8) (c : BitVec 4) (s : State) : Out :=
  .next (opAmoInt (.amoXor o a c) .xor o a c.toNat s)
/-- R188: Atomic xor, posted. -/
def execAmoXorPost (o : BitVec 8) (a : BitVec 8) (c : BitVec 4) (s : State) : Out :=
  .next (opPostInt (.amoXorPost o a c) .xor o a c.toNat s)
/-- R184: Atomic min, returning. -/
def execAmoMin (o : BitVec 8) (a : BitVec 8) (c : BitVec 4) (s : State) : Out :=
  .next (opAmoInt (.amoMin o a c) .min o a c.toNat s)
/-- R188: Atomic min, posted. -/
def execAmoMinPost (o : BitVec 8) (a : BitVec 8) (c : BitVec 4) (s : State) : Out :=
  .next (opPostInt (.amoMinPost o a c) .min o a c.toNat s)
/-- R184: Atomic max, returning. -/
def execAmoMax (o : BitVec 8) (a : BitVec 8) (c : BitVec 4) (s : State) : Out :=
  .next (opAmoInt (.amoMax o a c) .max o a c.toNat s)
/-- R188: Atomic max, posted. -/
def execAmoMaxPost (o : BitVec 8) (a : BitVec 8) (c : BitVec 4) (s : State) : Out :=
  .next (opPostInt (.amoMaxPost o a c) .max o a c.toNat s)
/-- R184: Atomic swap, returning. -/
def execAmoSwap (o : BitVec 8) (a : BitVec 8) (c : BitVec 4) (s : State) : Out :=
  .next (opAmoInt (.amoSwap o a c) .swap o a c.toNat s)
/-- R188: Atomic swap, posted. -/
def execAmoSwapPost (o : BitVec 8) (a : BitVec 8) (c : BitVec 4) (s : State) : Out :=
  .next (opPostInt (.amoSwapPost o a c) .swap o a c.toNat s)
/-- R185: Atomic compare and swap. -/
def execAmoCas (o : BitVec 8) (a : BitVec 8) (c : BitVec 4) (s : State) : Out :=
  .next (opAmoCas (.amoCas o a c) o a c.toNat s)
/-- R187: Return a word and reset it to zero. -/
def execAmaxRst (o : BitVec 8) (a : BitVec 8) (c : BitVec 4) (s : State) : Out :=
  .next (opAmaxRst (.amaxRst o a c) o a c.toNat s)
/-- R186: Exact addition of an FP32 or BF16 addend, returning. -/
def execAmoFadd (o : BitVec 8) (a : BitVec 8) (c : BitVec 4) (s : State) : Out :=
  .next (opFadd (.amoFadd o a c) false o a c.toNat s)
/-- R186: Exact addition of an FP16 addend, returning. -/
def execAmoFaddF16 (o : BitVec 8) (a : BitVec 8) (c : BitVec 4) (s : State) : Out :=
  .next (opFadd (.amoFaddF16 o a c) true o a c.toNat s)
/-- R188: Exact addition of an FP32 or BF16 addend, posted. -/
def execAmoFaddPost (o : BitVec 8) (a : BitVec 8) (c : BitVec 4) (s : State) : Out :=
  .next (opFaddPost (.amoFaddPost o a c) false o a c.toNat s)
/-- R188: Exact addition of an FP16 addend, posted. -/
def execAmoFaddF16Post (o : BitVec 8) (a : BitVec 8) (c : BitVec 4) (s : State) : Out :=
  .next (opFaddPost (.amoFaddF16Post o a c) true o a c.toNat s)
/-- R189: Append an update to the log of a word. -/
def execLapp (o : BitVec 8) (a : BitVec 8) (c : BitVec 4) (s : State) : Out :=
  .next (opLapp (.lapp o a c) o a c.toNat s)
/-- R190: Apply the logged updates of a block. -/
def execLmerge (d : BitVec 8) (c : BitVec 4) (s : State) : Out :=
  .next (opLmerge (.lmerge d c) d c.toNat s)

end Sys2Proof.Machine
end

