-- ==== Sys2Proof/Machine/Flags.lean ====
section
/-! DEFINITION. The status words that software reads: HSTATUS and FWSTATUS (R282) and the transaction
status word (R123). The machine has no arithmetic flags. -/

namespace Sys2Proof.Machine

open Sys2Proof

/-- Mode codes (R279). -/
def modeCode : Mode → Nat
  | .user => 0
  | .kernel => 1
  | .firmware => 3

/-- The mode of a code; code 2 is not a mode. -/
def modeOf (n : Nat) : Option Mode :=
  match n with
  | 0 => some .user
  | 1 => some .kernel
  | 3 => some .firmware
  | _ => none

/-- The status word of a bank (R282). -/
def statusWord (b : TrapBank) (m : Mode) : Nat :=
  bit b.pxiv * 2 ^ 12 + bit b.pwait * 2 ^ 11 + bit b.pie * 2 ^ 10 + bit b.ie * 2 ^ 9 +
    bit b.ss * 2 ^ 8 + modeCode b.pmode * 2 ^ 6 + modeCode m * 2 ^ 4

/-- A written PMODE above the bank's mode, or 2, is ignored (R282). -/
def newPmode (old bank : Mode) (n : Nat) : Mode :=
  match modeOf n with
  | some m => if modeCode m ≤ modeCode bank then m else old
  | none => old

/-- A bank after a write of its status word: the RO fields keep their values. -/
def putStatus (bank : Mode) (v : Nat) (b : TrapBank) : TrapBank :=
  { b with
    pxiv := bitAt v 12
    pie := bitAt v 10
    ie := bitAt v 9
    ss := bitAt v 8
    pmode := newPmode b.pmode bank (field v 6 2) }

/-- The transaction status word (R123). -/
def txnWord (t : Txn) : Nat :=
  t.detail % 2 ^ 10 * 2 ^ 22 + t.depth % 16 * 2 ^ 18 + bit t.woken * 2 ^ 17 +
    bit t.alt.isSome * 2 ^ 16 + t.status % 16

end Sys2Proof.Machine
end

