-- ==== Sys2Proof/Machine/Csr.lean ====
section
/-! DEFINITION. Control and status registers (R60, R77, R84, R171 to R173, R280 to R283, R290, R291). -/

namespace Sys2Proof.Machine

open Sys2Proof

/-- The width of a register in bits (R281). -/
def csrWidth (n : Nat) : Nat :=
  if n = 0x12 ∨ n = 0x13 then 64
  else if n < 0x100 then 32
  else match n with
    | 0x100 => 32
    | 0x101 => 32
    | 0x106 => 32
    | 0x107 => 32
    | 0x108 => 32
    | 0x200 => 32
    | 0x201 => 32
    | 0x206 => 32
    | _ => 64

/-- The lowest mode that may use a register is no higher than the hart's (R280). -/
def csrAllowed (n : Nat) (h : Hart) : Bool :=
  match n / 256 with
  | 0 => true
  | 1 => h.mode != .user
  | _ => h.mode == .firmware

/-- The sets of a cell (R77). -/
def csrSets (c : Nat) : Nat := if isGeneral c then 0x13 else if c = 16 then 0x05 else 0x09

/-- Time passes by a free amount before it is observed (log 5): on the time base and on the cell clock. -/
def elapse (s : State) : State :=
  { s with
    time := s.time + Config.elapsed s.free
    cycle := s.cycle + Config.elapsed (s.free + 1)
    free := s.free + 2 }

/-- Registers whose value moves with time. -/
def csrTimed (n : Nat) : Bool := n == 0x12 || n == 0x13 || n == 0x107

/-- HIP: bit 1 is 1 while TIME is at least HTCMP (R290). -/
def hipWord (h : Hart) (time : Nat) : Nat :=
  (h.hip.toNat &&& 0xD) + bit (decide (h.htcmp.toNat ≤ time)) * 2

/-- The value of a register. -/
def csrGet (n : Nat) (s : State) : Nat :=
  let h := s.me
  match n with
  | 0x000 => h.xw.toNat
  | 0x001 => h.xi.toNat
  | 0x002 => h.xe.toNat
  | 0x003 => h.xt.toNat
  | 0x004 => getXm h 0
  | 0x005 => getXm h 1
  | 0x006 => getXm h 2
  | 0x007 => getXm h 3
  | 0x010 => h.hwaitlim.toNat
  | 0x011 => csrSets (cellNo h.nm)
  | 0x012 => s.cycle % 2 ^ 64
  | 0x013 => s.time % 2 ^ 64
  | 0x100 => statusWord h.hb h.mode
  | 0x101 => h.hb.cause.toNat
  | 0x102 => h.hb.epc.toNat
  | 0x103 => h.hb.tval.toNat
  | 0x104 => h.hb.base.toNat * 2 ^ 10
  | 0x105 => h.hb.scratch.toNat
  | 0x106 => h.hie.toNat
  | 0x107 => hipWord h s.time
  | 0x108 => h.hipi.toNat
  | 0x109 => h.htcmp.toNat
  | 0x10A => (getCell (cellOf h.nm) s).hamvec.toNat
  | 0x200 => statusWord h.fb h.mode
  | 0x201 => h.fb.cause.toNat
  | 0x202 => h.fb.epc.toNat
  | 0x203 => h.fb.tval.toNat
  | 0x204 => h.fb.base.toNat * 2 ^ 10
  | 0x205 => h.fb.scratch.toNat
  | 0x206 => h.fwdeleg.toNat
  | 0x207 => (getDie (dieOf h.nm) s).boot.toNat
  | _ => 0

/-- A written bank field: 1 cause, 2 EPC, 3 TVAL, 4 TVEC, 5 SCRATCH (R282). -/
def putBank (k v : Nat) (b : TrapBank) : TrapBank :=
  match k with
  | 1 => { b with cause := BitVec.ofNat 10 v }
  | 2 => { b with epc := BitVec.ofNat 54 (clearLow v 1) }
  | 3 => { b with tval := BitVec.ofNat 64 v }
  | 4 => { b with base := BitVec.ofNat 44 (field v 10 44) }
  | 5 => { b with scratch := BitVec.ofNat 64 v }
  | _ => b

/-- Send an interrupt as a write of HIPI asks (R291): KIND 0 sets SOFT, 2 sets PREEMPT. -/
def sendIpi (v : Nat) (s : State) : State :=
  let kind := field v 24 3
  if kind = 0 ∨ kind = 2 then
    let (i, s) := freshId s
    let (stamp, s) := sealFrom (tileOf s.me.nm) (some (tileOf (field v 0 22))) (keyFor s.me s) s
    let m : Ipi := ⟨i, s.me.nm, field v 0 22, kind, tileOf s.me.nm, allHist s.me s, stamp⟩
    modMe (fun h => { h with unacked := h.unacked + 1 }) { s with ipis := s.ipis ++ [m] }
  else s

/-- Set descriptor register k. -/
def putXm (k v : Nat) (h : Hart) : Hart := { h with xm := setNth h.xm k (BitVec.ofNat 32 v) }

/-- Write a register (R8, R9): RO and Reserved fields keep their values. -/
def csrPut (n v : Nat) (s : State) : State :=
  let m (f : Hart → Hart) : State := modMe f s
  match n with
  | 0x000 => m fun h => { h with xw := BitVec.ofNat 32 (v % 2 ^ 24) }
  | 0x001 => m fun h => { h with xi := BitVec.ofNat 32 v, xiv := true }
  | 0x002 => m fun h => { h with xe := BitVec.ofNat 32 (v % 2 ^ 5) }
  | 0x003 => m fun h => { h with xt := BitVec.ofNat 32 (v % 2 ^ 22) }
  | 0x004 => m (putXm 0 v)
  | 0x005 => m (putXm 1 v)
  | 0x006 => m (putXm 2 v)
  | 0x007 => m (putXm 3 v)
  | 0x010 => m fun h => { h with hwaitlim := BitVec.ofNat 32 v }
  | 0x100 => m fun h => { h with hb := putStatus .kernel v h.hb }
  | 0x101 => m fun h => { h with hb := putBank 1 v h.hb }
  | 0x102 => m fun h => { h with hb := putBank 2 v h.hb }
  | 0x103 => m fun h => { h with hb := putBank 3 v h.hb }
  | 0x104 => m fun h => { h with hb := putBank 4 v h.hb }
  | 0x105 => m fun h => { h with hb := putBank 5 v h.hb }
  | 0x106 => m fun h => { h with hie := BitVec.ofNat 4 v }
  | 0x107 => m fun h => { h with hip := h.hip &&& ~~~BitVec.ofNat 4 (v &&& 0xD) }
  | 0x108 => sendIpi v (m fun h => { h with hipi := BitVec.ofNat 32 (v &&& 0x073FFFFF) })
  | 0x109 => m fun h => { h with htcmp := BitVec.ofNat 64 v }
  | 0x10A =>
    let c := cellOf s.me.nm
    setCell c { getCell c s with hamvec := BitVec.ofNat 64 v } s
  | 0x200 => m fun h => { h with fb := putStatus .firmware v h.fb }
  | 0x201 => m fun h => { h with fb := putBank 1 v h.fb }
  | 0x202 => m fun h => { h with fb := putBank 2 v h.fb }
  | 0x203 => m fun h => { h with fb := putBank 3 v h.fb }
  | 0x204 => m fun h => { h with fb := putBank 4 v h.fb }
  | 0x205 => m fun h => { h with fb := putBank 5 v h.fb }
  | 0x206 => m fun h => { h with fwdeleg := BitVec.ofNat 16 v }
  | _ => s

/-- A write of HIPI that may not send: the cause and its value (R65, R291). -/
def ipiFault (n v : Nat) (s : State) : Option (Cause × Nat) :=
  let kind := field v 24 3
  let t := field v 0 22
  if n = 0x108 ∧ (kind = 0 ∨ kind = 2) then
    if !nameExists t then some (cMsgName, t)
    else if !tileReach s.me (tileOf t) s then some (cHartTarget 3, t)
    else none
  else none

/-- The gate of a CSR instruction (R121, R280). -/
def csrGate (i : Instr) (n : Nat) (writes : Bool) (needs : List Need) (tgts : List Tgt) (s : State) :
    Gate :=
  ⟨i, .B, writes && decide (7 < n), csrAllowed n s.me, needs, tgts, 0⟩

/-- `csrr` (R171, R173). -/
def opCsrr (i : Instr) (n : Nat) (d : Byte) (s : State) : State :=
  issue (csrGate i n false [] [dstTgt .d .D d s.me] s)
    (fun t =>
      let t := if csrTimed n then elapse t else t
      writeOp .d .D d (csrGet n t) t) s

/-- `csrw`, `csrs`, `csrc` (R171): `f` makes the written value from the old one and the operand. -/
def opCsrw (i : Instr) (f : Nat → Nat → Nat → Nat) (n : Nat) (d : Byte) (s : State) : State :=
  let w := csrWidth n
  let x := readOp .d .D d 0 s.me
  let v := f w (csrGet n s) (x.1 % 2 ^ w)
  let g := csrGate i n true [srcNeed .d .D d 0 s.me] [] s
  match (if (gate g s).isNone then ipiFault n v s else none) with
  | some (c, t) => cause c t s
  | none => issue g (csrPut n v) s

/-- R171: Read a control and status register. -/
def execCsrr (n : BitVec 12) (d : BitVec 8) (s : State) : Out :=
  .next (opCsrr (.csrr n d) n.toNat d s)
/-- R171: Write a control and status register. -/
def execCsrw (n : BitVec 12) (d : BitVec 8) (s : State) : Out :=
  .next (opCsrw (.csrw n d) (fun _ _ x => x) n.toNat d s)
/-- R171: Set bits of a control and status register. -/
def execCsrs (n : BitVec 12) (d : BitVec 8) (s : State) : Out :=
  .next (opCsrw (.csrs n d) (fun _ o x => o ||| x) n.toNat d s)
/-- R171: Clear bits of a control and status register. -/
def execCsrc (n : BitVec 12) (d : BitVec 8) (s : State) : Out :=
  .next (opCsrw (.csrc n d) (fun w o x => o &&& (2 ^ w - 1 - x)) n.toNat d s)

end Sys2Proof.Machine
end

