-- ==== Sys2Proof/Machine/Control.lean ====
section
/-! DEFINITION. Branches, jumps and windows (R164 to R170). -/

namespace Sys2Proof.Machine

open Sys2Proof

/-- The target of an offset in halfwords (R135). -/
def target (pc : Addr) (off : Int) : Addr := BitVec.ofNat 54 (wrap ((pc.toNat : Int) + 2 * off) 54)

/-- Control goes to an address. -/
def goto (a : Addr) (s : State) : State := modMe (fun h => { h with pc := a }) s

/-- Control goes to an address if a condition holds. -/
def gotoIf (b : Bool) (a : Addr) (s : State) : State := if b then goto a s else s

/-- `bz` and `bnz` (R164). -/
def opBz (i : Instr) (onZero : Bool) (off : Int) (d : Opd) (s : State) : State :=
  let x := readOpd .D d 0 s.me
  issue (plainGate i [opdNeed .D d 0 s.me] []) (gotoIf ((x.1 == 0) == onZero) (target s.me.pc off)) s

/-- `dbnz` (R164). -/
def opDbnz (i : Instr) (off : Int) (d : Opd) (s : State) : State :=
  let w := opdBits d
  let x := readOpd .D d 0 s.me
  let v := (x.1 + 2 ^ w - 1) % 2 ^ w
  issue (plainGate i [opdNeed .D d 0 s.me] [opdTgt .D d s.me])
    (fun t => gotoIf (v != 0) (target s.me.pc off) (writeOpd .D d v t)) s

/-- Two-operand branches (R165). -/
def opBranch (i : Instr) (k : Cond) (c : Cls) (b a : Byte) (off : BitVec 8) (s : State) : State :=
  let x := readOp .d .A a 0 s.me
  let y := readOp .d .B b (sameStream a b) s.me
  issue (plainGate i [srcNeed .d .A a 0 s.me, srcNeed .d .B b (sameStream a b) s.me] [])
    (gotoIf (holds k c x y) (target s.me.pc off.toInt)) s

/-- `j` and `j.c` (R166). -/
def opJump (i : Instr) (off : Int) (s : State) : State :=
  issue (plainGate i [] []) (goto (target s.me.pc off)) s

/-- `jal` (R166). -/
def opJal (i : Instr) (off : BitVec 16) (d : Byte) (s : State) : State :=
  issue (plainGate i [] [dstTgt .d .D d s.me])
    (fun t => goto (target s.me.pc off.toInt) (writeOp .d .D d (npc i s.me) t)) s

/-- `jr` and `ret` (R167): an odd target traps before the link is written, and before a link to tx checks its name. -/
def opJr (i : Instr) (a d : Byte) (s : State) : State :=
  let x := readOp .d .A a 0 s.me
  let t := x.1 % 2 ^ 54
  let g := plainGate i [srcNeed .d .A a 0 s.me] [dstTgt .d .D d s.me]
  let early := { g with bars := g.tgts.contains .tx, tgts := g.tgts.filter fun x => x != .tx }
  if t % 2 == 1 && (gate early s).isNone then cause (cInstAlign 1) t s
  else issue g (fun u => goto (BitVec.ofNat 54 t) (writeOp .d .D d (npc i s.me) u)) s

/-- `win` (R169). -/
def opWin (i : Instr) (b a d : BitVec 8) (s : State) : State :=
  issue (plainGate i [] []) (modMe fun h => { h with xw := (0#8 ++ b ++ a ++ d : BitVec 32) }) s

/-- R164: Branch if D is zero, n-scale. -/
def execBzN (o : BitVec 14) (d : BitVec 8) (s : State) : Out :=
  .next (opBz (.bzN o d) true o.toInt (.byte .n d) s)
/-- R164: Branch if D is nonzero, n-scale. -/
def execBnzN (o : BitVec 14) (d : BitVec 8) (s : State) : Out :=
  .next (opBz (.bnzN o d) false o.toInt (.byte .n d) s)
/-- R164: Decrement D and branch if nonzero, n-scale. -/
def execDbnzN (o : BitVec 14) (d : BitVec 8) (s : State) : Out :=
  .next (opDbnz (.dbnzN o d) o.toInt (.byte .n d) s)
/-- R164: Branch if D is zero, d-scale. -/
def execBzD (o : BitVec 14) (d : BitVec 8) (s : State) : Out :=
  .next (opBz (.bzD o d) true o.toInt (.byte .d d) s)
/-- R164: Branch if D is nonzero, d-scale. -/
def execBnzD (o : BitVec 14) (d : BitVec 8) (s : State) : Out :=
  .next (opBz (.bnzD o d) false o.toInt (.byte .d d) s)
/-- R164: Decrement D and branch if nonzero, d-scale. -/
def execDbnzD (o : BitVec 14) (d : BitVec 8) (s : State) : Out :=
  .next (opDbnz (.dbnzD o d) o.toInt (.byte .d d) s)
/-- R165: Branch if A equals B. -/
def execBEq (b : BitVec 8) (a : BitVec 8) (o : BitVec 8) (s : State) : Out :=
  .next (opBranch (.bEq b a o) .eq .S b a o s)
/-- R165: Branch if A differs from B. -/
def execBNe (b : BitVec 8) (a : BitVec 8) (o : BitVec 8) (s : State) : Out :=
  .next (opBranch (.bNe b a o) .ne .S b a o s)
/-- R165: Branch if A < B, signed. -/
def execBLt (b : BitVec 8) (a : BitVec 8) (o : BitVec 8) (s : State) : Out :=
  .next (opBranch (.bLt b a o) .lt .S b a o s)
/-- R165: Branch if A >= B, signed. -/
def execBGe (b : BitVec 8) (a : BitVec 8) (o : BitVec 8) (s : State) : Out :=
  .next (opBranch (.bGe b a o) .ge .S b a o s)
/-- R165: Branch if A < B, unsigned. -/
def execBLtu (b : BitVec 8) (a : BitVec 8) (o : BitVec 8) (s : State) : Out :=
  .next (opBranch (.bLtu b a o) .lt .Z b a o s)
/-- R165: Branch if A >= B, unsigned. -/
def execBGeu (b : BitVec 8) (a : BitVec 8) (o : BitVec 8) (s : State) : Out :=
  .next (opBranch (.bGeu b a o) .ge .Z b a o s)
/-- R166: Jump by a 24-bit halfword offset. -/
def execJump (o : BitVec 24) (s : State) : Out :=
  .next (opJump (.jump o) o.toInt s)
/-- R166: Jump and link NPC into D. -/
def execJal (o : BitVec 16) (d : BitVec 8) (s : State) : Out :=
  .next (opJal (.jal o d) o d s)
/-- R167: Jump to the address in A, linking NPC into D. -/
def execJr (a : BitVec 8) (d : BitVec 8) (s : State) : Out :=
  .next (opJr (.jr a d) a d s)
/-- R167: Return: jr with the link zr. -/
def execRet (a : BitVec 8) (s : State) : Out :=
  .next (opJr (.ret a) a 0x38 s)
/-- R169: Set the window bases of xw. -/
def execWin (b : BitVec 8) (a : BitVec 8) (d : BitVec 8) (s : State) : Out :=
  .next (opWin (.win b a d) b a d s)
/-- R143: 16-bit branch if a granule is zero. -/
def execBzC (o : BitVec 6) (g : BitVec 5) (s : State) : Out :=
  .next (opBz (.bzC o g) true o.toInt (.gran g) s)
/-- R143: 16-bit branch if a granule is nonzero. -/
def execBnzC (o : BitVec 6) (g : BitVec 5) (s : State) : Out :=
  .next (opBz (.bnzC o g) false o.toInt (.gran g) s)
/-- R143: 16-bit jump. -/
def execJC (o : BitVec 11) (s : State) : Out :=
  .next (opJump (.jC o) o.toInt s)

end Sys2Proof.Machine
end

