-- ==== Sys2Proof/Machine/TxnInstr.lean ====
section
/-! DEFINITION. Transaction instructions (R116 to R123, R191, R192). -/

namespace Sys2Proof.Machine

open Sys2Proof

/-- The transaction of a hart opens (R117, R191): a fresh number, and a begin time that an abort with CONFLICT
hands on. -/
def Txn.opened (id time : Nat) (abortPc beginPc : Addr) (t : Txn) : Txn where
  id := id
  depth := 1
  status := 0
  detail := 0
  abortPc := abortPc
  beginPc := beginPc
  beginTime := if t.reuse then t.beginTime else time
  reuse := false
  reads := []
  stale := []
  buf := []
  alt := Option.none
  mark := 0
  gen := 1
  woken := false
  doom := Option.none

/-- `tbegin` (R116, R120, R191). -/
def opTbegin (i : Instr) (off : BitVec 16) (s : State) : State :=
  let pc := s.me.pc
  issue (plainGate i [] []) (fun t =>
    if t.me.txn.depth = 0 then
      let (n, t) := freshId (elapse t)
      modMe (fun h => { h with
        txn := h.txn.opened n t.time (target pc off.toInt) pc
        epoch := h.epoch + 1 }) t
    else if t.me.txn.depth < 15 then
      modMe (fun h => { h with txn := { h.txn with depth := h.txn.depth + 1 } }) t
    else abortMe stNest 0 t) s

/-- `orelse` (R119): the alternative and the mark. -/
def opOrelse (i : Instr) (off : BitVec 16) (s : State) : State :=
  if inTxn s.me then
    issue (plainGate i [] []) (modMe fun h => { h with
      txn := { h.txn with
        alt := some (target s.me.pc off.toInt)
        mark := h.txn.gen
        gen := h.txn.gen + 1 } }) s
  else cause cTxnState 0 s

/-- `tend` (R118, R120, R192): at depth 1 the hart waits for its commit; a task body has no `tbegin` to end. -/
def opTend (i : Instr) (s : State) : State :=
  if s.me.txn.depth = 0 ∨ (s.me.task.isSome = true ∧ s.me.txn.depth = 1) then cause cTxnState 0 s
  else
    issue (plainGate i [] []) (modMe fun h =>
      if h.txn.depth = 1 then { h with stat := .committing }
      else { h with txn := { h.txn with depth := h.txn.depth - 1 } }) s

/-- `retry` (R119, R192). -/
def opRetry (i : Instr) (s : State) : State :=
  if inTxn s.me then issue (plainGate i [] []) (fun t => retryAt t.me.nm t) s
  else cause cTxnState 0 s

/-- `tabort` (R191, R192): the low 8 bits of the immediate of R61 are those of the word. -/
def opTabort (i : Instr) (code : BitVec 8) (s : State) : State :=
  issue (plainGate i [] []) (fun t => if inTxn t.me then abortMe stExplicit code.toNat t else t) s

/-- `tstat` (R123, R191). -/
def opTstat (i : Instr) (d : Byte) (s : State) : State :=
  issue (plainGate i [] [dstTgt .d .D d s.me]) (writeOp .d .D d (txnWord s.me.txn)) s

/-- R191: Begin a transaction with an abort target. -/
def execTbegin (o : BitVec 16) (s : State) : Out := .next (opTbegin (.tbegin o) o s)
/-- R191: Set the alternative target. -/
def execOrelse (o : BitVec 16) (s : State) : Out := .next (opOrelse (.orelse o) o s)
/-- R191: End a transaction. -/
def execTend (s : State) : Out := .next (opTend .tend s)
/-- R191: Retry a transaction. -/
def execRetry (s : State) : Out := .next (opRetry .retry s)
/-- R191: Abort a transaction with a code. -/
def execTabort (i : BitVec 8) (s : State) : Out := .next (opTabort (.tabort i) i s)
/-- R191: Read the transaction status word. -/
def execTstat (d : BitVec 8) (s : State) : Out := .next (opTstat (.tstat d) d s)
/-- R143: 16-bit `tend`. -/
def execTendC (s : State) : Out := .next (opTend .tendC s)
/-- R143: 16-bit `retry`. -/
def execRetryC (s : State) : Out := .next (opRetry .retryC s)

end Sys2Proof.Machine
end

