-- ==== Sys2Proof/Machine/HartInstr.lean ====
section
/-! DEFINITION. Harts, tasks, active messages, spans and streams (R73, R74, R79, R193 to R200). -/

namespace Sys2Proof.Machine

open Sys2Proof

/-! ### Target words (R193) -/

/-- The slot that a target word claims: of a cell, a tile or a sector (R73). -/
def claimSlot (h : Hart) (v : Nat) (s : State) : Option Nat :=
  match field v 22 2 with
  | 0 => freeSlot (cellOf (field v 0 22)) s
  | 1 => freeInTile (tileOf (field v 0 22)) s
  | _ => freeInSector h (sectorOf (field v 0 22)) s

/-- A target word that traps with HART.TARGET (R193). -/
def badTarget (h : Hart) (v maxLevel : Nat) (s : State) : Bool :=
  let n := field v 0 22
  v / 2 ^ 24 != 0 || decide (maxLevel < field v 22 2) || (field v 22 2 == 0 && decide (18 ≤ cellNo n)) ||
    (if field v 22 2 = 2 then !sectorReach h (sectorOf n) s else !tileReach h (tileOf n) s)

/-- The occupancy word of a target word. -/
def targetOcc (v : Nat) : Loc :=
  let n := field v 0 22
  match field v 22 2 with
  | 0 => .occ 0 (cellOf n)
  | 1 => .occ 1 (tileOf n)
  | _ => .occ 2 (sectorOf n)

/-! ### New harts (R73) -/

/-- The trap bank that a new hart gets from its maker's: vector base and IE. -/
def TrapBank.heir (b : TrapBank) : TrapBank := { TrapBank.init b.base with ie := b.ie }

/-- The start state of R73 in a slot, with what a new hart takes over from the hart that makes it; its
granules hold a number, low word in granule 0. -/
def Hart.child (p : Hart) (n : Nat) (pc granules : Nat) (caps : List Cap) (cbad : BitVec 16) : Hart :=
  { Hart.blank (BitVec.ofNat 22 n) (BitVec.ofNat 54 pc) p.mode with
    slices := BitVec.ofNat 1024 granules
    c := caps
    cbad := cbad
    hwaitlim := p.hwaitlim
    hb := p.hb.heir
    fb := p.fb.heir
    fwdeleg := p.fwdeleg
    hie := p.hie
    hist := p.hist }

/-- A hart becomes present in its slot. -/
def placeHart (h : Hart) (s : State) : State :=
  { s with harts := (s.harts.filter fun x => present x || x.name != h.name) ++ [h] }

/-- A part of a reply is known. -/
def answerPart (p part v : Nat) (s : State) : State :=
  { s with pends := s.pends.map fun q =>
      if q.id = p then { q with parts := setNth q.parts part (some (BitVec.ofNat 520 v)) } else q }

/-- `hspawn` (R194): a bad target comes before an odd PC (log 108). Its request, and the reply, are sealed if they leave the
tile (R334). -/
def opHspawn (i : Instr) (b a d : Byte) (s : State) : State :=
  let v := (readOp .d .A a 0 s.me).1
  let pc := (readOp .d .B b (sameStream a b) s.me).1 % 2 ^ 54
  let arg := (readOp .d .D d 0 s.me).1
  let g : Gate := { plainGate i
    [srcNeed .d .A a 0 s.me, srcNeed .d .B b (sameStream a b) s.me, srcNeed .d .D d 0 s.me]
    [dstTgt .d .D d s.me] with bars := true, tags := 1 }
  match gate g s with
  | some s' => s'
  | none =>
    if badTarget s.me v 2 s then cause (cHartTarget 1) v s
    else if pc % 2 = 1 then cause (cInstAlign 2) pc s
    else match claimSlot s.me v s with
      | none => waitOn [targetOcc v] s
      | some n =>
        let kid := { s.me.child n pc arg s.me.c s.me.cbad with hist := allHist s.me s }
        let t := (expectWith (destOf .d .D d s.me) (.scalar 0 64 false) [some (BitVec.ofNat 520 n)] 1 true none []
          (advance g s)).2
        let (stamp, t) := sealFrom (tileOf s.me.nm) (some (tileOf n)) (keyFor s.me s) t
        placeHart kid (answerSeal (tileIface (tileOf n)) stamp t)

/-- The answer of a handler leaves for the sender of its message (R198, R334). -/
def sealAnswer (p : Nat) (s : State) : State :=
  match s.pends.find? fun q => q.id == p with
  | some q => sealTo (tileOf s.me.nm) (tileOf q.origin) (keyFor s.me s) s
  | none => s

/-- `hexit` (R74, R125, R195, R198): a task body ends, and a handler's granules 0 and 1 return to the sender
of its message. -/
def opHexit (i : Instr) (s : State) : State :=
  let body := s.me.task.isSome && s.me.txn.depth == 1
  let g : Gate := { plainGate i (if s.me.handles.isSome then [.slices 7 31 0 16] else []) [] with
    bars := !body }
  issue g (fun t =>
    if body then modMe (fun h => { h with
      stat := .taskDone, task := h.task.map fun k => { k with ended := true } }) t
    else
      let t := match t.me.handles with
        | some (_, p) => answerPart p 0 (readSlices t.me.slices 0 16) (sealAnswer p t)
        | none => t
      modMe (fun h => { unbindAll h with stat := .retired }) t) s

/-- `mig` (R196): in a cell that the target contains it completes at once, elsewhere it moves the hart and is
presented again. -/
def opMig (i : Instr) (a : Byte) (s : State) : State :=
  let v := (readOp .d .A a 0 s.me).1
  let n := field v 0 22
  let g := plainGate i [srcNeed .d .A a 0 s.me] []
  match gate g s with
  | some s' => s'
  | none =>
    if badTarget s.me v 1 s then cause (cHartTarget 1) v s
    else if field v 22 2 = 0 then
      if cellOf n = cellOf s.me.nm then advance g s else beginMove (.cell (cellOf n)) (tileOf n) s
    else if tileOf n = tileOf s.me.nm then advance g s
    else beginMove (.tile (tileOf n)) (tileOf n) s

/-! ### Tasks (R124, R126, R197) -/

/-- The key of the next task that a hart enqueues. -/
def nextKey (h : Hart) (time : Nat) : TaskKey :=
  match h.task with
  | some t => .node time t.key t.sent
  | none => .node time (.root h.nm) h.nenq

/-- A timestamp below that of the task that enqueues (R124). -/
def belowParent (h : Hart) (time : Nat) : Bool :=
  match h.task with
  | some t => match t.key with
    | .node p _ _ => decide (time < p)
    | .root _ => false
  | none => false

/-- A hart has enqueued a task: its count rises, and a task remembers the child (R125). -/
def countEnq (k : TaskKey) (h : Hart) : Hart :=
  match h.task with
  | some t => { h with task := some { t with sent := t.sent + 1, children := t.children ++ [k] } }
  | none => { h with nenq := h.nenq + 1 }

/-- A task leaves for the task unit of its tile; it counts as an unacknowledged send (R197). It is sealed if its hart has
moved to another tile (R334). -/
def sendTask (e : TaskEnq) (s : State) : State :=
  let (i, s) := freshId s
  let s := sealTo (tileOf e.src) e.tile (((hartAt e.src s).map fun h => keyFor h s).getD 16) s
  modHart e.src (fun h => { h with unacked := h.unacked + 1 }) { s with enqs := s.enqs ++ [(i, e)] }

/-- `tenq` (R197): inside a transaction it is held and takes effect at the commit (R121). An odd PC comes before a timestamp
below the parent's (log 108). -/
def opTenq (i : Instr) (b a : Byte) (d : BitVec 6) (s : State) : State :=
  let v := (readOp .d .A a 0 s.me).1
  let time := v % 2 ^ 32
  let pc := (readOp .d .B b (sameStream a b) s.me).1 % 2 ^ 54
  let s0 := (posBase .D s.me + d.toNat) % 256
  let g := plainGate i
    [srcNeed .d .A a 0 s.me, srcNeed .d .B b (sameStream a b) s.me, .slices 3 2 s0 24] []
  match gate g s with
  | some s' => s'
  | none =>
    if pc % 2 = 1 then cause (cInstAlign 2) pc s
    else if belowParent s.me time then cause cTaskOrder v s
    else
      let h := s.me
      let k := nextKey h time
      let arg (j : Nat) : BitVec 32 := BitVec.ofNat 32 (readSlices h.slices (s0 + 8 * j) 8)
      let e : TaskEnq :=
        { key := k, tile := tileOf h.nm, src := h.nm, pc := BitVec.ofNat 54 pc
          a0 := arg 0, a1 := arg 1, a2 := arg 2, mode := h.mode, caps := h.c, cbad := h.cbad, hwaitlim := h.hwaitlim
          hb := h.hb.heir, fb := h.fb.heir, fwdeleg := h.fwdeleg, hie := h.hie
          inh := [], upto := s.ids, hist := allHist h s, wakeOn := none, acked := false }
      let t := modMe (countEnq k) (advance g s)
      if inTxn h && h.task.isNone then addWrite h.txn.id h.txn.gen s.ids (.task e) t
      else sendTask e t

/-! ### Active messages (R198) -/

/-- `amsg`: in a handler it traps before its capability is looked at (log 108). -/
def opAmsg (i : Instr) (o a : Byte) (c sub : Nat) (s : State) : State :=
  let cap := getCap s.me c
  let v := (readOp .d .A a 0 s.me).1
  let off := (readOp .d .B o 0 s.me).1
  let g : Gate := { plainGate i (srcNeed .d .A a 0 s.me :: memNeeds (.byte .d o) 0 c s.me)
    [dstTgt .d .A a s.me] with bars := true, tags := 1 }
  match gate g s with
  | some s' => s'
  | none =>
    if s.me.handles.isSome then cause cAmsgNest 0 s
    else if (capFault cap (pR + pW)).isNone && capSpace cap == 0 then cause cMemSpace (capPath cap + off) s
    else match locate s.me cap off (pR + pW) true (.bytes 1) s with
      | .trap e t => cause e t s
      | .park _ => s
      | .ok loc =>
        let tile := match loc.place with
          | .pan t => t
          | .map _ => tileOf s.me.nm
        let cell := tile * 32 + loc.u / 2 ^ 16
        let h := s.me
        let (p, t) := expect (destOf .d .A a h) (.scalar 0 64 false) 1 1 true (advance g s)
        let m : AmReq :=
          { sender := h.nm, pend := p, sub := sub, arg := BitVec.ofNat 64 v, addr := loc.u
            cap := capWith 101 13 0 (capWith 114 2 1 cap), mode := h.mode, hwaitlim := h.hwaitlim
            hb := h.hb.heir, fb := h.fb.heir, fwdeleg := h.fwdeleg, hie := h.hie }
        let cl := getCell cell t
        sealTo (tileOf h.nm) tile (keyFor h s) (setCell cell { cl with amq := cl.amq ++ [m] } t)

/-! ### Spans (R199, R329) and streams (R200) -/

/-- The line of a span counter: its home is the leader's. -/
def spanLine (k : Nat) : Nat := 2 ^ 60 + 2 ^ 20 * k

/-- A counter that is open for the hart's partition. -/
def spanOpen (h : Hart) (k : Nat) (s : State) : Bool :=
  match hartPartition h s with
  | some p => s.spans.any fun c => c.id == k && c.part == p.n
  | none => false

/-- `spnext`. -/
def opSpnext (i : Instr) (b a d : Byte) (s : State) : State :=
  let v := (readOp .d .A a 0 s.me).1
  let n := (readOp .d .B b (sameStream a b) s.me).1
  let g : Gate := { plainGate i
    [srcNeed .d .A a 0 s.me, srcNeed .d .B b (sameStream a b) s.me] [dstTgt .d .D d s.me] with
    bars := true, tags := 1 }
  match gate g s with
  | some s' => s'
  | none =>
    if !spanOpen s.me v s then cause cSpanId v s
    else
      let w := opBits .d d
      let (p, t) := expect (destOf .d .D d s.me) (.scalar 0 w false) 1 1 false (advance g s)
      sendReq ⟨.spnext v n w, spanLine v, some p, 0, true, false, false, 0⟩ t

/-- Does another hart of the tile hold a stream tag? -/
def tagHeld (tag : Nat) (s : State) : Bool :=
  (everyHart s).any fun h => h.nm != s.me.nm && tileOf h.nm == tileOf s.me.nm &&
    h.streams.any fun x => x.2.tag == tag

/-- `sbind` (R200): a register that is bound, and a tag that another hart holds, are busy. -/
def opSbind (i : Instr) (k : Nat) (a : Byte) (s : State) : State :=
  let tag := (readOp .d .A a 0 s.me).1 % 256
  let g : Gate := { plainGate i [srcNeed .d .A a 0 s.me] [] with bars := true }
  match gate g s with
  | some s' => s'
  | none =>
    if (streamOf k s.me).isSome || tagHeld tag s then cause cStrmBusy tag s
    else modMe (fun h => { h with streams := updateNat k (some ⟨tag, []⟩) h.streams }) (advance g s)

/-- `sbind.off` (R200). -/
def opSbindOff (i : Instr) (k : Nat) (s : State) : State :=
  issue { plainGate i [] [] with bars := true }
    (modMe fun h => { h with streams := updateNat k none h.streams }) s

/-- R194: Create a hart. -/
def execHspawn (b a d : BitVec 8) (s : State) : Out := .next (opHspawn (.hspawn b a d) b a d s)
/-- R195: Retire the hart. -/
def execHexit (s : State) : Out := .next (opHexit .hexit s)
/-- R143: 16-bit `hexit`. -/
def execHexitC (s : State) : Out := .next (opHexit .hexitC s)
/-- R196: Migrate to a cell or tile. -/
def execMig (a : BitVec 8) (s : State) : Out := .next (opMig (.mig a) a s)
/-- R197: Enqueue a task. -/
def execTenq (b a : BitVec 8) (d : BitVec 6) (s : State) : Out := .next (opTenq (.tenq b a d) b a d s)
/-- R198: Send an active message. -/
def execAmsg (o a : BitVec 8) (c h : BitVec 4) (s : State) : Out :=
  .next (opAmsg (.amsg o a c h) o a c.toNat h.toNat s)
/-- R199: Claim indices of a span. -/
def execSpnext (b a d : BitVec 8) (s : State) : Out := .next (opSpnext (.spnext b a d) b a d s)
/-- R200: Bind a stream register. -/
def execSbind (k : BitVec 2) (a : BitVec 8) (s : State) : Out := .next (opSbind (.sbind k a) k.toNat a s)
/-- R200: Unbind a stream register. -/
def execSbindOff (k : BitVec 2) (s : State) : Out := .next (opSbindOff (.sbindOff k) k.toNat s)

end Sys2Proof.Machine
end

