-- ==== Sys2Proof/Machine/Walk.lean ====
section
/-! DEFINITION. Walks, parks and the fault ring (R303 to R306, R325), and the host's part in translation (R309). -/

namespace Sys2Proof.Machine

open Sys2Proof

/-! ### The fault ring (R325) -/

/-- The offset of FOVF and of the fault ring in a system page (R324). -/
def sysFovf : Nat := 0x210
def sysRing : Nat := 0x1000

/-- A full word written by the manager or a walker. -/
def putWord (key addr v : Nat) (s : State) : State :=
  unitStore key (.word (addr / 8) (BitVec.ofNat 64 v) (BitVec.allOnes 64)) s

/-- A walker that parks an access writes a record of the partition's ring; a full place drops it and counts it. -/
def parkRecord (p : Partition) (name depth path : Nat) (s : State) : State :=
  let at_ := p.syspage + sysRing + 16 * (p.parks % 256)
  let s := { s with parts := s.parts.map fun q => if q.n = p.n then { q with parks := q.parks + 1 } else q }
  if (viewOf (at_ / 8) s).fe then
    putWord p.n (p.syspage + sysFovf) (rawWord s.mem ((p.syspage + sysFovf) / 8) + 1) s
  else putWord p.n at_ (blockWord depth path) (putWord p.n (at_ + 8) name s)

/-! ### Walks (R304, R305) -/

/-- The words of the node entries that a walk reads from a node on. -/
def nodeWords (fuel node depth a : Nat) (s : State) : List Nat :=
  match fuel with
  | 0 => []
  | fuel + 1 =>
    let w := (node + 16 * ((a >>> (54 - 2 * (depth + 3))) % 64)) / 8
    w :: (w + 1) ::
      (if field (memWord w s) 62 2 = 1 then nodeWords fuel (field (memWord w s) 0 54) (depth + 3) a s else [])

/-- The words of range entry i of a partition in memory. -/
def entryWords (p : Partition) (i : Nat) : List Nat := (List.range 8).map fun k => (p.rangetab + 64 * i) / 8 + k

/-- How many range entries a search looks at. -/
def entriesSeen (p : Partition) (x : Found) : Nat :=
  match x with
  | .entry i _ => i + 1
  | .unread l => l - p.rangetab / 64 + 1
  | .nothing => 64

/-- The words of memory that a search and the walk after it read: of the range entries up to the one that matches, but for
those that the die has cached, if it looks there, and of the nodes under it. -/
def walkedWords (cached : Bool) (die : Nat) (p : Partition) (a : Nat) (s : State) : List Nat :=
  let x := findRange cached die p a s 0 64
  let held (i : Nat) : Bool := cached && (lookupNat (p.n * 64 + i) (getDie die s).ranges).isSome
  ((List.range (entriesSeen p x)).filter fun i => !held i).flatMap (entryWords p) ++
    (match x with
      | .entry _ r => if r.mode = 2 then nodeWords 4 r.offset r.depth a s else []
      | _ => [])

/-- The words that a walk on the die of a tile reads under one of the two maps. -/
def wordsFor (fw : Bool) (tile a : Nat) (s : State) : List Nat :=
  if fw then []
  else match partitionOf tile s with
    | some p =>
      let die := tile / 2 ^ 7
      walkedWords true die p a s ++
        (match resolveWith true die p a s with
          | .ok _ => []
          | _ => walkedWords false die p a s)
    | none => []

/-- The writes that a walk follows (R305). -/
def walkHist (fw : Bool) (tile a : Nat) (s : State) : List Nat :=
  (wordsFor fw tile a s).flatMap fun w => wordHist w (2 ^ 64 - 1) s

/-- Do words lie at homes to which a write is still in flight that a reader follows (R105, R108)? -/
def readsWait (hist : List Nat) (words : List Nat) (s : State) : Bool :=
  s.reqs.any fun r => r.isWrite && hist.contains r.id && !reqHost r.op && words.any fun w => sameHome r.line (lineOf w) s

/-- The block that an address is resolved to. -/
def resolvedBlock (a : Nat) (r : Resolved) : Nat × Nat :=
  match r with
  | .ok m => (m.depth, m.path)
  | .unmapped d p => (d, p)
  | .badFmt d p => (d, p)
  | .absent _ d p => (d, p)
  | .failing _ _ => (27, a)

/-- What the misses that share a walk have in common (R304): the cell, the map and the block. -/
def walkKey (h : Hart) (s : State) : Option (Nat × Bool × Nat × Nat) :=
  match h.stat with
  | .missed a =>
    some (cellOf h.nm, h.mode == .firmware, resolvedBlock a (resolve (h.mode == .firmware) (tileOf h.nm) a s))
  | _ => none

/-- The missing harts of a die, in order of arrival. -/
def missesOf (die : Nat) (s : State) : List Hart :=
  (s.misses.filter fun n => dieOf n == die).filterMap fun n =>
    (hartAt n s).bind fun h => if (walkKey h s).isSome then some h else none

/-- The walkers of a die (R304). -/
def walkers : Nat := 128

/-- Are the walkers of a die all taken by misses that have arrived (R304)? An engine's miss then finds none (log 110). -/
def walkersTaken (die : Nat) (s : State) : Bool :=
  decide (walkers ≤ (((missesOf die s).map fun h => walkKey h s).eraseDups).length)

/-- Has a missing hart a walker: the walks of its die have begun in order of arrival (R304)? -/
def hasWalker (h : Hart) (s : State) : Bool :=
  ((((missesOf (dieOf h.nm) s ++ [h]).map fun h => walkKey h s).eraseDups).take walkers).contains (walkKey h s)

/-- The harts whose misses share a walk with a hart's (R304). -/
def sharers (h : Hart) (s : State) : List Hart :=
  ((missesOf (dieOf h.nm) s).filter fun x => x.nm != h.nm && walkKey x s == walkKey h s) ++ [h]

/-- Does the walk that misses share wait for a write that one of their harts follows (R105, R108, R305)? -/
def walkWaits (l : List Hart) (s : State) : Bool :=
  l.any fun h => match h.stat with
    | .missed a => readsWait (h.hist ++ h.out) (wordsFor (h.mode == .firmware) (tileOf h.nm) a s) s
    | _ => false

/-- The words that the walk of misses that share it reads. -/
def walkWords (l : List Hart) (s : State) : List Nat :=
  (l.flatMap fun h => match h.stat with
    | .missed a => wordsFor (h.mode == .firmware) (tileOf h.nm) a s
    | _ => []).eraseDups

/-- A die caches the range entry that a walk has used (R304). -/
def cacheRange (fw : Bool) (tile a : Nat) (s : State) : State :=
  let die := tile / 2 ^ 7
  if fw then s
  else match partitionOf tile s with
    | none => s
    | some p => match findRange true die p a s 0 64 with
      | .entry i _ =>
        let d := getDie die s
        if (lookupNat (p.n * 64 + i) d.ranges).isSome then s
        else
          let l : Line := BitVec.ofNat 512 (joinLanes 64 ((List.range 8).map (rangeWords false die i p s)))
          setDie die { d with ranges := updateNat (p.n * 64 + i) (some l) d.ranges } s
      | _ => s

/-- A hart presents its instruction again with what a walk has found. -/
def Hart.present (maps : List Mapping) (faults : List (Nat × Nat)) (h : Hart) : Hart :=
  { h with stat := .running, woken := false, walked := h.walked ++ maps, walkFaults := h.walkFaults ++ faults }

/-- A walk that reaches an ABSENT entry parks its hart, registered at the entry's line in the same step (R306). -/
def parkHart (h : Hart) (line depth path : Nat) (s : State) : State :=
  let s := modHart h.nm (fun h => { h with stat := .absent line, woken := false, epoch := h.epoch + 1 }) s
  let s := match hartAt h.nm s with
    | some h => register line h s
    | none => s
  match hartPartition h s with
  | some p => parkRecord p h.nm depth path s
  | none => s

/-- What misses that share a walk follow keeps the lines of the entries in mind (R108, R305). -/
def markWalk (l : List Hart) (words : List Nat) (s : State) : State :=
  let found := words.flatMap fun w => wordHist w (2 ^ 64 - 1) s
  l.foldl (fun s h => markLines (words.map lineOf) (h.hist ++ found) s) s

/-- The homes of the words that a walk has read seal their replies (R334). -/
def sealWalk (key : Nat) (words : List Nat) (s : State) : State :=
  ((words.map lineOf).eraseDups).foldl (fun s l => (sealBy (lineIface l s) key s).2) s

/-- A walk ends for a missing hart: a TLB entry is filled, or a fault is left for the instruction, or the hart
parks. -/
def walkDone (n : Nat) (s : State) : State :=
  match hartAt n s with
  | none => s
  | some h => match h.stat with
    | .missed a =>
      let fw := h.mode == .firmware
      let t := tileOf n
      let hist := walkHist fw t a s
      let s := modHart n (fun h => { h with hist := (h.hist ++ hist).eraseDups }) s
      let r := resolve fw t a s
      let s := cacheRange fw t a s
      match r with
      | .ok m => modHart n (Hart.present [m] []) (tlbFill h m s)
      | .unmapped _ _ => modHart n (Hart.present [] [(0, a)]) s
      | .badFmt _ _ => modHart n (Hart.present [] [(1, a)]) s
      | .failing slice l => modHart n (Hart.present [] [(if slice then 3 else 2, a)]) (countFailing l s)
      | .absent line d p => parkHart h line d p s
    | _ => s

/-- The walk for a missing hart ends, for every hart that shares it (R304). -/
def walkFor (n : Nat) (s : State) : State :=
  match hartAt n s with
  | none => s
  | some h =>
    if (walkKey h s).isNone || !hasWalker h s || s.fenced.contains (tileOf n) then s
    else
      let l := sharers h s
      let words := walkWords l s
      if walkWaits l s then s
      else match repairFirst (words.map lineOf) s with
      | some t => t
      | none => sealWalk (keyFor h s) words <| markWalk l words <| l.foldl (fun s h => walkDone h.nm s)
        { s with misses := s.misses.filter fun n => !(l.any fun h => h.nm == n) }

/-! ### The host's translations (R309) -/

/-- A translation of the page of an address is cached, if it admits anything. -/
def atcPut (m : Mapping) (a : Nat) (r w : Bool) (s : State) : State :=
  let e : AtcEntry := ⟨m.pasid, hostAddr m a / 2 ^ 12, r, w⟩
  let atc := s.host.atc.filter fun x => !(x.pasid == e.pasid && x.page == e.page)
  { s with host := { s.host with atc := if r || w then e :: atc else atc } }

/-- A completion for a parked hart: an access that it does not admit asks for the page, or faults if it has done so. -/
def atsHart (n : Nat) (r w : Bool) (s : State) : State :=
  match hartAt n s with
  | none => s
  | some h => match h.stat with
    | .hostPark a write phase =>
      if phase = 1 || s.host.iface != .run then s
      else match mappingOf h a s with
        | none => modHart n (Hart.present [] []) s
        | some m =>
          let s := atcPut m a r w s
          if (if write then w else r) then modHart n (Hart.present [] []) s
          else if phase = 2 then modHart n (Hart.present [] [(0, a)]) s
          else modHart n (fun h => { h with stat := .hostPark a write 1 }) s
    | _ => s

/-- The name by which an event addresses an engine of a tile: cell number 18, slot 0 for the copy engine and 1 for the
quantizer (log 102). -/
def namesEngine (n : Nat) : Bool := cellNo n == 18 && decide (slotOf n < 2)

/-- An engine's wait for the host changes. -/
def putAts (tile : Nat) (eng : Bool) (x : Option (Nat × Nat)) (s : State) : State :=
  setEngine tile eng { getEngine tile eng s with ats := x } s

/-- A completion for an engine, which only reads HOST pages (R310): as for a hart, but for the fault, which the engine
records itself. -/
def atsEngine (tile : Nat) (eng : Bool) (r w : Bool) (s : State) : State :=
  match (getEngine tile eng s).ats with
  | none => s
  | some (a, phase) =>
    if (phase != 0 && phase != 2) || s.host.iface != .run then s
    else match resolve false tile a s with
      | .ok m =>
        let s := if m.src = 3 then atcPut m a r w s else s
        putAts tile eng (if r then none else some (a, phase + 1)) s
      | _ => putAts tile eng none s

/-- A completion of a translation request is cached (R309). -/
def atsFor (n : Nat) (r w : Bool) (s : State) : State :=
  if namesEngine n then atsEngine (tileOf n) (slotOf n == 1) r w s else atsHart n r w s

/-- A response to a page request of a hart: success asks for the translation again, failure faults. -/
def priHart (n : Nat) (ok : Bool) (s : State) : State :=
  match hartAt n s with
  | none => s
  | some h => match h.stat with
    | .hostPark a write 1 =>
      if ok then modHart n (fun h => { h with stat := .hostPark a write 2 }) s
      else modHart n (Hart.present [] [(0, a)]) s
    | _ => s

/-- The same for an engine. -/
def priEngine (tile : Nat) (eng ok : Bool) (s : State) : State :=
  match (getEngine tile eng s).ats with
  | some (a, 1) => putAts tile eng (some (a, if ok then 2 else 3)) s
  | _ => s

/-- A response to a page request (R309). -/
def priFor (n : Nat) (ok : Bool) (s : State) : State :=
  if namesEngine n then priEngine (tileOf n) (slotOf n == 1) ok s else priHart n ok s

/-- Does a request use translations of pages of a host address space? -/
def usesPages (pasid page pages : Nat) (o : HomeOp) : Bool :=
  let hit (q a : Nat) : Bool := q == pasid && decide (page ≤ a / 2 ^ 12) && decide (a / 2 ^ 12 < page + pages)
  match o with
  | .hostRead q a => hit q a
  | .hostWrite q a _ _ => hit q a
  | _ => false

/-- A host Invalidate Request drops the matching ATC entries; its completion is sent once every use of them has been
performed: requests, and writes that transactions hold. -/
def hostInvalidate (pasid page pages : Nat) (s : State) : State :=
  let held := (everyHart s).flatMap fun h => h.txn.buf.filterMap fun o => match o.2.2 with
    | .host q a v m => if usesPages pasid page pages (.hostWrite q a v m) then some o.2.1 else none
    | _ => none
  let uses := ((s.reqs.filter fun r => usesPages pasid page pages r.op).map fun r => r.id) ++ held
  settleInvals { s with host := { s.host with
    atc := s.host.atc.filter fun e =>
      !(e.pasid == pasid && decide (page ≤ e.page) && decide (e.page < page + pages))
    invals := s.host.invals ++ [uses] } }

/-! ### One meaning for each event -/

/-- R304: A walker resolves a miss. -/
def execWalk (h : BitVec 22) (s : State) : Out := .next (walkFor h.toNat s)
/-- R309: An ATS completion arrives. -/
def execAtsCompletion (h : BitVec 22) (r w : Bool) (s : State) : Out := .next (atsFor h.toNat r w s)
/-- R309: A PRI response arrives. -/
def execPriResponse (h : BitVec 22) (ok : Bool) (s : State) : Out := .next (priFor h.toNat ok s)
/-- R309: A host Invalidate Request. -/
def execHostInvalidate (pasid : BitVec 20) (page pages : Nat) (s : State) : Out :=
  .next (hostInvalidate pasid.toNat page pages s)

end Sys2Proof.Machine
end

