-- ==== Sys2Proof/Machine/HartEvents.lean ====
section
/-! DEFINITION. What happens to harts beside their instructions: steps, wakes, limits and interrupts (R84, R113 to
R115, R289 to R292), deposits and messages (R59, R63, R64), migrations (R79 to R82), and requests performed at their
homes (R47, R69, R105, R320, R321). An event that is not due leaves the state as it is (log 16). -/

namespace Sys2Proof.Machine

open Sys2Proof

/-! ### Single steps, wakes and limits (R84, R113, R289) -/

/-- DBG.STEP before the next issue attempt after a stepped instruction; it counts as an issue (R71). -/
def stepTrap (n : Nat) (s : State) : State :=
  match hartAt n s with
  | none => s
  | some h =>
    if h.stepped && h.stat == .running && !outOfService n s then
      turnPast n (causeAt n ⟨14, 1, 7⟩ 0 false (modHart n (fun h => { h with stepped := false }) s))
    else s

/-- Does a hart wait or stand parked until it is woken? -/
def sleeps (st : Stat) : Bool :=
  match st with
  | .waiting _ => true
  | .absent _ => true
  | _ => false

/-- A woken hart presents its instruction again, and its other entries are cancelled. -/
def wakeHart (n : Nat) (s : State) : State :=
  match hartAt n s with
  | none => s
  | some h => if h.woken && sleeps h.stat && !outOfService n s then cancelWakes n (modHart n (Hart.present [] []) s) else s

/-- A wait exceeds HWAITLIM; the trap counts as an issue (R71). How long a wait has lasted is free (log 5). -/
def limitHart (n : Nat) (s : State) : State :=
  match hartAt n s with
  | none => s
  | some h =>
    if h.hwaitlim != 0 && offRotation h.stat && !outOfService n s then turnPast n (causeAt n cWaitLimit 0 true s) else s

/-! ### Interrupts (R290 to R292) -/

/-- The pending enabled interrupt of highest bit. -/
def interruptBit (h : Hart) (time : Nat) : Option Nat :=
  [3, 2, 1, 0].find? fun b => bitAt (hipWord h time &&& h.hie.toNat) b

/-- The bank that FWDELEG bit 12 names has a mode above the hart's, or the hart's with IE set. -/
def interruptOpen (h : Hart) : Bool :=
  let toKernel := h.fwdeleg.getLsbD 12
  match h.mode with
  | .user => true
  | .kernel => if toKernel then h.hb.ie else true
  | .firmware => !toKernel && h.fb.ie

/-- What the trap of an interrupt reports: TIME, or what HIP's event left (R286). -/
def interruptVal (h : Hart) (b time : Nat) : Nat := if b = 1 then time else (nth h.hipVal b 0).toNat

/-- A hart takes an interrupt (R292), which counts as an issue (R71): inside a transaction after an abort, a task rolls
back. -/
def takeInterrupt (n : Nat) (s : State) : State :=
  match hartAt n s with
  | none => s
  | some h => match interruptBit h s.time with
    | none => s
    | some b =>
      if interruptOpen h && !h.stepped && (h.stat == .running || offRotation h.stat) && !outOfService n s then
        turnPast n (
          if h.task.isSome then abortAt n stInterrupt 0 s
          else if inTxn h then trapAt n 12 (8 * b + 7) (interruptVal h b s.time) false (abortAt n stInterrupt 0 s)
          else trapAt n 12 (8 * b + 7) (interruptVal h b s.time) (h.stat != .running) s)
      else s

/-- TIME reaches HTCMP of a hart. -/
def timerReached (n : Nat) (s : State) : State :=
  match hartAt n s with
  | none => s
  | some h => { s with time := max s.time h.htcmp.toNat }

/-- A write of HIPI by a hart (R291). -/
def hipiWrite (n target kind : Nat) (s : State) : State :=
  match hartAt n s with
  | none => s
  | some h =>
    if !nameExists target then causeAt n cMsgName target false s
    else if !tileReach h (tileOf target) s then causeAt n (cHartTarget 3) target false s
    else
      let (i, s) := freshId s
      let (stamp, s) := sealFrom (tileOf n) (some (tileOf target)) (keyFor h s) s
      modHart n (fun h => { h with
        hipi := BitVec.ofNat 32 (kind * 2 ^ 24 + target), unacked := h.unacked + 1 })
        { s with ipis := s.ipis ++ [⟨i, n, target, kind, tileOf n, allHist h s, stamp⟩] }

/-- Is a hart on its way to a slot? -/
def arriving (n : Nat) (s : State) : Bool := s.migs.any fun h => h.nm == n

/-- Is a message or an interrupt still on its way that a tile has sent to a destination tile before another? Those arrive in
the order sent (R319). -/
def sentBefore (i via tile : Nat) (s : State) : Bool :=
  (s.msgs.any fun x => decide (x.id < i) && !x.held && x.via == via && tileOf x.dst == tile) ||
    s.ipis.any fun x => decide (x.id < i) && x.via == via && tileOf x.dst == tile

/-- The answer of a tile to a message: its acknowledgement is on its way to the sender, sealed (R110, R334). -/
def answerFrom (tile src : Nat) (stamp : Option Seal) (s : State) : State :=
  answerSeal (tileIface tile) stamp { s with acks := s.acks ++ [src] }

/-- A tile sends on what a forwarding entry redirects (R81): it is sealed anew if it leaves the tile (R334, log 101). -/
def sealOn (tile dst : Nat) (stamp : Option Seal) (s : State) : Option Seal × State :=
  sealFrom tile (some dst) ((stamp.map fun x => x.key).getD (tileKeyId tile s)) s

/-- A sent interrupt reaches its target (R291). -/
def ipiArrives (i : Nat) (s : State) : State :=
  match s.ipis.find? fun m => m.id == i with
  | none => s
  | some m =>
    let tile := tileOf m.dst
    if outOfService m.dst s || sentBefore m.id m.via tile s then s
    else
      let gone := answerFrom tile m.src m.stamp { s with ipis := s.ipis.filter fun x => x.id != i }
      match hartAt m.dst s with
      | some _ => modHart m.dst (fun h => Hart.pend m.bit m.src (h.follow m.hist)) gone
      | none =>
        if arriving m.dst s then s
        else match forwardTo m.dst s with
          | some n =>
            let (stamp, s) := sealOn tile (tileOf n) m.stamp s
            { s with ipis := s.ipis.map fun x => if x.id = i then { x with dst := n, via := tile, stamp := stamp } else x }
          | none => gone

/-! ### Deposits (R59) and messages (R63, R64) -/

/-- Does a reply land in rx while rx is full? -/
def rxBlocked (p : Pend) (h : Hart) : Bool :=
  match p.dest with
  | .rx _ => h.rxFull
  | _ => false

/-- The cell that a reply was due at sends it on to its hart (R81, R334). -/
def forwardReply (p : Pend) (s : State) : State :=
  if p.origin = p.route then s
  else sealTo (tileOf p.origin) (tileOf p.route) (tileKeyId (tileOf p.origin) s) s

/-- A whole reply lands; one to a slot that its hart has left is discarded (R74). -/
def landReply (i : Nat) (s : State) : State :=
  match s.pends.find? fun p => p.id == i with
  | none => s
  | some p =>
    if !replyWhole p || outOfService p.route s then s
    else match hartAt p.route s with
      | some h => if rxBlocked p h then s else depositReply p (forwardReply p s)
      | none => if arriving p.route s then s else dropPend p s

/-- The oldest message queued for a slot lands in rx. -/
def landQueued (n : Nat) (s : State) : State :=
  match hartAt n s with
  | none => s
  | some h => match h.rxq with
    | [] => s
    | v :: t =>
      if h.rxFull || outOfService n s then s
      else signalHart n .mailbox (modHart n (fun h => { h with rx := v, rxFull := true, rxq := t }) s)

/-- A message has been placed or discarded: it is acknowledged. -/
def messageDone (m : Msg) (s : State) : State :=
  signalAll .completion
    (answerFrom (tileOf m.dst) m.src m.stamp { s with msgs := s.msgs.filter fun x => x.id != m.id })

/-- Must a message let another come first: one that its tile sent to its destination's tile before it and that is still on
its way (R319), one of its sender to its destination (R64), one to the same cell that happens before it (R108), or one
that reached its destination before it and is held there (R64)? -/
def msgWaits (m : Msg) (s : State) : Bool :=
  (!m.held && sentBefore m.id m.via (tileOf m.dst) s) ||
    (s.msgs.any fun x => x.id != m.id &&
      ((decide (x.id < m.id) && x.src == m.src && x.dst == m.dst) || (m.hist.contains x.id && cellOf x.dst == cellOf m.dst))) ||
    (m.held && ((s.msgs.find? fun x => x.held && x.dst == m.dst).map fun x => x.id) != some m.id)

/-- Does a message held for a destination stand before a message that reaches it now (R64)? -/
def heldFor (m : Msg) (s : State) : Bool := !m.held && s.msgs.any fun x => x.held && x.dst == m.dst

/-- A message whose destination has no room is held, behind those that reached it before (R64). -/
def holdMessage (m : Msg) (s : State) : State :=
  if m.held then s
  else { s with msgs := (s.msgs.filter fun x => x.id != m.id) ++ [{ m with held := true }] }

/-- A message at the cell of its destination is placed, held (R64), redirected (R81) or discarded. -/
def placeMessage (i : Nat) (s : State) : State :=
  match s.msgs.find? fun m => m.id == i with
  | none => s
  | some m =>
    if m.at_ != tileOf m.dst || outOfService m.dst s || msgWaits m s then s
    else match hartAt m.dst s with
      | some h =>
        if heldFor m s then holdMessage m s
        else if !h.rxFull && h.rxq.isEmpty then
          signalHart m.dst .mailbox (messageDone m
            (modHart m.dst (fun h => { h.follow m.hist with rx := m.val, rxFull := true }) s))
        else if h.rxq.length < 4 then
          messageDone m (modHart m.dst (fun h => { h.follow m.hist with rxq := h.rxq ++ [m.val] }) s)
        else holdMessage m s
      | none =>
        if arriving m.dst s then s
        else match forwardTo m.dst s with
          | none => messageDone m s
          | some n =>
            let leg := nextLeg (tileOf m.dst) (tileOf n) s
            let (stamp, s) := sealOn (tileOf m.dst) (tileOf n) m.stamp s
            let m' := { m with
              dst := n, at_ := leg.1, turns := leg.2, via := tileOf m.dst, held := false, stamp := stamp }
            { s with msgs := s.msgs.map fun x => if x.id = i then m' else x }

/-- A waypoint tile, or the exit toward another die, sends a message on its next leg (R318). -/
def reinject (i : Nat) (s : State) : State :=
  { s with msgs := s.msgs.map fun m =>
      if m.id = i ∧ m.at_ ≠ tileOf m.dst ∧ m.at_ ∉ s.fenced then
        let leg := nextLeg m.at_ (tileOf m.dst) s
        { m with at_ := leg.1, turns := leg.2 }
      else m }

/-! ### Migrations (R79 to R81) and retirement (R74) -/

/-- The slot that a migration takes (R80). -/
def moveSlot (d : MigTo) (s : State) : Option Nat :=
  match d with
  | .cell c => freeSlot c s
  | .tile t => freeInTile t s
  | .bank c => match freeSlot c s with
    | some n => some n
    | none => freeInTile (c / 32) s

/-- Steps 4 to 6 of R79: the context leaves for a reserved slot, with a forwarding entry for the replies that are due; while
the table is full the slot stays reserved. Every access that the hart has issued precedes what it does there (R82). -/
def departTo (h : Hart) (m : Nat) (s : State) : State :=
  let n := h.nm
  let hist := allHist h s
  let due := (s.pends.filter fun p => p.route == n).map fun p => p.id
  let c := getCell (cellOf n) s
  if !due.isEmpty && decide (16 ≤ c.fwd.length) then modHart n (fun h => { h with stat := .leaving m }) s
  else
    let s := if due.isEmpty then s
      else setCell (cellOf n) { c with fwd := c.fwd ++ [⟨slotOf n, due, m⟩] } s
    let s := (sealFrom (tileOf n) (some (tileOf m)) (keyFor h s) s).2
    leaveSlot n { s with
      pends := s.pends.map fun p => if p.route = n then { p with route := m } else p
      migs := s.migs ++ [{ h with name := BitVec.ofNat 22 m, hist := hist }] }

/-- Steps 2 to 6 of R79, once a hart has no unacknowledged stores, a slot is free and the forwarding table has
room. -/
def departHart (n : Nat) (s : State) : State :=
  match hartAt n s with
  | none => s
  | some h =>
    if h.unacked != 0 || outOfService n s then s
    else match h.stat with
    | .departing d => match moveSlot d s with
      | none => s
      | some m => departTo h m s
    | .leaving m => departTo h m s
    | _ => s

/-- The context of a migration arrives and its hart is present. -/
def arriveHart (n : Nat) (s : State) : State :=
  match s.migs.find? fun h => h.nm == n with
  | none => s
  | some h =>
    if outOfService n s then s
    else placeHart { h with stat := .running, woken := false, walked := [], walkFaults := [] }
      { s with migs := s.migs.filter fun h => h.nm != n }

/-- The slot of a retired hart is free once its stores and sends are acknowledged. -/
def releaseSlot (n : Nat) (s : State) : State :=
  match hartAt n s with
  | none => s
  | some h => if h.stat == .retired && h.unacked == 0 && !outOfService n s then leaveSlot n (dropReplies n s) else s

/-- An acknowledgement reaches a hart (R110). -/
def acknowledge (n : Nat) (s : State) : State :=
  if s.acks.contains n && !outOfService n s then
    signalHart n .completion (modHart n (fun h => { h with unacked := h.unacked - 1 })
      { s with acks := s.acks.erase n })
  else s

/-! ### Requests performed (R47, R69, R105, R320, R321) -/

/-- A request is performed if it may be, and its reply or acknowledgement is sealed at an interface, if one is given (R334);
remote stores are applied by an event of their own. A line that it reads and that ECC cannot correct is repaired first
(R348). -/
def performAt (iface : Option Nat) (remote : Bool) (i : Nat) (s : State) : State :=
  match s.reqs.find? fun r => r.id == i with
  | none => s
  | some r =>
    if r.remote == remote && reqReady r s then
      match iface with
      | some k => sealReply k r (perform r s)
      | none => perform r s
    else match repairFor r s with
      | some l => if r.remote == remote then repairLine l s else s
      | none => s

/-- The same with the reply sealed at the request's home. -/
def performId (remote : Bool) (i : Nat) (s : State) : State :=
  performAt ((s.reqs.find? fun r => r.id == i).map fun r => homeIface r s) remote i s

def reqById (i : Nat) (s : State) : Option Req := s.reqs.find? fun r => r.id == i

/-- May a combining switch merge two requests: plain loads of one word under one key (R320)? -/
def combines (a b : Req) : Bool :=
  match a.op, b.op with
  | .read w, .read w' => w == w' && a.key == b.key && a.txn.isNone && b.txn.isNone
  | _, _ => false

/-- A request is performed, with the loads that a switch has merged with it: their reply is one sealing, copied to each. -/
def performWith (i : Nat) (also : List Nat) (s : State) : State :=
  match reqById i s with
  | none => s
  | some r =>
    let fits (j : Nat) : Bool := match reqById j s with
      | some q => combines r q && reqReady q s
      | none => false
    if also.all fits then also.foldl (fun s j => performAt none false j s) (performId false i s) else s

/-- The operations that a merge station combines. -/
def mergesOp (o : AmoOp) : Bool :=
  match o with
  | .add | .and | .or | .xor | .min | .max => true
  | .swap | .cas | .maxrst => false

/-- May a merge station combine two atomics: word, operation and width are equal (R321)? -/
def merges (a b : Req) : Bool :=
  a.txn.isNone && b.txn.isNone && !isPanWord (8 * a.line) &&
    (match a.op, b.op with
      | .amo o w f n _ _, .amo o' w' f' n' _ _ => mergesOp o && o == o' && w == w' && f == f' && n == n'
      | .fadd x _ r, .fadd y _ r' => x == y && r == r'
      | _, _ => false)

/-- A request placed by source name, then in the order of its hart. -/
def bySource (r : Req) : List Req → List Req
  | [] => [r]
  | q :: t => if r.src < q.src then r :: q :: t else q :: bySource r t

/-- A merge station releases combined atomics: they take consecutive points in order of source names (R129). Of two ports'
atomics of one cycle that R258 orders the other way, the later is not ready and is left out (log 111). It seals the one
request that it forwards, whose reply the home seals, and the reply of each constituent (R334). -/
def releaseMerged (l : List Nat) (s : State) : State :=
  match l.filterMap fun i => reqById i s with
  | [] => s
  | r :: t =>
    if t.isEmpty then performId false r.id s
    else if (r :: t).all (merges r) then
      let station := otherIface 1 (sectorFor r.line s / 8) (sectorFor r.line s % 8)
      let s := sealReply (homeIface r s) r (sealReply station r s)
      ((r :: t).foldl (fun acc q => bySource q acc) []).foldl (fun s q => performAt (some station) false q.id s) s
    else s

/-! ### One meaning for each event -/

/-- R289: DBG.STEP. -/
def execDbgStep (h : BitVec 22) (s : State) : Out := .next (stepTrap h.toNat s)
/-- R59: A deposit lands: a reply, or the oldest queued message of a hart. -/
def execDeposit (q : Bool) (p : Nat) (s : State) : Out := .next (if q then landQueued p s else landReply p s)
/-- R114: A woken hart presents its instruction again. -/
def execWake (h : BitVec 22) (s : State) : Out := .next (wakeHart h.toNat s)
/-- R84: A wait exceeds its limit. -/
def execWaitLimit (h : BitVec 22) (s : State) : Out := .next (limitHart h.toNat s)
/-- R292: An interrupt is taken. -/
def execInterruptTake (h : BitVec 22) (s : State) : Out := .next (takeInterrupt h.toNat s)
/-- R290: TIME reaches HTCMP. -/
def execTimer (h : BitVec 22) (s : State) : Out := .next (timerReached h.toNat s)
/-- R291: A software interrupt is sent. -/
def execHipiSoft (h target : BitVec 22) (s : State) : Out := .next (hipiWrite h.toNat target.toNat 0 s)
/-- R291: A pre-emption request is sent. -/
def execHipiPreempt (h target : BitVec 22) (s : State) : Out := .next (hipiWrite h.toNat target.toNat 2 s)
/-- R291: An interrupt reaches its target. -/
def execIpiDelivery (i : Nat) (s : State) : Out := .next (ipiArrives i s)
/-- R64: A message lands. -/
def execMessageLand (i : Nat) (s : State) : Out := .next (placeMessage i s)
/-- R318: A waypoint reinjects a message. -/
def execWaypointReinject (i : Nat) (s : State) : Out := .next (reinject i s)
/-- R79: A migration departs. -/
def execMigrationDepart (h : BitVec 22) (s : State) : Out := .next (departHart h.toNat s)
/-- R79: A migration arrives. -/
def execMigrationArrive (h : BitVec 22) (s : State) : Out := .next (arriveHart h.toNat s)
/-- R74: A retired hart's slot becomes free. -/
def execSlotRelease (h : BitVec 22) (s : State) : Out := .next (releaseSlot h.toNat s)
/-- R105: A request is performed at its home. -/
def execAccessPerform (r : Nat) (also : List Nat) (s : State) : Out := .next (performWith r also s)
/-- R47: A remote store is applied. -/
def execRemoteStoreApply (r : Nat) (s : State) : Out := .next (performId true r s)
/-- R69: A `cmst` is applied. -/
def execCommonsApply (cell : BitVec 18) (s : State) : Out :=
  .next (if s.fenced.contains (cell.toNat / 32) then s else applyCommons cell.toNat s)
/-- R321: A merge station releases atomics. -/
def execMergeStationRelease (rs : List Nat) (s : State) : Out := .next (releaseMerged rs s)
/-- R110: An acknowledgement reaches its hart. -/
def execAcknowledgement (h : BitVec 22) (s : State) : Out := .next (acknowledge h.toNat s)
/-- R144: A word that is no instruction raises ILLEGAL at the hart that fetched it. -/
def execIllegal (word : BitVec 32) (kind site : BitVec 3) (s : State) : Out :=
  .next (cause (cIllegal kind.toNat site.toNat) word.toNat s)

end Sys2Proof.Machine
end

