-- ==== Sys2Proof/Machine/TaskEvents.lean ====
section
/-! DEFINITION. Commits, aborts, tasks and active messages (R76, R118, R122, R124 to R126, R198, R327, R328). -/

namespace Sys2Proof.Machine

open Sys2Proof

/-! ### Transactions (R118, R122) -/

/-- Has a transaction accesses under way? -/
def txnBusy (id : Nat) (s : State) : Bool :=
  let mine (t : Option (Nat × Nat)) : Bool := match t with
    | some (i, _) => i == id
    | none => false
  s.reqs.any (fun r => mine r.txn) || s.tiles.any fun t => t.2.semv.any fun v => mine v.txn

/-- What the accesses of a hart's transaction follow: what the hart follows, and what its reads have found, landed or not
(R118). -/
def txnHist (h : Hart) (s : State) : List Nat :=
  (h.hist ++ (s.pends.filter fun p => p.txn == some h.txn.id).flatMap fun p => p.hist).eraseDups

/-- One change of a transaction or task is applied: an addition and an entry of a log follow also what the word's last writes
follow; a task is sent by the hart that commits. -/
def applyOne (h : Hart) (r : Req) (o : MOp) (s : State) : State :=
  match o with
  | .log e => logAppend { e with hist := (e.hist ++ r.hist).eraseDups } s
  | .task e => sendTask { e with src := h.nm, hist := (e.hist ++ r.hist).eraseDups } s
  | .fadd a _ => storeHomeFor h.task (r.after (wordHist (a / 2) (opMask o) s)) o s
  | o => storeHomeFor h.task r o s

/-- The changes that a hart's transaction holds. -/
def heldOps (h : Hart) : List MOp := h.txn.buf.map fun o => o.2.2

/-- The lines whose homes a held change goes to. -/
def homeLines (o : MOp) : List Nat :=
  match o with
  | .log e => [e.loc / 64]
  | o => opLines o

/-- A held change as a request that writes at the home of a line. -/
def heldReq (h : Hart) (o : MOp) (l : Nat) (s : State) : Req :=
  { bareReq (keyFor h s) with
    src := h.nm
    op := match o with
      | .host p a v m => .hostWrite p a v m
      | o => .write [o]
    line := l
    fw := h.mode == .firmware
    hist := (txnHist h s ++ h.out).eraseDups }

/-- Must a commit wait for an access that happens before it: a write to a home that it writes to, or a read of a line that it
writes (R108)? -/
def commitWaits (h : Hart) (s : State) : Bool :=
  (heldOps h).any fun o => (homeLines o).any fun l =>
    writeWaits (heldReq h o l s) s

/-- What happens before the writes of a commit keeps their lines in mind (R108). -/
def markCommitted (h : Hart) (s : State) : State :=
  (heldOps h).foldl (fun s o => (homeLines o).foldl (fun s l =>
    let r := heldReq h o l s
    markPassed r r.hist s) s) s

/-- The writes of a hart's transaction or task are applied, in the order in which it made them: they follow all that the
hart and its reads have followed. Increments that a semaphore then has room for are applied (R237). -/
def applyBuf (h : Hart) (s : State) : State :=
  let r := { bareReq (keyFor h s) with src := h.nm, fw := h.mode == .firmware, hist := txnHist h s }
  semSettle (heldOps h) ((heldOps h).foldl (fun s o => applyOne h r o s) (markCommitted h s))

/-- A transaction commits in one step once its accesses are done, nothing has aborted it, its homes have room for its
additions and entries (R103, R189; log 93), and what its writes must follow has been performed. Its reads happen before its
writes and all that follows. -/
def commitTxn (n : Nat) (s : State) : State :=
  match hartAt n s with
  | none => s
  | some h =>
    if h.stat == .committing && h.txn.doom.isNone && !txnBusy h.txn.id s && roomFor (heldOps h) s &&
        !commitWaits h s then
      settleInvals <| applyBuf h (cancelWakes n (modHart n (fun x => { x with
        stat := .running
        hist := txnHist h s
        txn := { x.txn with
          depth := 0, status := 0, detail := 0, reads := [], stale := [], buf := [], alt := none, woken := false } })
        s))
    else s

/-- Is a hart held until a reply lands (R180)? -/
def isHeld (st : Stat) : Bool :=
  match st with
  | .held _ => true
  | _ => false

/-- A decided abort takes place: of a transaction if `task` is false, of a task if it is true. -/
def abortDue (task : Bool) (n : Nat) (s : State) : State :=
  match hartAt n s with
  | none => s
  | some h => match h.txn.doom with
    | none => s
    | some (status, detail) =>
      if inTxn h && !isHeld h.stat && h.task.isSome == task then settleInvals (abortAt n status detail s) else s

/-! ### What a child sees (R126) -/

/-- The bits that changes write in a word. -/
def maskOn (w : Nat) (l : List MOp) : Nat :=
  (l.filter fun o => (opWords o).contains w).foldl (fun m o => m ||| opMask o) 0

/-- The words that changes write, each as it then is and with the bits written, by the task of a key. -/
def seenAfter (k : TaskKey) (ops : List MOp) (view : Nat → WordView) : List Seen :=
  (ops.flatMap opWords).eraseDups.map fun w => ⟨w, k, view w, BitVec.ofNat 64 (maskOn w ops), true⟩

/-! ### Task units (R327, R328) -/

/-- The hart that runs a task. -/
def runnerOf (k : TaskKey) (s : State) : Option Hart :=
  (everyHart s).find? fun h => (h.task.map fun t => t.key) == some k

/-- A child of a running task sees what the task's uncommitted ancestors wrote, as that task saw it, and the task's writes
before the `tenq` (R126). -/
def childSeen (p : Hart) (upto : Nat) (s : State) : List Seen :=
  match p.task with
  | none => []
  | some t =>
    let ops := (p.txn.buf.filter fun o => decide (o.2.1 < upto)).map fun o => o.2.2
    (t.enq.inh.filter fun x => (runnerOf x.of s).isSome) ++
      seenAfter t.key ops fun w => viewThrough ops w (viewInherited t.enq.inh w (viewOf w s))

/-- A task commits (R126): what its own children saw of the words it wrote they go on seeing; its other descendants see what
it has committed. -/
def settleSeen (k : TaskKey) (ops : List MOp) (before : State) (e : TaskEnq) : TaskEnq :=
  let rest := e.inh.filter fun x => x.of != k
  if parentKey e.key == k then
    { e with inh := rest ++ seenAfter k ops fun w => viewInherited e.inh w (viewOf w before) }
  else { e with inh := rest }

/-- A task is taken by its unit, or by the tile's share of the spill area; a full share holds it (R327). What a parent task
wrote before the `tenq` has reached its homes by then. A task that has rolled back comes again without an
acknowledgement. -/
def arriveTask (i : Nat) (s : State) : State :=
  match lookupNat i s.enqs with
  | none => s
  | some e =>
    let p := if e.acked then none else runnerOf (parentKey e.key) s
    let due : Bool := p.any fun h =>
      h.task.isSome && s.reqs.any fun r => decide (r.id < e.upto) && r.txn.any fun t => t.1 == h.txn.id
    if due then s
    else
      let e' := { e with acked := true, inh := (p.map fun h => childSeen h e.upto s).getD e.inh }
      let taken := { (if e.acked then s else sealTo e.tile (tileOf e.src) (tileKeyId e.tile s) s) with
        enqs := s.enqs.filter (fun x => x.1 != i)
        acks := if e.acked then s.acks else s.acks ++ [e.src] }
      (takeTask e' taken).getD s

/-- The task of least key in a list. -/
def leastTask : List TaskEnq → Option TaskEnq
  | [] => none
  | e :: t => match leastTask t with
    | none => some e
    | some f => if keyLt f.key e.key then some f else some e

/-- A list without the task of a key. -/
def dropTask (k : TaskKey) (l : List TaskEnq) : List TaskEnq := l.filter fun e => e.key != k

/-- Spilled tasks return in key order while the unit has room. -/
def refill (t : Tile) : Tile :=
  if t.tasks.length < 256 then
    match leastTask t.spill with
    | some e => { t with tasks := t.tasks ++ [e], spill := dropTask e.key t.spill }
    | none => t
  else t

/-- The hart of a task as it starts (R197). -/
def taskHart (e : TaskEnq) (n id time : Nat) : Hart :=
  let stamp := match e.key with
    | .node t _ _ => t
    | .root _ => 0
  let args := e.a0.toNat + e.a1.toNat * 2 ^ 32 + e.a2.toNat * 2 ^ 64 + stamp % 2 ^ 32 * 2 ^ 96
  { Hart.blank (BitVec.ofNat 22 n) e.pc e.mode with
    slices := BitVec.ofNat 1024 args
    c := e.caps
    cbad := e.cbad
    hwaitlim := e.hwaitlim
    hb := e.hb
    fb := e.fb
    fwdeleg := e.fwdeleg
    hie := e.hie
    hist := e.hist
    txn := Txn.opened id time 0 0 Txn.none
    task := some ⟨e.key, e, 0, [], false⟩ }

/-- Tasks of a unit that run or await their commit. -/
def tasksRunning (tile : Nat) (s : State) : Nat :=
  ((everyHart s).filter fun h => (h.task.map fun t => t.enq.tile) == some tile).length

/-- The unit starts its queued task of least key on a free slot, once spilled tasks have returned to the room it has. -/
def startTask (tile : Nat) (s : State) : State :=
  let t := refill (getTile tile s)
  match leastTask (t.tasks.filter fun e => e.wakeOn.isNone), freeInTile tile s with
  | some e, some n =>
    if tasksRunning tile s < 64 then
      let (id, s) := freshId s
      placeHart (taskHart e n id s.time) (setTile tile (refill { t with tasks := dropTask e.key t.tasks }) s)
    else s
  | _, _ => s

/-- The uncommitted tasks of a partition: queued, spilled, running, and in flight toward a unit. -/
def uncommitted (p : Partition) (s : State) : List TaskEnq :=
  ((s.tiles.filter fun t => holdsTile p t.1 s).flatMap fun t => t.2.tasks ++ t.2.spill) ++
    ((everyHart s).filterMap fun h => h.task.map fun t => t.enq).filter (fun e => holdsTile p e.tile s) ++
    ((s.enqs.filter fun e => holdsTile p e.2.tile s).map fun e => e.2)

/-- The reports of a partition's units make the frontier (R328). -/
def setFrontier (n : Nat) (s : State) : State :=
  { s with parts := s.parts.map fun p =>
      if p.n = n then { p with frontier := (leastTask (uncommitted p s)).map fun e => e.key } else p }

/-- A task whose body has ended commits when its key is the frontier (R118, R125, R328). -/
def commitTask (n : Nat) (s : State) : State :=
  match hartAt n s with
  | none => s
  | some h => match h.task with
    | none => s
    | some t =>
      let front := (partitionOf t.enq.tile s).any fun p => p.frontier == some t.key
      if h.stat == .taskDone && h.txn.doom.isNone && h.unacked == 0 && front && !txnBusy h.txn.id s &&
          roomFor (heldOps h) s && !commitWaits h s then
        let s' := modEnqs (settleSeen t.key (heldOps h) s) s
        settleInvals <| vacate n (applyBuf h (modHart n (fun h => { h with txn := { h.txn with depth := 0 } }) s'))
      else s

/-! ### Active messages (R198) -/

/-- The hart of a handler as it starts in slot 15 of a cell; bit 0 of a pc is always 0 (R131). -/
def handlerHart (m : AmReq) (cell : Nat) (vec : Nat) : Hart :=
  { Hart.blank (BitVec.ofNat 22 (cell * 16 + 15)) (BitVec.ofNat 54 (clearLow (vec + 64 * m.sub) 1)) m.mode with
    slices := BitVec.ofNat 1024 (m.arg.toNat + m.addr * 2 ^ 64 + m.sender * 2 ^ 128)
    c := m.cap :: List.replicate 15 Cap.null
    hwaitlim := m.hwaitlim
    hb := m.hb
    fb := m.fb
    fwdeleg := m.fwdeleg
    hie := m.hie
    handles := some (m.sender, m.pend) }

/-- Slot 15 starts the next handler; a cell out of service starts none (R315). -/
def startHandler (cell : Nat) (s : State) : State :=
  let c := getCell cell s
  match c.amq with
  | [] => s
  | m :: t =>
    if slotFree (cell * 16 + 15) s && !s.fenced.contains (cell / 32) then
      placeHart (handlerHart m cell c.hamvec.toNat) (setCell cell { c with amq := t } s)
    else s

/-! ### One meaning for each event -/

/-- R118: A transaction reaches its commit point. -/
def execTxnCommitPoint (h : BitVec 22) (s : State) : Out := .next (commitTxn h.toNat s)
/-- R122: A transaction aborts. -/
def execTxnAbort (h : BitVec 22) (s : State) : Out := .next (abortDue false h.toNat s)
/-- R327: A task reaches its unit. -/
def execTaskArrive (i : Nat) (s : State) : Out := .next (arriveTask i s)
/-- R76: A unit starts a task. -/
def execTaskStart (tile : BitVec 13) (s : State) : Out := .next (startTask tile.toNat s)
/-- R328: The units report, and the frontier returns. -/
def execFrontierReport (n : BitVec 4) (s : State) : Out := .next (setFrontier n.toNat s)
/-- R328: A task commits. -/
def execTaskCommit (h : BitVec 22) (s : State) : Out := .next (commitTask h.toNat s)
/-- R125: A task rolls back. -/
def execTaskRollback (h : BitVec 22) (s : State) : Out := .next (abortDue true h.toNat s)
/-- R198: Slot 15 starts a handler. -/
def execAmsgHandlerStart (cell : BitVec 18) (s : State) : Out := .next (startHandler cell.toNat s)

end Sys2Proof.Machine
end

