-- ==== Sys2Proof/Machine/Manager.lean ====
section
/-! DEFINITION. The partition manager (R311 to R316, R324, R326, R329, R330, R333, R335, R355) and the words of its page
that firmware writes (R8, R312, R347, R348, R354). A command is taken, carried out and answered in one step. -/

namespace Sys2Proof.Machine

open Sys2Proof

/-! ### Wipes of storage (R42, R315, R352) -/

/-- Memory keeps the lines that a test picks; every other line is as after a wipe. -/
def keepLines (p : Nat → Bool) (s : State) : State :=
  { s with
    mem := ⟨s.mem.cells.filter fun c => p (c.1 / 64), s.mem.side.filter fun b => p b.1⟩
    accs := s.accs.filter fun a => p (a.1 / 16)
    whist := s.whist.filter fun h => p (lineOf h.1) }

/-- Is a line one of a pan, or of a semaphore, of tiles that a test picks? -/
def lineOfTiles (inT : Nat → Bool) (l : Nat) : Bool :=
  let a := 64 * l
  if semBase ≤ a then inT ((a - semBase) / 512)
  else if panBase ≤ a then inT ((a - panBase) / 2 ^ 20)
  else false

/-- What stands in tiles ends: their harts, with all that these have under way, and their tasks (R315, R335). -/
def stopTiles (inT : Nat → Bool) (s : State) : State :=
  let dead (n : Nat) : Bool := inT (tileOf n)
  { s with
    me := if dead s.me.nm then { s.me with stat := .free } else s.me
    harts := s.harts.filter fun h => !dead h.nm
    migs := s.migs.filter fun h => !dead h.nm
    reqs := s.reqs.filter fun r => !dead r.src
    pends := s.pends.filter fun p => !dead p.route
    acks := s.acks.filter fun n => !dead n
    msgs := s.msgs.filter fun m => !dead m.src
    ipis := s.ipis.filter fun m => !dead m.src
    enqs := s.enqs.filter fun e => !inT e.2.tile
    wake := s.wake.filter fun e => !dead e.hart }

/-- The wipe of tiles: pans, registers, operand memory, commons and task units. -/
def wipeTiles (inT : Nat → Bool) (s : State) : State :=
  let s := keepLines (fun l => !lineOfTiles inT l) (stopTiles inT s)
  { s with
    cells := s.cells.filter fun c => !inT (c.1 / 32)
    tiles := s.tiles.filter fun t => !inT t.1
    logs := s.logs.filter fun e => !(e.pan && inT e.ctx)
    pendw := s.pendw.filter fun p => !(p.pan && inT (panTile p.w)) }

/-! ### Descriptors and their checks (R314 to R316) -/

/-- The dies of a partition. -/
def partDies (p : Partition) : List Nat :=
  if p.whole then (List.range 64).filter fun d => p.diemask.getLsbD d else [p.die]

/-- The tiles that a descriptor takes in, ascending, and those of them that the partition contains (R22). -/
def areaTiles (p : Partition) : List Nat :=
  (partDies p).flatMap fun d => ((List.range 128).map fun t => d * 128 + t).filter (inPartition p)

def partTiles (p : Partition) (s : State) : List Nat := (areaTiles p).filter fun t => holdsTile p t s

/-- Does a tile lie in the area of an open partition, in service or not? -/
def inOpenArea (t : Nat) (s : State) : Bool := s.parts.any fun p => inPartition p t

/-- Word k of descriptor n. -/
def pdWord (n k : Nat) (s : State) : Nat := pageGet (0x400 + 128 * n + 8 * k) s

/-- The partition that descriptor n describes, with its leader and replica (R330). -/
def descriptor (n : Nat) (s : State) : Partition :=
  let w := pdWord n 0 s
  let p : Partition :=
    { n := n, whole := bitAt w 61, hostf := bitAt w 60, topo := field w 58 2, die := field w 14 6,
      row0 := field w 11 3, row1 := field w 8 3, col0 := field w 4 4, col1 := field w 0 4,
      diemask := BitVec.ofNat 64 (pdWord n 1 s), rangetab := field (pdWord n 2 s) 0 54,
      syspage := field (pdWord n 3 s) 0 54, spill := field (pdWord n 4 s) 0 54,
      spilln := field (pdWord n 5 s) 0 32, gen := s.trust.genNext, parks := 0, leader := 0, replica := none,
      frontier := none }
  let live := (partDies p).filter fun d => !(getDie d s).failed
  { p with leader := live.headD 0, replica := live[1]? }

/-- Check 2 of R315, with the odd start address of R355; a partition of a die that the domain lacks fails it too
(log 30). -/
def badDescriptor (n : Nat) (p : Partition) (s : State) : Bool :=
  let upper := field (pdWord n 2 s) 54 10 != 0 || field (pdWord n 3 s) 54 10 != 0 ||
    field (pdWord n 4 s) 54 10 != 0 || field (pdWord n 5 s) 32 32 != 0 ||
    ((List.range 10).any fun k => pdWord n (6 + k) s != 0)
  let rows := p.row1 - p.row0 + 1
  let cols := p.col1 - p.col0 + 1
  field (pdWord n 0 s) 20 38 != 0 || upper ||
    decide (p.row1 < p.row0) || decide (p.col1 < p.col0) ||
    p.rangetab % 2 ^ 12 != 0 || p.syspage % 2 ^ 14 != 0 || p.spill % 2 ^ 12 != 0 ||
    !namesMemory p.rangetab s || !namesMemory p.syspage s || !namesMemory p.spill s ||
    (p.whole && p.topo != 0) ||
    (p.topo == 1 && (rows % 2 != 0 || decide (cols < 2))) ||
    (p.topo == 3 && (decide (rows < 3) || decide (cols < 3))) ||
    ((partDies p).any fun d => decide (4 * s.pkgs ≤ d)) ||
    pageGet 0x10 s % 2 == 1

/-- The tiles of a die that are reached from some of them by links between tiles in service. -/
def spread (die : Nat) (ok : Nat → Bool) : Nat → List Nat → List Nat
  | 0, seen => seen
  | fuel + 1, seen =>
    let near (a b : Nat) : Bool :=
      (meshRow a == meshRow b && (meshCol a + 1 == meshCol b || meshCol b + 1 == meshCol a)) ||
      (meshCol a == meshCol b && (meshRow a + 1 == meshRow b || meshRow b + 1 == meshRow a))
    let all := ((List.range 128).map fun t => die * 128 + t).filter ok
    spread die ok fuel (all.filter fun t => seen.contains t || seen.any (near t))

/-- The tiles of a die in service all reach one another. -/
def allReach (die : Nat) (s : State) : Bool :=
  let ok (t : Nat) : Bool := !s.fenced.contains t
  let all := ((List.range 128).map fun t => die * 128 + t).filter ok
  match all with
  | [] => true
  | t :: _ => (spread die ok 128 [t]).length == all.length

/-- Check 4 of R315, with the dies that reduced service leaves out (R359). -/
def fenceFails (p : Partition) (s : State) : Bool :=
  (!s.care.full && (partDies p).any fun d => d != 0) ||
    (if p.whole then (partDies p).any fun d =>
        s.fenced.any (fun t => t / 128 == d) && !allReach d s
      else s.fenced.any (inPartition p))

/-- The checks of OPEN in their order; 0 if all pass. -/
def openResult (n : Nat) (p : Partition) (s : State) : Nat :=
  if field (pdWord n 0 s) 62 2 ≠ 0 then 6
  else if badDescriptor n p s then 1
  else if (areaTiles p).any fun t => inOpenArea t s then 2
  else if fenceFails p s then 3
  else if p.hostf && s.parts.any (fun q => q.hostf) then 5
  else 0

/-! ### Opening (R315, R324, R333, R355) -/

/-- Full/empty bits of line i of a fresh system page. -/
def sysFe (hostf : Bool) (i : Nat) : BitVec 8 :=
  if i < 8 then (if hostf then 0 else 0xFF)
  else if i = 8 then 0xFC
  else if 64 ≤ i ∧ i < 128 then 0
  else 0xFF

/-- The system page's initial state, written under the partition's key; a line's pending mark stands as long as its shadow
holds bytes (R19). -/
def initSysPage (p : Partition) (s : State) : State :=
  let l0 := p.syspage / 64
  let s := keepLines (fun l => !(decide (l0 ≤ l) && decide (l < l0 + 256))) s
  (List.range 256).foldl (fun s i =>
    let pending := s.pendw.any fun e => lineOf e.w == l0 + i
    let b : SideBand := ⟨sysFe p.hostf i, 0, false, pending, p.n, p.gen, false, 0, false, false, false⟩
    wakeLine (l0 + i) (foreignLine (l0 + i) { s with mem := setSide s.mem (l0 + i) b })) s

/-- The range table is loaded into the caches of the partition's dies: the entries that can be read (R304). -/
def loadRanges (p : Partition) (s : State) : State :=
  (partDies p).foldl (fun s d =>
    (List.range 64).foldl (fun s i =>
      if rangeReads false d i p s then
        let l : Line := BitVec.ofNat 512 (joinLanes 64 ((List.range 8).map (rangeWords false d i p s)))
        let v := getDie d s
        setDie d { v with ranges := updateNat (p.n * 64 + i) (some l) v.ranges } s
      else s) s) s

/-- The first hart of a partition. -/
def firstHart (tile pc fwdeleg : Nat) : Hart :=
  { Hart.blank (BitVec.ofNat 22 (tile * 512)) (BitVec.ofNat 54 pc) .kernel with
    c := [Cap.root0, Cap.root1] ++ List.replicate 14 Cap.null
    fwdeleg := BitVec.ofNat 16 fwdeleg }

/-- The program of a partition starts, on its lowest tile in service. -/
def startProgram (p : Partition) (s : State) : State :=
  match (partTiles p s).head? with
  | some t => placeHart (firstHart t (pageGet 0x10 s) (pageGet 0x18 s)) s
  | none => s

/-- STATE of descriptor n. -/
def putState (n st : Nat) (s : State) : State :=
  pagePut (0x400 + 128 * n) (pdWord n 0 s % 2 ^ 62 + st * 2 ^ 62) s

/-- OPEN. -/
def pmOpenCmd (cmd : Nat) (s : State) : Nat × State :=
  let n := field cmd 40 8
  if 16 ≤ n then (1, s)
  else
    let p := descriptor n s
    let r := openResult n p s
    if r ≠ 0 then (r, s)
    else
      let s := wipeTiles (inPartition p) s
      let s := { s with
        parts := s.parts ++ [p]
        seals := s.seals.filter fun x => x.1 % 32 != n
        trust := { s.trust with genNext := s.trust.genNext + 1 } }
      (0, startProgram p (putState n 1 (initSysPage p (loadRanges p s))))

/-! ### Closing (R315, R335, R339, R342) -/

/-- The pending writes of a key set to global memory are no more, and their lines are marked so (R298, R332). -/
def dropPending (key : Nat) (s : State) : State :=
  let gone := s.pendw.filter fun e => !e.pan && e.key == key
  let rest := s.pendw.filter fun e => e.pan || e.key != key
  let lines := (gone.map fun e => lineOf e.w).eraseDups.filter fun l => !(rest.any fun e => lineOf e.w == l)
  lines.foldl (fun s l => markPending l false s) { s with pendw := rest }

/-- A partition is closed: its tiles are wiped, its translations dropped, and its key set is no more (R332). -/
def closePart (p : Partition) (s : State) : State :=
  let s := dropPending p.n (wipeTiles (inPartition p) s)
  let s := { s with
    parts := s.parts.filter fun q => q.n != p.n
    dies := s.dies.map fun d => (d.1, { d.2 with ranges := d.2.ranges.filter fun e => e.1 / 64 != p.n })
    logs := s.logs.filter fun e => e.pan || e.ctx != p.n
    host := if p.hostf then { s.host with atc := [] } else s.host }
  putState p.n 0 s

/-- Something of a partition is still in use. -/
def partBusy (p : Partition) (s : State) : Bool :=
  let runs (t : Nat) (e : Engine) : Bool := e.chains.any fun c => hdrWord (tileKey t c.fw s) c.hdr 7 s % 4 != stIdle
  ((everyHart s).any fun h => holdsTile p (tileOf h.nm) s) ||
    (s.tiles.any fun t => holdsTile p t.1 s && (runs t.1 t.2.copy || runs t.1 t.2.quant)) ||
    !(uncommitted p s).isEmpty ||
    (p.hostf && (s.host.iface == .locked || s.host.iface == .run || s.host.iface == .quiesced))

/-- CLOSE. -/
def pmCloseCmd (cmd : Nat) (s : State) : Nat × State :=
  let n := field cmd 40 8
  if 16 ≤ n then (1, s)
  else match s.parts.find? fun p => p.n == n with
    | none => (6, s)
    | some p => if partBusy p s then (4, s) else (0, closePart p s)

/-! ### Fences and span counters (R315, R329) -/

/-- A tile is taken out of service or returned to it. -/
def pmFenceCmd (on : Bool) (cmd : Nat) (s : State) : Nat × State :=
  let t := field cmd 0 13
  if 4 * s.pkgs ≤ t / 128 then (1, s)
  else if inOpenArea t s then (4, s)
  else
    let off := 0x1000 + 16 * (t / 128) + 8 * (t % 128 / 64)
    let old := pageGet off s
    let b := 2 ^ (t % 64)
    let new := if on then old ||| b else old &&& (2 ^ 64 - 1 - b)
    let rest := s.fenced.filter fun x => x != t
    (0, pagePut off new { s with fenced := if on then rest ++ [t] else rest })

/-- SPANOPEN. -/
def pmSpanOpenCmd (cmd : Nat) (s : State) : Nat × State :=
  let k := field cmd 40 8
  let a := pageGet 0x18 s
  if 64 ≤ k then (1, s)
  else if s.spans.any fun c => c.id == k then (6, s)
  else (0, { s with spans := s.spans ++ [⟨k, field a 0 4, pageGet 0x10 s, field a 4 60 * 16, pageGet 0x10 s⟩] })

/-- SPANCLOSE. -/
def pmSpanCloseCmd (cmd : Nat) (s : State) : Nat × State :=
  let k := field cmd 40 8
  if 64 ≤ k then (1, s)
  else if s.spans.any fun c => c.id == k then (0, { s with spans := s.spans.filter fun c => c.id != k })
  else (6, s)

/-! ### Taking a command (R311 to R313) -/

/-- The reserved bits of a command word that make it bad; those of UNIT are ignored (R9, R313). -/
def cmdReserved (cmd : Nat) : Bool := field cmd 48 8 != 0

/-- A command stands in CMD once the boot has written the page, and every write that it follows has been applied. -/
def cmdDue (s : State) : Bool := (getDie 0 s).trained0 && pageFull 0 s && (wordHist 0 (2 ^ 64 - 1) s).isEmpty

/-- The manager takes a command of a kind, carries it out and writes RESULT. -/
def manage (op : Nat) (f : Nat → State → Nat × State) (s : State) : State :=
  let cmd := pageGet 0 s
  if cmdDue s && field cmd 56 8 == op && !cmdReserved cmd then
    let (r, t) := f cmd (pageTake 0 s)
    pagePut 8 r t
  else s

/-- A command word of no kind, or with reserved bits set. -/
def manageBad (s : State) : State :=
  let cmd := pageGet 0 s
  let op := field cmd 56 8
  if cmdDue s && (op == 0 || decide (6 < op) || cmdReserved cmd) then pagePut 8 1 (pageTake 0 s) else s

/-! ### Traces (R326) and leaders (R330) -/

/-- A trace entry as a word (R112). -/
def traceWord (e : TraceEntry) : Nat :=
  e.src % 2 ^ 22 * 2 ^ 42 + e.word % 2 ^ 17 * 2 ^ 25 + e.bmask.toNat * 2 ^ 17 + e.seq % 2 ^ 15 * 4 +
    bit e.remote * 2 + 1

/-- The manager takes TCMD of a partition. -/
def copyTrace (n : Nat) (s : State) : State :=
  match s.parts.find? fun p => p.n == n with
  | none => s
  | some p =>
    let w := (p.syspage + 0x200) / 8
    let v := viewOf w s
    if !v.fe || !(wordHist w (2 ^ 64 - 1) s).isEmpty then s
    else
      let tile := field (viewVal v) 9 13
      let bank := field (viewVal v) 0 4
      let s := unitStore p.n (.empty w) s
      if !holdsTile p tile s then putWord p.n (p.syspage + 0x208) 0xFFFFFFFF s
      else
        let t := getTile tile s
        let r := (lookupNat bank t.rings).getD ⟨[], 0, []⟩
        let s := if r.entries.isEmpty then s else setTile tile { t with rings := updateNat bank (some { r with entries := [] }) t.rings } s
        let s := (List.range 1024).foldl (fun s i =>
          putWord p.n (p.syspage + 0x2000 + 8 * i) ((r.entries[i]?.map traceWord).getD 0) s) s
        putWord p.n (p.syspage + 0x208) r.entries.length s

/-- A claim on a counter of a partition that has no reply is sent again (R330). -/
def resend (n : Nat) (spans : List Span) (q : Req) : Req :=
  let mine (k : Nat) : Bool := spans.any fun c => c.id == k && c.part == n
  match q.op with
  | .spanAck k count width _ _ => if mine k then { q with op := .spnext k count width } else q
  | .spanReply k count width _ => if mine k then { q with op := .spnext k count width } else q
  | _ => q

/-- The counters of a partition whose leader's die has failed: they go on from the replica's NEXT, and claims without a
reply come again; without a replica they close. -/
def newLeader (p : Partition) (s : State) : State :=
  if p.replica.isNone then { s with spans := s.spans.filter fun c => c.part != p.n }
  else { s with
    reqs := s.reqs.map (resend p.n s.spans)
    spans := s.spans.map fun c => if c.part = p.n then { c with next := c.copy } else c }

/-- The counters of a partition whose replica's die has failed: the next one takes NEXT over (log 37). -/
def newReplica (p : Partition) (s : State) : State :=
  { s with spans := s.spans.map fun c => if c.part = p.n then { c with copy := c.next } else c }

/-- A partition loses a die: its leader is the lowest live die, and its replica the next. -/
def loseDie (d : Nat) (s : State) (p : Partition) : State :=
  let live := (partDies p).filter fun x => !(getDie x s).failed
  let s := if p.leader = d then newLeader p s else if p.replica = some d then newReplica p s else s
  { s with parts := s.parts.map fun q =>
      if q.n = p.n ∧ (q.leader = d ∨ q.replica = some d) then { q with leader := live.headD q.leader, replica := live[1]? }
      else q }

/-- A die fails: partitions that it leads elect their replicas, and others that it serves as replica take the next die
(R330). -/
def electLeader (d : Nat) (s : State) : State :=
  s.parts.foldl (loseDie d) (setDie d { getDie d s with failed := true } s)

/-! ### One meaning for each event -/

/-- R315: OPEN. -/
def execPmOpen (s : State) : Out := .next (manage 1 pmOpenCmd s)
/-- R315: CLOSE. -/
def execPmClose (s : State) : Out := .next (manage 2 pmCloseCmd s)
/-- R315: FENCE. -/
def execPmFence (s : State) : Out := .next (manage 3 (pmFenceCmd true) s)
/-- R315: UNFENCE. -/
def execPmUnfence (s : State) : Out := .next (manage 4 (pmFenceCmd false) s)
/-- R329: SPANOPEN. -/
def execPmSpanOpen (s : State) : Out := .next (manage 5 pmSpanOpenCmd s)
/-- R329: SPANCLOSE. -/
def execPmSpanClose (s : State) : Out := .next (manage 6 pmSpanCloseCmd s)
/-- R313: A command word that names no command. -/
def execPmBadArg (s : State) : Out := .next (manageBad s)
/-- R326: A trace ring is copied and cleared. -/
def execTraceCopy (n : BitVec 4) (s : State) : Out := .next (copyTrace n.toNat s)
/-- R330: A die fails, and leaders are elected. -/
def execLeaderElection (d : BitVec 6) (s : State) : Out := .next (electLeader d.toNat s)
/-- R8: Firmware writes a word of the page. -/
def execRegisterWrite (off : BitVec 14) (v : BitVec 64) (s : State) : Out :=
  .next (pageSet off.toNat v.toNat s)
/-- R348: Firmware marks channels failed. -/
def execFailmapWrite (i : BitVec 7) (v : BitVec 32) (s : State) : Out := .next (failChannels i.toNat v.toNat s)
/-- R354: BFCTL.LOCK is set. -/
def execBfctlLock (s : State) : Out :=
  .next (pageSet 0x2030 (pageGet 0x2030 s ||| 1) s)
/-- R354: BFCTL.TENWR is written. -/
def execBfctlTenwr (v : Bool) (s : State) : Out :=
  .next (pageSet 0x2030 (pageGet 0x2030 s % 2 + 2 * bit v) s)

end Sys2Proof.Machine
end

