-- ==== Sys2Proof/Machine/Sha3.lean ====
section
/-! DEFINITION. SHA3-256, the base hash of the device (R340, R345): Keccak-f[1600] on 25 lanes of 64 bits, lane (x, y) at
place x + 5 y. -/

namespace Sys2Proof.Machine

open Sys2Proof

/-- A lane rotated left by fewer than 64 bits. -/
def rotLane (v n : Nat) : Nat := (v <<< n ||| v >>> (64 - n)) % 2 ^ 64

/-- A state from its lanes. -/
def lanesBy (f : Nat → Nat) : List Nat := (List.range 25).map f

/-- The parity of each column, mixed into the lanes of its neighbours. -/
def keccakTheta (a : List Nat) : List Nat :=
  let c := (List.range 5).map fun x => (List.range 5).foldl (fun v y => v ^^^ nth a (x + 5 * y) 0) 0
  let d := (List.range 5).map fun x => nth c ((x + 4) % 5) 0 ^^^ rotLane (nth c ((x + 1) % 5) 0) 1
  lanesBy fun i => nth a i 0 ^^^ nth d (i % 5) 0

/-- The rotation of each lane. -/
def keccakOffsets : List Nat :=
  [0, 1, 62, 28, 27, 36, 44, 6, 55, 20, 3, 10, 43, 25, 39, 41, 45, 15, 21, 8, 18, 2, 61, 56, 14]

/-- The lanes rotated, and moved from (x, y) to (y, 2x + 3y). -/
def keccakRhoPi (a : List Nat) : List Nat :=
  lanesBy fun i =>
    let y := i / 5
    let x := i % 5
    let src := (x + 3 * y) % 5 + 5 * x
    rotLane (nth a src 0) (nth keccakOffsets src 0)

/-- Each lane with the one after it negated and the one after that. -/
def keccakChi (a : List Nat) : List Nat :=
  lanesBy fun i =>
    let row := i / 5 * 5
    nth a i 0 ^^^ ((2 ^ 64 - 1 - nth a (row + (i + 1) % 5) 0) &&& nth a (row + (i + 2) % 5) 0)

/-- The constant of each round. -/
def keccakRounds : List Nat :=
  [0x0000000000000001, 0x0000000000008082, 0x800000000000808A, 0x8000000080008000, 0x000000000000808B,
   0x0000000080000001, 0x8000000080008081, 0x8000000000008009, 0x000000000000008A, 0x0000000000000088,
   0x0000000080008009, 0x000000008000000A] ++
  [0x000000008000808B, 0x800000000000008B, 0x8000000000008089, 0x8000000000008003, 0x8000000000008002,
   0x8000000000000080, 0x000000000000800A, 0x800000008000000A, 0x8000000080008081, 0x8000000000008080,
   0x0000000080000001, 0x8000000080008008]

/-- One round. -/
def keccakRound (a : List Nat) (rc : Nat) : List Nat :=
  let b := keccakChi (keccakRhoPi (keccakTheta a))
  (nth b 0 0 ^^^ rc) :: b.drop 1

/-- The permutation. -/
def keccakF (a : List Nat) : List Nat := keccakRounds.foldl keccakRound a

/-- The bytes that the state takes at a time. -/
def shaRate : Nat := 136

/-- A message padded to a whole number of blocks. -/
def shaPad (l : List Nat) : List Nat :=
  let q := shaRate - l.length % shaRate
  l ++ if q = 1 then [0x86] else 0x06 :: (List.replicate (q - 2) 0 ++ [0x80])

/-- n blocks of a padded message taken in. -/
def shaAbsorb (a : List Nat) (l : List Nat) : Nat → List Nat
  | 0 => a
  | n + 1 =>
    let block := joinLanes 8 (l.take shaRate)
    shaAbsorb (keccakF (lanesBy fun i => nth a i 0 ^^^ field block (64 * i) 64)) (l.drop shaRate) n

/-- The digest of a message of bytes, its first byte in the low bits (R3). -/
def sha3 (l : List Nat) : BitVec 256 :=
  let p := shaPad l
  let a := shaAbsorb (List.replicate 25 0) p (p.length / shaRate)
  BitVec.ofNat 256 (joinLanes 64 (a.take 4))

end Sys2Proof.Machine
end

