-- ==== Sys2Proof/Machine/HostPort.lean ====
section
/-! DEFINITION. The host's mailboxes, the host interface and the security block (R323, R335, R338 to R346, R353 to R358). An
event is served, or answered as invalid, in one step. -/

namespace Sys2Proof.Machine

open Sys2Proof

def setHost (f : HostPort → HostPort) (s : State) : State := { s with host := f s.host }

def answer (a : Answer) (s : State) : State := setHost (fun h => { h with answer := a }) s

/-- The request is refused (R339, R341). -/
def refuse (s : State) : State := answer .invalidRequest s

def setTrust (f : Trust → Trust) (s : State) : State := { s with trust := f s.trust }

/-- The partition that holds the host function. -/
def hostPart (s : State) : Option Partition := s.parts.find? fun p => p.hostf

/-! ### BAR0 (R322, R323, R342) -/

/-- The word of mailbox k. -/
def mboxWord (p : Partition) (k : Nat) : Nat := p.syspage / 8 + k

/-- A host write to MBOXk at the mailbox's home. -/
def mboxStore (p : Partition) (k v : Nat) (s : State) : State :=
  if (viewOf (mboxWord p k) s).fe then
    setHost (fun h => { h with mbovf := h.mbovf ||| BitVec.ofNat 64 (2 ^ k) }) s
  else putWord p.n (8 * mboxWord p k) v s

/-- A host write of 8 bytes to BAR0: an aligned one to a mailbox or to MBOVF has an effect, any other changes nothing. -/
def barWrite (off v : Nat) (s : State) : State :=
  match hostPart s with
  | none => s
  | some p =>
    if off % 8 ≠ 0 then s
    else if off < 512 then mboxStore p (off / 8) v s
    else if off = 0x208 then setHost (fun h => { h with mbovf := h.mbovf &&& ~~~(BitVec.ofNat 64 v) }) s
    else s

/-- What a host read of 8 bytes of BAR0 finds: a mailbox word, MBFULL or MBOVF. No rule gives the value of another offset,
nor of a mailbox whose line fails. -/
def barRead (off : Nat) (s : State) : Option Nat :=
  match hostPart s with
  | none => none
  | some p =>
    if off % 8 ≠ 0 then none
    else if off < 512 then
      let w := mboxWord p (off / 8)
      if (failCause p.n w s).isNone then some (viewVal (viewOf w s)) else none
    else if off = 0x200 then some (ofBits (fun k => (viewOf (mboxWord p k) s).fe) 64)
    else if off = 0x208 then some s.host.mbovf.toNat
    else none

/-- A host read of BAR0 completes with its value, a free one where no rule gives it (log 103). -/
def barAnswer (off : Nat) (s : State) : State :=
  match barRead off s with
  | some v => answer (.word (BitVec.ofNat 64 v)) s
  | none => answer (.word (Config.barWord s.free)) { s with free := s.free + 1 }

/-- A host memory request to BAR0, a write of a value or a read, handled under the interface's state (R342). -/
def barAccess (off : Nat) (v : Option Word) (s : State) : State :=
  match s.host.iface, v with
  | .run, some v => barWrite off v.toNat s
  | .run, none => barAnswer off s
  | .quiesced, some _ => s
  | .quiesced, none => barAnswer off s
  | _, _ => answer .unsupported s

/-! ### States of the interface (R341 to R343) -/

/-- Harts parked on HOST accesses present their instructions again. -/
def freeParked (h : Hart) : Hart :=
  match h.stat with
  | .hostPark _ _ _ => h.present [] []
  | _ => h

/-- Host reads that are still due land as zero, with INT.ERROR; host writes count as applied (R342). -/
def dropHostReq (s : State) (r : Req) : State :=
  match r.op with
  | .hostRead _ a =>
    sendError (((pendOf r s).map fun p => p.route).getD r.src) a (reply r 0 [] s)
  | .hostWrite _ _ _ _ => ack r s
  | _ => s

/-- An engine that waits for the host looks at its unit again. -/
def Engine.asksAgain (e : Engine) : Engine :=
  { e with ats := e.ats.filter fun x => decide (3 ≤ x.2) }

/-- Every engine does. -/
def freeEngines (s : State) : State :=
  { s with tiles := s.tiles.map fun t => (t.1, { t.2 with copy := t.2.copy.asksAgain, quant := t.2.quant.asksAgain }) }

/-- The interface changes state: on leaving for ERROR or CONFIG_UNLOCKED the port drops what it holds; an
activation does not outlast QUIESCED (R358). -/
def setIface (i : Iface) (s : State) : State :=
  let closes := i == .error || i == .unlocked
  let s := if closes then
      let s := s.reqs.foldl dropHostReq s
      signalAll .completion { s with reqs := s.reqs.filter fun r => !reqHost r.op }
    else s
  let s := setHost (fun h => { h with
    iface := i, draining := false, atc := if closes then [] else h.atc }) s
  let s := if i = .quiesced then s else setTrust (fun t => { t with actpend := false }) s
  modAll freeParked (freeEngines s)

/-- A locked interface meets what it does not allow. -/
def ifaceError (s : State) : State :=
  match s.host.iface with
  | .locked | .run | .quiesced => setIface .error s
  | _ => s

/-- The stop of R342. -/
def ifaceStop (s : State) : State :=
  let s := match hostPart s with
    | some p => closePart p s
    | none => s
  setIface .unlocked s

/-- LOCK_INTERFACE_REQUEST: the nonce is a free value. -/
def ifaceLock (s : State) : State :=
  if s.host.iface = .unlocked ∧ s.host.ideKeys = true ∧ (hostPart s).isSome = true then
    let n := Config.nonce s.free
    setIface .locked (setHost (fun h => { h with nonce := n, answer := .nonce n }) { s with free := s.free + 1 })
  else refuse s

def ifaceStart (nonce : BitVec 256) (s : State) : State :=
  if s.host.iface = .locked ∧ nonce = s.host.nonce then setIface .run s else refuse s

def ifaceQuiesce (s : State) : State :=
  if s.host.iface = .run then setHost (fun h => { h with draining := true }) s else refuse s

/-- A host read of the device has not received its completion. -/
def hostReadsDue (s : State) : Bool :=
  s.reqs.any fun r => match r.op with
    | .hostRead _ _ => true
    | _ => false

def ifaceDrained (s : State) : State :=
  if s.host.iface = .run ∧ s.host.draining = true ∧ hostReadsDue s = false then setIface .quiesced s else s

def ifaceResume (s : State) : State :=
  if s.host.iface = .quiesced then setIface .run s else refuse s

/-! ### Sessions and keys (R332, R340) -/

/-- Life-cycle states in which the security block serves more than one kind of request (R338). -/
def servesAll (l : LifeCycle) : Bool :=
  match l with
  | .provider | .leased | .recovery => true
  | .blank | .retired => false

def openSession (s : State) : State :=
  if servesAll s.trust.life then setHost (fun h => { h with session := true }) s else refuse s

def setIdeKeys (s : State) : State :=
  if s.host.session then setHost (fun h => { h with ideKeys := true }) s else refuse s

/-- A tamper stop (R335): the partition of the key id is closed at once. -/
def tamper (key : Nat) (s : State) : State :=
  match s.parts.find? fun p => p.n == key with
  | none => s
  | some p => if p.hostf then ifaceError (closePart p s) else closePart p s

/-! ### Reports and measurements (R344 to R346, R353) -/

def lifeCode (l : LifeCycle) : Nat :=
  match l with
  | .blank => 0
  | .provider => 1
  | .leased => 2
  | .recovery => 3
  | .retired => 4

def imageVersion (i : Option Image) : Nat := (i.map fun x => x.version).getD 0

/-- The 16 bytes of DEVICE_SPECIFIC_INFO. -/
def deviceInfo (s : State) : List Nat :=
  let n := (hostPart s).map fun p => (p.n, (partTiles p s).length)
  let num (v k : Nat) : List Nat := (List.range k).map fun i => field v (8 * i) 8
  [(n.map fun x => x.1).getD 0, lifeCode s.trust.life] ++ num ((n.map fun x => x.2).getD 0) 2 ++
    num (imageVersion s.trust.active) 4 ++ num (imageVersion s.trust.activeTenant) 4 ++ [0, 0, 0, 0]

/-- The TDISP report: the five capabilities of INTERFACE_INFO, the three zero controls, the number of MMIO ranges, range 0 as
offset, pages and the attributes TEE memory and MSI-X, and DEVICE_SPECIFIC_INFO. -/
def interfaceReport (s : State) : State :=
  if servesAll s.trust.life then
    answer (.report ([1, 1, 1, 1, 0] ++ [0, 0, 0] ++ [1] ++ [0, 1, 1, 0] ++ deviceInfo s)) s
  else refuse s

/-- The digest of an image, which the model holds by its name (log 14), or none. -/
def imageData (k : Nat) (i : Option Image) : BitVec 256 :=
  match i with
  | some x => Config.digest [k, x.id, x.version]
  | none => if k = 3 then 0 else Config.digest [k]

/-- The bytes of words, lowest first (R3). -/
def bytesOfWords (l : List Nat) : List Nat := l.flatMap fun w => (List.range 8).map fun i => field w (8 * i) 8

/-- The bytes of the boot ROM of a die (R295). -/
def romBytes : List Nat := (List.range (2 ^ 18)).map fun i => (Config.romByte i).toNat

/-- Block 5: words 0 to 5 of the descriptor of the HOSTF partition. Without one no rule gives it (log 14). -/
def descriptorDigest (s : State) : BitVec 256 :=
  match hostPart s with
  | some p => sha3 (bytesOfWords ((List.range 6).map fun k => pdWord p.n k s))
  | none => Config.digest [5]

/-- Block 6: the FENCE area. -/
def fenceDigest (s : State) : BitVec 256 :=
  sha3 (bytesOfWords ((List.range 128).map fun i => pageGet (0x1000 + 8 * i) s))

/-- Block 4 (R345). -/
def rawBlock (s : State) : List Nat :=
  let num (v : Nat) : List Nat := (List.range 4).map fun i => field v (8 * i) 8
  [lifeCode s.trust.life, bit s.trust.actpend, 0, 0] ++ num (imageVersion s.trust.active) ++
    num (imageVersion s.trust.activeTenant) ++ [0, 0, 0, 0]

/-- The measurement blocks as one snapshot; in BLANK nothing but provisioning is served. -/
def measure (sign : Bool) (s : State) : State :=
  if s.trust.life = .blank then refuse s
  else
    let blocks := [sha3 romBytes, imageData 2 s.trust.active, imageData 3 s.trust.activeTenant, descriptorDigest s,
      fenceDigest s]
    let raw := rawBlock s
    let sig := if sign then some (Config.signature ((blocks.map fun b => b.toNat) ++ raw)) else none
    answer (.measurements blocks raw sig) s

/-- GET_BOOT_STATUS: the dies of the package of the host port. -/
def bootStatus (s : State) : State :=
  answer (.bootStatus ((List.range 4).map fun d => (getDie d s).boot)) s

/-! ### Resets and the life cycle (R339, R353, R356) -/

/-- A reset (R353): everything but the fuses, the flash and the last scrub record, and but what lies outside the
device; every key set is new. -/
def resetDevice (s : State) : State :=
  let t := s.trust
  let r := State.afterReset s.pkgs s.cxl { t with
    fwGen := t.genNext, genNext := t.genNext + 1, active := none, activeTenant := none, actpend := false,
    scrubbing := false }
  { r with choices := s.choices, free := s.free, host := { r.host with sent := s.host.sent } }

/-- A transition of the life cycle: keys, partitions, interface and storage are as after a reset (log 31). -/
def lifeChange (l : LifeCycle) (s : State) : State := resetDevice (setTrust (fun t => { t with life := l }) s)

/-- A token is accepted: it is signed, for this device and newer than the last (R339). -/
def tokenOk (ok : Bool) (dev : BitVec 256) (ctr : Nat) (s : State) : Bool :=
  ok && dev == Config.deviceHash && decide (s.trust.counter < ctr)

/-- A token moves the life cycle from one state to another. -/
def useToken (ok : Bool) (dev : BitVec 256) (ctr : Nat) (src : LifeCycle) (dst : LifeCycle) (also : Bool)
    (f : Trust → Trust) (s : State) : State :=
  if tokenOk ok dev ctr s && s.trust.life == src && also then
    lifeChange dst (setTrust (fun t => { f t with counter := ctr }) s)
  else refuse s

/-! ### The lease scrub (R357) -/

/-- Every partition is closed, without the BUSY check. -/
def closeAll (s : State) : State := s.parts.foldl (fun s p => closePart p s) s

/-- A scrub begins: keys and partitions go first. -/
def beginScrub (s : State) : State :=
  setTrust (fun t => { t with
    scrubbing := true, scrubDone := false, scrubStart := s.time, scrubFrom := lifeCode t.life }) (closeAll s)

def startScrub (ok : Bool) (dev : BitVec 256) (ctr : Nat) (s : State) : State :=
  if tokenOk ok dev ctr s && servesAll s.trust.life && !s.trust.scrubbing then
    beginScrub (setTrust (fun t => { t with counter := ctr }) s)
  else refuse s

/-- The recovery message (R356): a reset into RECOVERY, and a scrub. -/
def recover (ok : Bool) (ctr : Nat) (s : State) : State :=
  if ok && servesAll s.trust.life && decide (s.trust.recCounter < ctr) then
    beginScrub (lifeChange .recovery (setTrust (fun t => { t with recCounter := ctr }) s))
  else s

/-- The lines of memory that the domain holds: 480 GiB a package, and the CXL tier. -/
def lineCount (s : State) : Nat := s.pkgs * ((480 * gib + s.cxl) / 64)

/-- The failed channels of the domain. -/
def failedChannels (s : State) : Nat :=
  (List.range 128).foldl (fun n i => n + popCount (failmap i s) 32) 0

/-- Fields as bytes, each of its size, low byte first (R3). -/
def recordBytes (l : List (Nat × Nat)) : List Nat :=
  l.flatMap fun x => (List.range x.2).map fun i => field x.1 (8 * i) 8

/-- The 128 bytes of the record of a scrub, and the signature over their digest (R357). -/
def scrubRecord (clean : Bool) (s : State) : List Nat × Nat :=
  let t := s.trust
  let next := if t.scrubFrom = 2 ∨ t.scrubFrom = 3 then 1 else t.scrubFrom
  let r := recordBytes [(Config.deviceHash.toNat, 32), (t.scrubCount + 1, 8), (t.scrubFrom, 1), (next, 1), (0, 6),
    (t.scrubStart, 8), (s.time, 8), (lineCount s, 8), (Config.storageBytes, 8), (failedChannels s, 2),
    (s.fenced.length, 2), (bit !clean, 1), (0, 43)]
  (r, Config.signature [(sha3 r).toNat])

/-- A boot hart after a wipe of everything around it: its registers are those of a reset, and it goes on at its pc in its
mode (log 32). One that has retired stays so (R353). -/
def Hart.settled (h : Hart) : Hart :=
  { Hart.boot (dieOf h.nm) with
    pc := h.pc
    mode := h.mode
    epoch := h.epoch
    stat := match h.stat with
      | .booting n => .booting n
      | .retired => .retired
      | _ => .running }

/-- Every storage element is wiped; harts other than the boot harts end (R352, R357). The manager's page is renewed (log 39),
and the counters of the firmware's key go on, as its set is not destroyed (R334). -/
def wipeAll (s : State) : State :=
  let boot (h : Hart) : Bool := h.nm % 2 ^ 16 == 0
  let t := keepLines (fun _ => false) { s with
    me := if present s.me && boot s.me then s.me.settled else { s.me with stat := .free }
    harts := (s.harts.filter fun h => present h && boot h).map Hart.settled
    care := { s.care with elogNext := 0 } }
  renewPage s { t with
    migs := [], reqs := [], pends := [], acks := [], msgs := [], ipis := [], enqs := [], misses := [], wake := [],
    logs := [], pendw := [], cells := [], tiles := [], spans := [], host := { t.host with atc := [], mbovf := 0 },
    seals := t.seals.filter fun x => x.1 % 32 == 16,
    dies := t.dies.map fun d => (d.1, { d.2 with ranges := [] }) }

/-- In RECOVERY, the provider image has booted and a scrub is complete: the state becomes PROVIDER (R339). -/
def recovered (s : State) : State :=
  if s.trust.life = .recovery ∧ s.trust.scrubDone = true ∧ (getDie 0 s).boot.toNat % 16 = 6 then
    lifeChange .provider s
  else s

def endScrub (clean : Bool) (s : State) : State :=
  if s.trust.scrubbing then
    let r := scrubRecord clean s
    recovered (setTrust (fun t => { t with
      scrubbing := false, scrubDone := clean, scrubCount := t.scrubCount + 1, scrubRec := some r,
      flashTenant := none, staging := none }) (wipeAll s))
  else s

def giveRecord (s : State) : State :=
  match s.trust.scrubRec with
  | some (r, sig) => if servesAll s.trust.life then answer (.scrubRecord r sig) s else refuse s
  | none => refuse s

/-! ### Activation (R346, R358) -/

/-- ACTIVATE names a staged image. -/
def activate (tenant : Bool) (s : State) : State :=
  if s.host.iface = .quiesced ∧ (s.trust.staging.any fun i => i.tenant == tenant) = true then
    setTrust (fun t => { t with actpend := true }) s
  else refuse s

/-- A staged image may become active: its signature, and a version no lower than the current one. -/
def imageOk (i : Image) (t : Trust) : Bool :=
  i.good && decide (imageVersion (if i.tenant then t.activeTenant else t.active) ≤ i.version)

def setVector (v : BitVec 44) (h : Hart) : Hart := { h with fb := { h.fb with base := v } }

/-- The commit point: image and digest switch and ACTPEND clears in one step, with FWTVEC of every hart. -/
def commitImage (s : State) : State :=
  match s.trust.staging with
  | none => s
  | some i =>
    if s.trust.actpend && s.host.iface == .quiesced && imageOk i s.trust then
      let s := setTrust (fun t => { t with
        actpend := false
        active := if i.tenant then t.active else some i
        activeTenant := if i.tenant then some i else t.activeTenant }) s
      modEvery (setVector i.vec) s
    else s

/-- The verification of the staged image fails. -/
def abandonImage (s : State) : State :=
  if s.trust.staging.all fun i => !imageOk i s.trust then setTrust (fun t => { t with actpend := false }) s else s

/-! ### One meaning for each event -/

/-- R323, R342: A host write of 8 bytes to BAR0, or a read. -/
def execMboxWrite (off : BitVec 12) (v : Option (BitVec 64)) (s : State) : Out := .next (barAccess off.toNat v s)
/-- R323: A host write to MBOVF. -/
def execMbovfClear (v : BitVec 64) (s : State) : Out := .next (barAccess 0x208 (some v) s)
/-- R335: A tamper stop. -/
def execTamperStop (key : BitVec 5) (s : State) : Out := .next (tamper key.toNat s)
/-- R340: KEY_EXCHANGE. -/
def execKeyExchange (s : State) : Out := .next (openSession s)
/-- R332: IDE_KM. -/
def execIdeKm (s : State) : Out := .next (setIdeKeys s)
/-- R332: The link is reset. -/
def execLinkReset (s : State) : Out := .next (setHost (fun h => { h with ideKeys := false }) s)
/-- R332: The session ends. -/
def execSessionEnd (s : State) : Out :=
  .next (setHost (fun h => { h with session := false, ideKeys := false }) s)
/-- R341: LOCK_INTERFACE_REQUEST. -/
def execLockInterfaceRequest (s : State) : Out := .next (ifaceLock s)
/-- R341: START_INTERFACE_REQUEST. -/
def execStartInterfaceRequest (nonce : BitVec 256) (s : State) : Out := .next (ifaceStart nonce s)
/-- R342: STOP_INTERFACE_REQUEST. -/
def execStopInterfaceRequest (s : State) : Out := .next (ifaceStop s)
/-- R342: A function-level reset. -/
def execFlr (s : State) : Out := .next (ifaceStop s)
/-- R343: QUIESCE. -/
def execQuiesce (s : State) : Out := .next (ifaceQuiesce s)
/-- R343: The drain is complete. -/
def execQuiesceDrainDone (s : State) : Out := .next (ifaceDrained s)
/-- R341: RESUME. -/
def execResume (s : State) : Out := .next (ifaceResume s)
/-- R341: A write to a locked control. -/
def execConfigWrite (s : State) : Out := .next (ifaceError s)
/-- R341: An IDE integrity failure. -/
def execIdeIntegrityFailure (s : State) : Out := .next (ifaceError s)
/-- R344: GET_DEVICE_INTERFACE_REPORT. -/
def execGetDeviceInterfaceReport (s : State) : Out := .next (interfaceReport s)
/-- R345: GET_MEASUREMENTS. -/
def execGetMeasurements (sign : Bool) (s : State) : Out := .next (measure sign s)
/-- R353: GET_BOOT_STATUS. -/
def execGetBootStatus (s : State) : Out := .next (bootStatus s)
/-- R339: A provisioning token. -/
def execProvisioningToken (ok : Bool) (dev : BitVec 256) (ctr : Nat) (provider : BitVec 256) (s : State) : Out :=
  .next (useToken ok dev ctr .blank .provider true (fun t => { t with providerHash := some provider }) s)
/-- R339: A lease-start token. -/
def execLeaseStartToken (ok : Bool) (dev : BitVec 256) (ctr : Nat) (s : State) : Out :=
  .next (useToken ok dev ctr .provider .leased true (fun t => { t with scrubDone := false }) s)
/-- R339: A lease-end token. -/
def execLeaseEndToken (ok : Bool) (dev : BitVec 256) (ctr : Nat) (s : State) : Out :=
  .next (useToken ok dev ctr .leased .provider s.trust.scrubDone id s)
/-- R339: A retire token. -/
def execRetireToken (ok : Bool) (dev : BitVec 256) (ctr : Nat) (s : State) : Out :=
  .next (useToken ok dev ctr .provider .retired true id s)
/-- R356: The recovery message. -/
def execRecoveryMessage (ok : Bool) (ctr : Nat) (s : State) : Out := .next (recover ok ctr s)
/-- R357: START_SCRUB. -/
def execStartScrub (ok : Bool) (dev : BitVec 256) (ctr : Nat) (s : State) : Out := .next (startScrub ok dev ctr s)
/-- R357: A lease scrub ends. -/
def execLeaseScrubComplete (clean : Bool) (s : State) : Out := .next (endScrub clean s)
/-- R357: GET_SCRUB_RECORD. -/
def execGetScrubRecord (s : State) : Out := .next (giveRecord s)
/-- R358: ACTIVATE. -/
def execActivate (tenant : Bool) (s : State) : Out := .next (activate tenant s)
/-- R346: The commit point of an activation. -/
def execActivationCommit (s : State) : Out := .next (commitImage s)
/-- R358: An activation is abandoned. -/
def execActivationAbandoned (s : State) : Out := .next (abandonImage s)
/-- R353: A reset. -/
def execDeviceReset (s : State) : Out := .next (resetDevice s)

end Sys2Proof.Machine
end

