-- ==== Sys2Proof/Machine/Boot.lean ====
section
/-! DEFINITION. The boot ROM's steps (R353), and memory care: row trackers, scrubbers and the switch to full service
(R347 to R351, R359). -/

namespace Sys2Proof.Machine

open Sys2Proof

/-! ### Boot (R353) -/

/-- The boot hart of a die. -/
def bootHart (die : Nat) (s : State) : Option Hart := hartAt (die * 2 ^ 16) s

/-- The boot status word: STEP, FAILED and REASON. -/
def bootWord (step : Nat) (failed : Bool) (reason : Nat) : Word := BitVec.ofNat 64 (step + 16 * bit failed + 256 * reason)

def setBoot (die step : Nat) (failed : Bool) (reason : Nat) (s : State) : State :=
  setDie die { getDie die s with boot := bootWord step failed reason } s

/-- A boot ends: the word is written and the hart retires. -/
def endBoot (die step : Nat) (failed : Bool) (reason : Nat) (s : State) : State :=
  modHart (die * 2 ^ 16) (fun h => { unbindAll h with stat := .retired }) (setBoot die step failed reason s)

/-- The image of step 4, or the reason it does not start. -/
def bootImage (t : Trust) : Nat ⊕ Image :=
  match t.flashProvider with
  | none => .inl 4
  | some i => if !i.good then .inl 5 else if i.version < t.minVersion then .inl 6 else .inr i

/-- The address at which the provider image is entered: bit 0 of a pc is always 0 (R131). -/
def providerPc : Addr := BitVec.ofNat 54 (clearLow Config.providerEntry.toNat 1)

/-- The end of step 5 on die 0: BFCTL.LOCK is set and the provider image is entered in firmware mode; a leased device runs
tenant firmware after it (R338). -/
def enterImage (s : State) : State :=
  let s := pageSet 0x2030 (pageGet 0x2030 s ||| 1) s
  let s := setBoot 0 6 false 0 (setTrust (fun t => { t with
    active := t.flashProvider
    activeTenant := if t.life = .leased then t.flashTenant else none }) s)
  recovered (modHart 0 (fun h => { h with stat := .running, pc := providerPc }) s)

/-- The ROM's hart of a die goes on (R353): its word shows each step as it begins, and the fuses or the wipe may fail, which
is free. States 0 to 2 are steps 1 and 2, up to the training; 5 to 8 are steps 3 to 5, of die 0 only. -/
def romStep (die n : Nat) (s : State) : State :=
  let t := { s with free := s.free + 1 }
  let goOn (k : Nat) (s : State) : State := modHart (die * 2 ^ 16) (fun h => { h with stat := .booting k }) s
  match n with
  | 0 => goOn 1 (setBoot die 1 false 0 s)
  | 1 => if Config.fuseFails s.free then endBoot die 1 true 1 t else goOn 2 (setBoot die 2 false 0 t)
  | 2 => if Config.wipeFails s.free then endBoot die 2 true 2 t else goOn 3 t
  | 5 => goOn 6 (setBoot die 3 false 0 s)
  | 6 =>
    if s.trust.life = .blank ∨ s.trust.life = .retired then endBoot die 3 false 7 s
    else goOn 7 (setBoot die 4 false 0 s)
  | 7 => match bootImage s.trust with
    | .inl reason => endBoot die 4 true reason s
    | .inr _ => goOn 8 (setBoot die 5 false 0 s)
  | 8 => enterImage s
  | _ => s

/-- A stack is trained (R348, R359): channels that failed are marked, and its first scrub pass begins. -/
def stackTrained (die stack failed : Nat) (s : State) : State :=
  let d := getDie die s
  failChannels (2 * die + stack) failed (setScrub (2 * die + stack) ⟨0, s.cycle, false, 0, []⟩
    (setDie die (if stack = 0 then { d with trained0 := true } else { d with trained1 := true }) s))

/-- The training of a stack ends (R348, R353, R359). Stack 0 lets its die's boot go on, and fails it if the stack as a
whole fails (`failed` is none); channels that fail are marked. The result of a stack other than die 0's first is reported
once that stack holds the page. -/
def trained (die stack : Nat) (failed : Option Nat) (s : State) : State :=
  let d := getDie die s
  if die != 0 && !pageStands s then s
  else if stack = 0 then
    match bootHart die s with
    | none => s
    | some h =>
      if h.stat != .booting 3 then s
      else match failed with
        | none => endBoot die 2 true 3 s
        | some f =>
          if die = 0 then
            modHart 0 (fun h => { h with stat := .booting 5 }) (failChannels 0 f (initPage (stackTrained 0 0 0 s)))
          else modHart (die * 2 ^ 16) (fun h => { h with stat := .booting 4 }) (stackTrained die 0 f s)
  else if d.trained1 || !pageStands s || decide (4 * s.pkgs ≤ die) then s
  else stackTrained die 1 (failed.getD (2 ^ 32 - 1)) s

/-- The ROM of a waiting die takes a message: an even address that names memory starts it, any other is dropped. -/
def startDie (die : Nat) (s : State) : State :=
  match bootHart die s with
  | none => s
  | some h =>
    if die != 0 && h.stat == .booting 4 && h.rxFull then
      let a := h.rx.toNat
      let s := modHart h.nm (fun h => { h with rxFull := false }) s
      if a % 2 = 0 ∧ namesMemory a s = true then
        modHart h.nm (fun h => { h with stat := .running, pc := BitVec.ofNat 54 a }) (setBoot die 6 false 0 s)
      else s
    else s

/-! ### Row trackers (R349) -/

/-- RDTH and BLAST. -/
def rdth (s : State) : Nat := pageGet 0x2010 s % 2 ^ 16
def blast (s : State) : Bool := bitAt (pageGet 0x2010 s) 16

/-- One activation in the entries of a tracker. -/
def trackRow (row : Nat) (rows : List (Nat × Nat)) : List (Nat × Nat) :=
  match lookupNat row rows with
  | some n => updateNat row (some (n + 1)) rows
  | none =>
    if rows.length < 32 then updateNat row (some 1) rows
    else (rows.map fun e => (e.1, e.2 - 1)).filter fun e => e.2 != 0

/-- The rows at a distance from a row; below row 0 there is none. -/
def rowsNear (row k : Nat) : List Nat := (if k ≤ row then [row - k] else []) ++ [row + k]

/-- A row of a bank is activated: at the threshold its neighbours are refreshed. Whether an earlier refresh is still
outstanding then is a free value. -/
def activateRow (bank row : Nat) (s : State) : State :=
  let t := (lookupNat bank s.care.trackers).getD ⟨[], false⟩
  let rows := trackRow row t.rows
  if lookupNat row rows = some (rdth s) then
    let near := rowsNear row 1 ++ (if blast s then rowsNear row 2 else [])
    let busy := t.refreshing && Config.refreshing s.free
    let t := { t with rows := updateNat row (some 0) rows, refreshing := true }
    let s := { s with
      free := s.free + 1
      care := { s.care with
        trackers := updateNat bank (some t) s.care.trackers
        refreshes := s.care.refreshes ++ near.map fun r => (bank, r) } }
    if busy then logEvent 4 (Config.bankStack bank) (Config.rowAddress bank row) s else s
  else { s with care := { s.care with trackers := updateNat bank (some { t with rows := rows }) s.care.trackers } }

/-- A refresh window starts: every entry is freed. -/
def newWindow (s : State) : State :=
  { s with care := { s.care with trackers := [], refreshes := [] } }

/-! ### Scrubbing (R350, R351) -/

/-- The lines of a stack of 64 GiB. -/
def stackLines : Nat := 2 ^ 30

/-- The stacks of a domain, by FAILMAP's index. -/
def stacksOf (s : State) : List Nat := List.range (8 * s.pkgs)

/-- The passes that every stack has completed. -/
def passesDone (s : State) : Nat :=
  match (stacksOf s).map fun k => (scrubOf k s).passes with
  | [] => 0
  | n :: l => l.foldl min n

/-- PASSES of MCSTAT. -/
def notePasses (s : State) : State :=
  let old := pageGet 0x2000 s
  let n := passesDone s % 2 ^ 32
  if field old 16 32 = n then s else pagePut 0x2000 (old % 2 ^ 16 + n * 2 ^ 16) s

/-- Is a stack of the domain trained, so that its scrubber runs (R351, R359)? -/
def scrubs (k : Nat) (s : State) : Bool :=
  let d := getDie (k / 2) s
  pageStands s && decide (k < 8 * s.pkgs) && (if k % 2 = 0 then d.trained0 else d.trained1)

/-- The cycle at which the pass of a stack is due (R351). -/
def scrubDue (k : Nat) (s : State) : Nat := (scrubOf k s).start + pageGet 0x2020 s % 2 ^ 32 * 2 ^ 20

/-- A pass is unfinished at its deadline: LATE, and INT.ERROR to NOTIFY, once in a pass (R351). -/
def markLate (k : Nat) (s : State) : State :=
  if (scrubOf k s).escalated then s
  else
    let s := pagePut 0x2000 (pageGet 0x2000 s ||| 2) s
    notify 0 (setScrub k { scrubOf k s with escalated := true } s)

/-- The scrubber reads a line of its stack (R350): one that is wiped, or that no line of memory is, is skipped; one that
parity rebuilds is repaired; one that stays uncorrectable is logged. Tags are not checked. -/
def scrubRead (k l : Nat) (s : State) : State :=
  if !isHbm l || stackOf l s != k || !namesMemory (64 * l) s || (getSide s.mem l).wiped then s
  else if eccFails l s && rebuilds l s then repairLine l s
  else if uncorrectable l s then logEvent 1 k (64 * l) (countFailing l s)
  else s

/-- The scrubber of a stack handles its next line; after the last one the next pass starts (R351). -/
def scrubNext (k : Nat) (s : State) : State :=
  if !scrubs k s then s
  else
    let s := if scrubDue k s ≤ s.cycle then markLate k s else s
    let s := scrubRead k (Config.stackLine k (scrubOf k s).pos) s
    let v := scrubOf k s
    if v.pos + 1 < stackLines then setScrub k { v with pos := v.pos + 1 } s
    else notePasses (setScrub k ⟨0, s.cycle, false, v.passes + 1, []⟩ s)

/-- The deadline of a stack's pass comes before its end. -/
def scrubLate (k : Nat) (s : State) : State :=
  if scrubs k s && !(scrubOf k s).escalated then markLate k { s with cycle := max s.cycle (scrubDue k s) } else s

/-- Does a unit of a tile still work? -/
def tileBusy (t : Tile) : Bool := !(t.fills.isEmpty && t.mq.isEmpty && t.semv.isEmpty && t.semHeld.isEmpty)

/-- What a wipe clears beside memory and the harts (R352): commons, TLBs, operand memory, trace rings, task units and wake
tables; the harts registered there look again. -/
def wipeUnits (s : State) : State :=
  { (s.wake.map fun e => e.line).foldl (fun s l => wakeLine l s) s with
    cells := s.cells.map fun c => (c.1, { c.2 with commons := 0, cbad := 0, tlb := [] })
    tiles := []
    logs := []
    pendw := []
    dies := s.dies.map fun d => (d.1, { d.2 with ranges := [] }) }

/-- Full service begins (R359): training and first passes are complete, every partition is closed and no unit of a tile
works; memory, pans and units are wiped, and the page is renewed with FULL set. -/
def fullService (s : State) : State :=
  let ready := (List.range (4 * s.pkgs)).all fun d => (getDie d s).trained0 && (getDie d s).trained1
  if !s.care.full && ready && decide (1 ≤ passesDone s) && s.parts.isEmpty && !(s.tiles.any fun t => tileBusy t.2) then
    let t := keepLines (fun _ => false) (wipeUnits { s with care := { s.care with full := true, elogNext := 0 } })
    let t := renewPage s t
    pagePut 0x2000 (pageGet 0x2000 t ||| 1) t
  else s

/-! ### One meaning for each event -/

/-- R353: The training of a stack ends. -/
def execHbmTrainingComplete (die : BitVec 6) (stack : BitVec 1) (failed : Option (BitVec 32)) (s : State) : Out :=
  .next (trained die.toNat stack.toNat (failed.map fun f => f.toNat) s)
/-- R353: A waiting die takes a start message. -/
def execDieStart (die : BitVec 6) (s : State) : Out := .next (startDie die.toNat s)
/-- R349: A row is activated. -/
def execRowActivation (bank row : Nat) (s : State) : Out := .next (activateRow bank row s)
/-- R349: A refresh window starts. -/
def execRefreshWindow (s : State) : Out := .next (newWindow s)
/-- R350: The scrubber of a stack handles a line. -/
def execScrubLine (stack : BitVec 7) (s : State) : Out := .next (scrubNext stack.toNat s)
/-- R351: A scrub pass misses its deadline. -/
def execScrubDeadline (stack : BitVec 7) (s : State) : Out := .next (scrubLate stack.toNat s)
/-- R359: Full service begins. -/
def execFullServiceSwitch (s : State) : Out := .next (fullService s)

end Sys2Proof.Machine
end

