-- ==== Sys2Proof/Machine/Matrix.lean ====
section
/-! DEFINITION. Operand memory, the matrix unit and semaphores (R227 to R244): the stage and matrix
instructions, and the ends of the fills, products, clears and reads that they start. -/

namespace Sys2Proof.Machine

open Sys2Proof

/-! ### Slots (R227, R228) -/

/-- K of a slot format (R228). -/
def slotK (fmt : Nat) : Nat :=
  match fmtKind fmt with
  | .planes k _ => if k = 2 then 1024 else if k ≤ 4 then 512 else 256
  | .plain t => if t.width = 4 then 512 else if t.width ≤ 8 then 256 else if t.width = 16 then 128 else 32
  | .mx t _ => if t.width = 4 then 512 else 256
  | _ => 0

def getSlot (t : Tile) (k : Nat) : Slot := nth t.slots k Slot.init

def modSlot (k : Nat) (f : Slot → Slot) (t : Tile) : Tile := { t with slots := t.slots.modify k f }

/-- The tile of the hart with the turn, and a change of it. -/
def myTile (s : State) : Nat := tileOf s.me.nm

def modMyTile (f : Tile → Tile) (s : State) : State := setTile (myTile s) (f (getTile (myTile s) s)) s

/-- The code of an element, none where it is absent. -/
def slotElem (v : Slot) (x k : Nat) : Option Nat :=
  match lookupNat (x * 1024 + k) v.elems with
  | some (some c) => some c.toNat
  | _ => none

/-- The scale of row x, group g (R227). -/
def slotScale (v : Slot) (x g : Nat) : Nat := ((lookupNat (x * 32 + g) v.scales).getD v.scaleAll).toNat

/-! ### Checks -/

/-- A failed check: its cause and value. -/
abbrev Chk := Option (Cause × Nat)

def chk (ok : Bool) (c : Cause) (t : Nat) : Chk := if ok then none else some (c, t)

/-- The first failed check. -/
def firstChk : List Chk → Chk
  | [] => none
  | none :: l => firstChk l
  | some c :: _ => some c

/-- An instruction with a wait and checks of its own between those of R144 and its issue. -/
def checked (g : Gate) (wait : Option State) (c : Chk) (eff : State → State) (s : State) : State :=
  match gate g s with
  | some s' => s'
  | none => match wait with
    | some s' => s'
    | none => match c with
      | some (e, t) => cause e t s
      | none => eff (advance g s)

/-- The gate of a stage or matrix instruction: it may not stand in a transaction (R121). -/
def unitGate (i : Instr) (e : ExtSet) (needs : List Need) (tgts : List Tgt) : Gate :=
  { plainGate i needs tgts with set := e, bars := true }

/-- A slot that a stage instruction may write: CLAIMED and unpinned (R234, R236). -/
def slotOpen (v : Slot) : Bool := v.state == .claimed && v.pins == 0

/-! ### Claiming and releasing (R232, R233) -/

/-- `mclaim`. -/
def opMclaim (i : Instr) (f : Nat) (d : Byte) (s : State) : State :=
  let g := unitGate i .S [] [dstTgt .d .D d s.me]
  let t := getTile (myTile s) s
  let k := t.slots.findIdx fun v => v.state == .free
  checked g (if k < 16 then none else some (waitOn [.opm (myTile s)] s)) none
    (fun u => writeOp .d .D d k (modMyTile
      (modSlot k fun v => { v with
        state := .claimed, fmt := f, elems := [], scaleAll := 0x7F, scales := [], bad := [], found := false }) u))
    s

/-- A slot becomes FREE: the occupancy word changes. -/
def freeSlotOf (tile k : Nat) (s : State) : State :=
  signalAll (.opm tile) (setTile tile (modSlot k (fun v => { v with state := .free, bad := [], found := false }) (getTile tile s)) s)

/-- The fills of a slot in flight. -/
def slotFills (t : Tile) (k : Nat) : List Nat := (t.fills.filter fun f => f.slot == k).map fun f => f.id

/-- `mrel`: a slot with fills in flight is RELEASING until the last one ends. -/
def opMrel (i : Instr) (a : Byte) (s : State) : State :=
  let k := (readOp .d .A a 0 s.me).1
  let t := getTile (myTile s) s
  let ok := decide (k < 16) && slotOpen (getSlot t k)
  checked (unitGate i .S [srcNeed .d .A a 0 s.me] []) none (chk ok cMtxSlot k)
    (fun u =>
      if (getSlot t k).fills = 0 then freeSlotOf (myTile s) k u
      else modMe (fun h => { h with rels := h.rels ++ slotFills t k })
        (modMyTile (modSlot k fun v => { v with state := .releasing }) u)) s

/-! ### Sources of fills (R234, R236, R361) -/

/-- Fields of a placement word (R231). -/
def plSlot (v : Nat) : Nat := field v 0 4
def plTr (v : Nat) : Bool := bitAt v 4
def plX0 (v : Nat) : Nat := field v 6 7
def plK0 (v : Nat) : Nat := field v 13 10

/-- What the translation of n units from an address on has found: the mappings, the first address missed, the first
fault (R234). -/
structure Cover where
  maps : List Mapping
  miss : Option Nat
  fault : Chk

/-- One more unit of a run. -/
def coverUnit (h : Hart) (s : State) (c : Cover) (b : Nat) : Cover :=
  if c.maps.any (fun m => covers m b) || decide (2 ^ 54 ≤ b) then c
  else match mappingOf h b s with
    | some m => { c with maps := c.maps ++ [m] }
    | none => match h.walkFaults.find? fun (_, x) => x == b with
      | some (k, _) => { c with fault := c.fault.or (some (walkCause k, b)) }
      | none => { c with miss := c.miss.or (some b) }

/-- Every translation of a run completes before any read. -/
def coverUnits (h : Hart) (a n : Nat) (s : State) : Cover :=
  (List.range n).foldl (fun c i => coverUnit h s c (a + i)) ⟨[], none, none⟩

/-- A hart parks on a missed address. -/
def parkOn (a : Nat) (s : State) : State :=
  parkMe (.missed a) s

/-- The first unit of a run whose page does not have a format that a test admits, or not the format of the first. -/
def badFmtUnit (l : List Mapping) (ok : Mapping → Bool) (a n : Nat) : Option Nat :=
  let f0 := (mapAt l a).map fun m => m.fmt
  ((List.range n).map fun i => a + i).find? fun b =>
    match mapAt l b with
    | some m => !ok m || some m.fmt != f0
    | none => true

/-- The capability's own-tile pan, if it names a pan (R234 check 4). -/
def capPan (h : Hart) (c : Cap) : Option Nat := if capSpace c = 0 then none else some (tileOf h.nm)

def spaceOk (h : Hart) (c : Cap) : Bool :=
  capSpace c ≤ 1 || (capSpace c == 2 && capTile c == tileOf h.nm)

/-- A source of n units of a format at an offset: a page of global space must pass a test, a pan must be decoded in a
format that passes one. -/
structure Source where
  cap : Cap
  off : Nat
  n : Nat
  fmt : Nat
  pageOk : Mapping → Bool
  panOk : Bool

/-- Checks 3 to 6 of R234 on a source, check 5 for every unit. -/
def sourceChk (h : Hart) (x : Source) (cov : Cover) : Chk :=
  let a := capPath x.cap + x.off
  firstChk [
    (capFault x.cap pR).map fun c => (c, a),
    chk (spaceOk h x.cap) cMemSpace a,
    chk ((List.range x.n).all fun i => unitInBlock x.cap x.fmt (x.off + i)) cCapBounds a,
    cov.fault,
    if capSpace x.cap = 0 then (badFmtUnit cov.maps x.pageOk a x.n).map fun b => (cMemFmt, b)
    else chk x.panOk cMemFmt a]

/-- What a global source has found, and the park of a miss: it comes after checks 1 to 4 (R234). -/
def sourceCover (h : Hart) (x : Source) (s : State) : Cover :=
  if capSpace x.cap = 0 then coverUnits h (capPath x.cap + x.off) x.n s else ⟨[], none, none⟩

def sourcePark (h : Hart) (x : Source) (early : Chk) (cov : Cover) (s : State) : Option State :=
  if early.isNone && (capFault x.cap pR).isNone && spaceOk h x.cap then cov.miss.map fun b => parkOn b s
  else none

/-- A fill is added to its slot (R234); it follows what its hart has issued and what its hart has seen, and
what the hart does later follows it (R106). -/
def addFill (k : Nat) (op : FillOp) (x : Source) (cov : Cover) (h : Hart) (s : State) : State :=
  let (i, s) := freshId s
  let f : Fill :=
    { id := i, slot := k, op := op, off := x.off, n := x.n, cap := x.cap, pan := capPan h x.cap, fmt := x.fmt,
      maps := cov.maps, key := keyFor h s, after := h.hist ++ h.out }
  modMe (fun h => { h with work := h.work ++ [i], hist := h.hist ++ [i] })
    (modMyTile (fun t => modSlot k (fun v => { v with fills := v.fills + 1 }) { t with fills := t.fills ++ [f] }) s)

/-- A numeric format (R234 check 6). -/
def fillFmt (f : Nat) : Bool := decide (32 ≤ f)

/-- `mfill`. -/
def opMfill (i : Instr) (b a : Byte) (s : State) : State :=
  let h := s.me
  let xm := getXm h 0
  let pl := (readOp .d .A a 0 h).1
  let off := (readOp .d .B b (sameStream a b) h).1
  let c := getCap h (field xm 0 4)
  let k := plSlot pl
  let v := getSlot (getTile (myTile s) s) k
  let sd := field xm 10 2
  let side := 32 * 2 ^ sd
  let range := sd != 3 && plX0 pl % 32 == 0 && plK0 pl % 32 == 0 && decide (plX0 pl + side ≤ 128) &&
    decide (plK0 pl + side ≤ slotK v.fmt)
  let early := firstChk [chk (slotOpen v) cMtxSlot k, chk range (cMtxRange 1) pl]
  let x : Source :=
    { cap := c, off := off, n := side * side, fmt := field xm 4 6,
      pageOk := fun m => fillFmt m.fmt && m.src != 3, panOk := fillFmt (field xm 4 6) }
  let cov := sourceCover h x s
  let needs := [srcNeed .d .A a 0 h, srcNeed .d .B b (sameStream a b) h, .cap (field xm 0 4)]
  checked (unitGate i .S needs []) (sourcePark h x early cov s) (firstChk [early, sourceChk h x cov])
    (addFill k (.square (plTr pl) (plX0 pl) (plK0 pl) side) x cov h) s

/-- `mscale`: with TR = 0 it reads no source. -/
def opMscale (i : Instr) (b a : Byte) (s : State) : State :=
  let h := s.me
  let xm := getXm h 0
  let pl := (readOp .d .A a 0 h).1
  let bv := (readOp .d .B b (sameStream a b) h).1
  let k := plSlot pl
  let v := getSlot (getTile (myTile s) s) k
  let early := firstChk [chk (slotOpen v) cMtxSlot k, chk (hasStrip v.fmt) cMtxFormat k]
  let needs := [srcNeed .d .A a 0 h, srcNeed .d .B b (sameStream a b) h]
  let x : Source :=
    { cap := getCap h (field xm 0 4), off := bv, n := 4 * slotK v.fmt, fmt := 0,
      pageOk := fun m => m.fmt == 0 && m.src != 3, panOk := true }
  if plTr pl then
    let cov := sourceCover h x s
    checked (unitGate i .S (needs ++ [.cap (field xm 0 4)]) []) (sourcePark h x early cov s)
      (firstChk [early, sourceChk h x cov]) (addFill k .scales x cov h) s
  else
    checked (unitGate i .S needs []) none early
      (addFill k (.uniform (BitVec.ofNat 8 bv)) { x with cap := Cap.null, off := 0, n := 0 } ⟨[], none, none⟩ h) s

/-! ### Fills (R235, R236, R337, R361) -/

/-- Does the source's unit pass unchanged (R235)? -/
def fillCopies (f : Fill) (tr : Bool) (src dst : Nat) : Bool :=
  src == dst && (!hasStrip src || f.pan.isSome ||
    ((capPath f.cap + f.off) % 1024 == 0 && (squareScale src || !tr)))

/-- One unit of a square: its element, with the scale that comes with it, or its absence; then the word that could
not be read. -/
def fillElem (f : Fill) (tr : Bool) (x0 k0 z : Nat) (v : Slot) (s : State) : Slot × Option Nat :=
  let r := rowOf z
  let q := colOf z
  let x := x0 + (if tr then q else r)
  let k := k0 + (if tr then r else q)
  let put (c : Option Nat) (v : Slot) : Slot :=
    { v with elems := (x * 1024 + k, c.map fun c => BitVec.ofNat 32 c) :: v.elems }
  match fillUnit f z with
  | none => (put none v, none)
  | some (frame, fmt, u, strip) =>
    if !unitInside f.cap (if f.pan.isSome then f.fmt else 0) (f.off + z) then (put none v, none)
    else
      let words := unitWords frame fmt u ++ (match strip with
        | some p => [scaleByte p fmt u / 8]
        | none => [])
      match badWord words f.key s with
      | some w => (put none v, some w)
      | none =>
        let c := unitCode f.key frame fmt u s
        let scale := strip.map fun p => scaleAt f.key p fmt u s
        if fillCopies f tr fmt v.fmt then
          let v := match scale with
            | some sc => { v with scales := updateNat (x * 32 + k / 32) (some (BitVec.ofNat 8 sc)) v.scales }
            | none => v
          (put (some c) v, none)
        else
          let val := match scale with
            | some sc => scaled (codeVal fmt c) sc
            | none => codeVal fmt c
          let d := slotScale v x (k / 32)
          let val := if d = 255 then .nan else scaleF val (127 - (d : Int))
          (put (some (codeOf v.fmt 0 0 val)) v, none)

/-- The bytes of an `mscale` from memory (R236): the scale of row x, group g is byte x × (K ÷ 32) + g. A byte that cannot be
read leaves its scale as it was (log 112). -/
def fillScale (f : Fill) (v : Slot) (i : Nat) (s : State) : Slot × Option Nat :=
  let groups := max 1 (slotK v.fmt / 32)
  match fillUnit f i with
  | none => (v, none)
  | some (frame, _, u, _) =>
    match badWord (unitWords frame 0 u) f.key s with
    | some w => (v, some w)
    | none =>
      ({ v with scales :=
          updateNat (i / groups * 32 + i % groups) (some (BitVec.ofNat 8 (unitCode f.key frame 0 u s))) v.scales }, none)

/-- A slot after a fill, and the last word that could not be read: its report is the one that stays (R337). -/
def fillSlot (f : Fill) (v : Slot) (s : State) : Slot × Option Nat :=
  match f.op with
  | .uniform x => ({ v with scaleAll := x, scales := [] }, none)
  | .scales =>
    (List.range (4 * slotK v.fmt)).foldl (fun (v, e) i =>
      let (v, e') := fillScale f v i s
      (v, e'.or e)) (v, none)
  | .square tr x0 k0 side =>
    (List.range (side * side)).foldl (fun (v, e) z =>
      let (v, e') := fillElem f tr x0 k0 z v s
      (v, e'.or e)) (v, none)

/-- The hart that issued a piece of work (R238). -/
def workHart (i : Nat) (s : State) : Option Nat :=
  ((everyHart s).find? fun h => h.work.contains i).map fun h => h.nm

/-- A piece of work has ended. -/
def workDone (i : Nat) (s : State) : State :=
  modEvery (fun h => { h with work := h.work.filter fun j => j != i, rels := h.rels.filter fun j => j != i }) s

/-- INT.ERROR to the hart of a piece of work, if it still stands somewhere. -/
def workError (i val : Nat) (s : State) : State :=
  match workHart i s with
  | some n => sendError n val s
  | none => s

/-- Is a request or a write that a fill follows still in flight? -/
def fillWaits (f : Fill) (s : State) : Bool := f.after.any fun i => inFlight i s

/-- The fill with a number ends (R233 to R236), and what follows it follows what it has read; fills of one slot end in the
order of issue (R229). -/
def endFill (tile i : Nat) (s : State) : State :=
  let t := getTile tile s
  match t.fills.find? fun f => f.id == i with
  | none => s
  | some f =>
    if (slotFills t f.slot).head? != some i || fillWaits f s then s
    else
      match repairFirst ((fillWords f).map lineOf) s with
      | some t => t
      | none =>
      let hist := (fillWords f).flatMap fun w => wordHist w (2 ^ 64 - 1) s
      let (v, e) := fillSlot f (getSlot t f.slot) s
      let v := { v with fills := v.fills - 1 }
      let s := setTile tile { modSlot f.slot (fun _ => v) t with fills := t.fills.filter fun x => x.id != i } s
      let s := match e with
        | some w => workError i (errorVal w) (countFailing (lineOf w) s)
        | none => s
      let s := markLines ((fillWords f).map lineOf) hist (sealTrips tile f.key (fillWords f) s)
      let s := signalAll .completion (workDone i (spreadHist i hist s))
      if v.fills = 0 && v.state == .releasing then freeSlotOf tile f.slot s else s

/-! ### Semaphores (R237, R238) -/

/-- `msem.p`: held until it has been performed at its home; one that finds 0 waits, or acts as `retry`. -/
def opMsemP (i : Instr) (k : Nat) (s : State) : State :=
  let w := semWord (myTile s) k
  match gate (plainGate i [] []) s with
  | some s' => s'
  | none =>
    let (p, t) := expectForm i [] .none (.scalar 0 0 false) 0 s
    sendReq ⟨.semP w, lineOf w, some p, 0, true, false, false, 8 * k⟩ t

/-- `msem.v`: posted, and unacknowledged until applied. -/
def opMsemV (i : Instr) (k : Nat) (s : State) : State :=
  issue (plainGate i [] []) (fun u =>
    let (j, u) := freshId u
    let h := u.me
    let v : SemV :=
      { id := j, src := h.nm, w := semWord (myTile u) k, deps := h.work ++ h.rels, hist := allHist h u,
        txn := if inTxn h then some (h.txn.id, h.txn.gen) else none }
    modMe (fun h => { h with unacked := h.unacked + 1, hist := h.hist ++ [j] }) (modMyTile (fun t => { t with semv := t.semv ++ [v] }) u)) s

/-- The number of an entry of the matrix queue. -/
def jobId : MJob → Nat
  | .mmac i _ _ _ _ _ => i
  | .clr i _ => i
  | .rd i _ _ _ => i

/-- Is a piece of work still under way: a fill, a matrix entry, or a reply due? -/
def workLive (i : Nat) (s : State) : Bool :=
  (s.tiles.any fun t => t.2.fills.any (fun f => f.id == i) || t.2.mq.any fun j => jobId j == i) ||
    s.pends.any fun p => p.id == i

/-- Is an access under way, and no increment that its home holds: such a one stands at no point yet (R237)? -/
def underWay (j : Nat) (s : State) : Bool :=
  inFlight j s && !(s.tiles.any fun t => t.2.semHeld.any fun v => v.id == j)

/-- A posted `msem.v` is applied once what it follows has ended, after the earlier ones of its hart to the word
(R238); at the greatest count it is held at the home. -/
def applySemV (tile i : Nat) (s : State) : State :=
  let t := getTile tile s
  match t.semv.find? fun v => v.id == i with
  | none => s
  | some v =>
    let earlier := t.semv.find? fun x => x.src == v.src && x.w == v.w
    if (earlier.map fun x => x.id) != some i || v.deps.any (fun j => workLive j s) ||
        v.hist.any (fun j => underWay j s) then s
    else
      let drop (s : State) : State :=
        setTile tile { getTile tile s with semv := (getTile tile s).semv.filter fun x => x.id != i } s
      match v.txn with
      | none =>
        if rawWord s.mem v.w < semMax then semAdd v (drop s)
        else setTile tile { t with semHeld := t.semHeld ++ [v], semv := t.semv.filter fun x => x.id != i } s
      | some (id, gen) => signalAll .completion <| match txnHart id s with
        | none => drop { s with acks := s.acks ++ [v.src] }
        | some h =>
          let n := viewVal (seenWord h v.w s)
          if gen != 0 && decide (semMax ≤ n) then s
          else
            let s := addWrite id gen i (.word v.w (BitVec.ofNat 64 (n + 1)) (BitVec.allOnes 64))
              (addRead id gen (lineOf v.w) s)
            drop { s with acks := s.acks ++ [v.src] }

/-! ### The matrix queue (R239, R241 to R244) -/

/-- The bank of an entry. -/
def jobBank : MJob → Nat
  | .mmac _ b _ _ _ _ => b
  | .clr _ b => b
  | .rd _ b _ _ => b

/-- The greatest number of entries (R241). -/
def mqMax : Nat := 4

def queueFull (s : State) : Option State :=
  if (getTile (myTile s) s).mq.length < mqMax then none else some (waitOn [.mq (myTile s)] s)

/-- An entry joins the queue. -/
def queueJob (j : MJob) (s : State) : State :=
  modMe (fun h => { h with work := h.work ++ [jobId j] }) (modMyTile (fun t => { t with mq := t.mq ++ [j] }) s)

/-- Are both formats BF16, the one pair that reduced service offers (R359)? -/
def pairServed (s : State) (fa fb : Nat) : Bool := s.care.full || (fa == 56 && fb == 56)

/-- `mmac`. -/
def opMmac (i : Instr) (bank : Nat) (a : Byte) (s : State) : State :=
  let raw := (readOp .d .A a 0 s.me).1
  let sa := field raw 0 4
  let sb := field raw 4 4
  let t := getTile (myTile s) s
  let va := getSlot t sa
  let vb := getSlot t sb
  let ready (v : Slot) : Bool := v.state == .claimed && v.fills == 0
  let c := firstChk [
    chk (ready va) cMtxSlot sa,
    chk (ready vb) cMtxSlot sb,
    chk (slotK va.fmt == slotK vb.fmt && pairServed s va.fmt vb.fmt) cMtxFormat (raw % 256),
    chk (!va.found) cErrOpmem sa,
    chk (!vb.found) cErrOpmem sb]
  checked (unitGate i .M [srcNeed .d .A a 0 s.me] []) (queueFull s) c
    (fun u =>
      let (j, u) := freshId u
      let pin (v : Slot) : Slot := { v with pins := v.pins + 1 }
      let u := modMyTile (fun t => if sa = sb then modSlot sa pin t else modSlot sb pin (modSlot sa pin t)) u
      queueJob (.mmac j bank sa sb t.rm t.cm) u) s

/-- n ones. -/
def lowOnes (n : Nat) : BitVec 128 := BitVec.ofNat 128 (2 ^ min n 128 - 1)

/-- Half of a mask replaced. -/
def maskHalf (m : BitVec 128) (high : Bool) (v : Nat) : BitVec 128 :=
  BitVec.ofNat 128 (putField m.toNat (if high then 64 else 0) 64 v)

/-- The masks after `mmask` (R242). -/
def maskSet (op a : Nat) (t : Tile) : Tile :=
  match op with
  | 0 => { t with rm := maskHalf t.rm false a }
  | 1 => { t with rm := maskHalf t.rm true a }
  | 2 => { t with cm := maskHalf t.cm false a }
  | 3 => { t with cm := maskHalf t.cm true a }
  | 4 => { t with rm := lowOnes a }
  | _ => { t with cm := lowOnes a }

/-- `mmask`. -/
def opMmask (i : Instr) (b a : Byte) (s : State) : State :=
  let av := (readOp .d .A a 0 s.me).1
  let bv := (readOp .d .B b (sameStream a b) s.me).1
  checked (unitGate i .M [srcNeed .d .A a 0 s.me, srcNeed .d .B b (sameStream a b) s.me] []) none
    (chk (decide (bv % 8 < 6)) (cMtxRange 2) bv) (modMyTile (maskSet (bv % 8) av)) s

/-- `macc.clr`. -/
def opMaccClr (i : Instr) (bank : Nat) (s : State) : State :=
  checked (unitGate i .M [] []) (queueFull s) none
    (fun u =>
      let (j, u) := freshId u
      queueJob (.clr j bank) u) s

/-- The registers of a `macc.rd` (R244): register and column group of each segment. -/
def rdSegments (v b : Nat) : List (Nat × Nat) :=
  (List.range (field b 4 3 + 1)).map fun i => ((v + i) % 16, (field b 1 3 + i) % 8)

/-- The replies that a `macc.rd` owes. -/
def rdExpect (l : List (Nat × Nat)) (s : State) : List (Nat × Nat) × State :=
  let (tags, s) := drawTags 1 s
  l.foldl (fun (acc, s) (v, u) =>
    let (p, s) := expectTagged (.vec v) (.line false 0) [none] tags false none [] s
    (acc ++ [(p, u)], s)) ([], s)

/-- `macc.rd`. -/
def opMaccRd (i : Instr) (b a : Byte) (v : Nat) (s : State) : State :=
  let av := (readOp .d .A a 0 s.me).1
  let bv := (readOp .d .B b (sameStream a b) s.me).1
  let segs := rdSegments v bv
  checked
    { unitGate i .M [srcNeed .d .A a 0 s.me, srcNeed .d .B b (sameStream a b) s.me] (segs.map fun x => .vec x.1) with
      tags := 1 }
    (queueFull s) none
    (fun u =>
      let (j, u) := freshId u
      let (ps, u) := rdExpect segs u
      modMe (fun h => { h with work := h.work ++ ps.map fun p => p.1 })
        (queueJob (.rd j (bv % 2) (av % 128) ps) u)) s

/-! ### Products (R98 to R100, R240) -/

/-- An accumulator bank, and one element of it. -/
def bankOf (t : Tile) (b : Nat) : List (Nat × BitVec 32) := if b = 0 then t.acc0 else t.acc1

def bankElem (t : Tile) (b i j : Nat) : Nat := ((lookupNat (i * 128 + j) (bankOf t b)).getD 0).toNat

def setBank (b : Nat) (l : List (Nat × BitVec 32)) (t : Tile) : Tile :=
  if b = 0 then { t with acc0 := l } else { t with acc1 := l }

/-- The value of an element of a slot, its scale included for MX and BPS formats. -/
def slotVal (v : Slot) (x k : Nat) : Option FVal :=
  (slotElem v x k).map fun c =>
    if hasStrip v.fmt then scaled (codeVal v.fmt c) (slotScale v x (k / 32)) else codeVal v.fmt c

/-- Row x of a slot: the value of each of its elements, or its absence. -/
def slotRow (v : Slot) (x : Nat) : List (Option FVal) :=
  let row : Slot := { v with elems := v.elems.filter fun e => e.1 / 1024 == x }
  (List.range (slotK v.fmt)).map (slotVal row x)

/-- A product term: present if both elements are. -/
def dotTerm (a b : Option FVal) : Option FVal :=
  match a, b with
  | some a, some b => some (mulF a b)
  | _, _ => none

/-- The sum of the present terms of a group of 32 columns is rounded and added. -/
def dotGroup (acc : Nat) (l : List (Option FVal)) : Nat :=
  match sumF (l.filterMap id) with
  | none => acc
  | some t => fp32Add acc (roundFloat fp32 0 0 t)

/-- One accumulator element after the groups of a product of two rows, ascending. -/
def dotElem (ra rb : List (Option FVal)) (acc : Nat) : Nat :=
  ((List.range (ra.length / 32)).foldl (fun (x : Nat × List (Option FVal)) _ =>
    (dotGroup x.1 (x.2.take 32), x.2.drop 32)) (acc, List.zipWith dotTerm ra rb)).1

/-- Does the sum of element (i, j) read a failed element of a slot (R287)? -/
def readsBad (v : Slot) (x : Nat) : Bool := v.bad.any fun e => e / 1024 == x

/-- The rows of a slot that a mask admits; the others are not read. -/
def slotRows (v : Slot) (mask : BitVec 128) : List (List (Option FVal)) :=
  (List.range 128).map fun x => if mask.getLsbD x then slotRow v x else []

/-- The bank after a product: a masked element is unchanged; a failed operand or accumulator element gives the
canonical NaN. -/
def mmacBank (t : Tile) (bank : Nat) (va vb : Slot) (rm cm : BitVec 128) : List (Nat × BitVec 32) :=
  let rowsB := (slotRows vb cm).zipIdx
  (slotRows va rm).zipIdx.flatMap fun (ra, i) =>
    let badA := readsBad va i
    rowsB.map fun (rb, j) =>
      let n := i * 128 + j
      let old := bankElem t bank i j
      let new :=
        if !(rm.getLsbD i && cm.getLsbD j) then old
        else if badA || readsBad vb j || t.accBad.contains (bank, n) then canonicalNan fp32
        else dotElem ra rb old
      (n, BitVec.ofNat 32 new)

/-- An entry leaves the queue. -/
def retireJob (tile : Nat) (j : MJob) (s : State) : State :=
  let t := getTile tile s
  signalAll (.mq tile)
    (workDone (jobId j) (setTile tile { t with mq := t.mq.filter fun x => jobId x != jobId j } s))

/-- The entries before a number in the queue. -/
def jobsBefore (l : List MJob) (i : Nat) : List MJob := l.takeWhile fun j => jobId j != i

/-- May an entry run: no earlier one touches its bank (R241)? -/
def jobFirst (l : List MJob) (j : MJob) : Bool := (jobsBefore l (jobId j)).all fun x => jobBank x != jobBank j

/-- The first entry of a kind that may run. -/
def nextJob (l : List MJob) (p : MJob → Bool) : Option MJob := l.find? fun j => p j && jobFirst l j

def isMmac : MJob → Bool
  | .mmac _ _ _ _ _ _ => true
  | _ => false

def isClr : MJob → Bool
  | .clr _ _ => true
  | _ => false

def isRd : MJob → Bool
  | .rd _ _ _ _ => true
  | _ => false

/-- Does a product read a failed element of a slot: is its row within one mask, and anything within the other? -/
def readsFailed (v : Slot) (mask other : BitVec 128) : Bool :=
  other != 0 && v.bad.any fun e => mask.getLsbD (e / 1024)

/-- Does a product read a failed element of its bank? -/
def addsFailed (t : Tile) (bank : Nat) (rm cm : BitVec 128) : Bool :=
  t.accBad.any fun e => e.1 == bank && rm.getLsbD (e.2 / 128) && cm.getLsbD (e.2 % 128)

/-- The oldest `mmac` runs to its end (R240): `mmac`s run one at a time, in the order of issue. -/
def endMmac (tile : Nat) (s : State) : State :=
  let t := getTile tile s
  match t.mq.find? isMmac with
  | some (.mmac j bank sa sb rm cm) =>
    if !jobFirst t.mq (.mmac j bank sa sb rm cm) then s
    else
      let va := getSlot t sa
      let vb := getSlot t sb
      let hitA := readsFailed va rm cm
      let hitB := readsFailed vb cm rm
      let unpin (hit : Bool) (v : Slot) : Slot := { v with pins := v.pins - 1, found := v.found || hit }
      let t' := setBank bank (mmacBank t bank va vb rm cm) t
      let t' := if sa = sb then modSlot sa (unpin (hitA || hitB)) t'
        else modSlot sb (unpin hitB) (modSlot sa (unpin hitA) t')
      let s := setTile tile t' s
      let s := if hitA then workError j sa s else s
      let s := if hitB then workError j sb s else s
      let s := if addsFailed t bank rm cm then workError j bank s else s
      retireJob tile (.mmac j bank sa sb rm cm) s
  | _ => s

/-- A `macc.clr` runs (R243): every element is +0, and no element is failed. -/
def runClr (tile : Nat) (s : State) : State :=
  let t := getTile tile s
  match nextJob t.mq isClr with
  | some j =>
    retireJob tile j
      (setTile tile (setBank (jobBank j) [] { t with accBad := t.accBad.filter fun e => e.1 != jobBank j }) s)
  | none => s

/-- 16 elements of a row as a register (R244). -/
def rowSegment (t : Tile) (bank row u : Nat) : Nat :=
  joinLanes 32 ((List.range 16).map fun l =>
    if t.accBad.contains (bank, row * 128 + 16 * u + l) then canonicalNan fp32
    else bankElem t bank row (16 * u + l))

/-- The first part of a reply arrives. -/
def deliverPart (p v : Nat) (s : State) : State :=
  { s with pends := s.pends.map fun q =>
      if q.id = p then { q with parts := setNth q.parts 0 (some (BitVec.ofNat 520 v)) } else q }

/-- A `macc.rd` runs (R244): its segments are on their way to its registers. -/
def runRd (tile : Nat) (s : State) : State :=
  let t := getTile tile s
  match nextJob t.mq isRd with
  | some (.rd j bank row ps) =>
    let s := if t.accBad.any (fun e => e.1 == bank && e.2 / 128 == row) then workError j bank s else s
    retireJob tile (.rd j bank row ps)
      (ps.foldl (fun s (p, u) => deliverPart p (rowSegment t bank row u) s) s)
  | _ => s

/-! ### One meaning for each instruction and event -/

/-- R232: Claim the lowest free operand slot with a format. -/
def execMclaim (f : BitVec 6) (d : BitVec 8) (s : State) : Out := .next (opMclaim (.mclaim f d) f.toNat d s)
/-- R233: Release an operand slot. -/
def execMrel (a : BitVec 8) (s : State) : Out := .next (opMrel (.mrel a) a s)
/-- R234: Fill a square of an operand slot. -/
def execMfill (b a : BitVec 8) (s : State) : Out := .next (opMfill (.mfill b a) b a s)
/-- R236: Set the scales of an operand slot. -/
def execMscale (b a : BitVec 8) (s : State) : Out := .next (opMscale (.mscale b a) b a s)
/-- R239: Queue a matrix product into an accumulator bank. -/
def execMmac (n : BitVec 1) (a : BitVec 8) (s : State) : Out := .next (opMmac (.mmac n a) n.toNat a s)
/-- R242: Set a row or column mask. -/
def execMmask (b a : BitVec 8) (s : State) : Out := .next (opMmask (.mmask b a) b a s)
/-- R244: Read accumulator rows into vector registers. -/
def execMaccRd (b a : BitVec 8) (v : BitVec 4) (s : State) : Out :=
  .next (opMaccRd (.maccRd b a v) b a v.toNat s)
/-- R243: Queue a clear of an accumulator bank. -/
def execMaccClr (n : BitVec 1) (s : State) : Out := .next (opMaccClr (.maccClr n) n.toNat s)
/-- R237: Take one from a semaphore, waiting at zero. -/
def execMsemP (k : BitVec 3) (s : State) : Out := .next (opMsemP (.msemP k) k.toNat s)
/-- R237: Post an increment of a semaphore. -/
def execMsemV (k : BitVec 3) (s : State) : Out := .next (opMsemV (.msemV k) k.toNat s)
/-- R234: A fill ends. -/
def execFillEnd (tile : BitVec 13) (i : Nat) (s : State) : Out := .next (endFill tile.toNat i s)
/-- R238: A posted `msem.v` is applied. -/
def execMsemVApply (tile : BitVec 13) (i : Nat) (s : State) : Out := .next (applySemV tile.toNat i s)
/-- R240: A queued `mmac` ends. -/
def execMmacEnd (tile : BitVec 13) (s : State) : Out := .next (endMmac tile.toNat s)
/-- R243: A queued `macc.clr` runs. -/
def execMaccClrRun (tile : BitVec 13) (s : State) : Out := .next (runClr tile.toNat s)
/-- R244: A queued `macc.rd` runs. -/
def execMaccRdRun (tile : BitVec 13) (s : State) : Out := .next (runRd tile.toNat s)

end Sys2Proof.Machine
end

