-- ==== Sys2Proof/Machine/Engines.lean ====
section
/-! DEFINITION. The copy engine and the quantizer (R245 to R255, R264, R265, R267), `chadv` and `publish`. -/

namespace Sys2Proof.Machine

open Sys2Proof

/-! ### `chadv` and `publish` (R246, R249) -/

/-- The tile of the pan that a capability names, none for global space. -/
def capTileOf (tile : Nat) (c : Cap) : Option Nat :=
  match capSpace c with
  | 0 => none
  | 1 => some tile
  | _ => some (capTile c)

/-- Does a capability name a space, with its address in it (R44)? -/
def addrOk (c : Cap) (a : Nat) : Bool :=
  match capSpace c with
  | 0 => decide (a < 2 ^ 54)
  | 3 => false
  | _ => decide (a < 2 ^ 20)

/-- The size of a chain's header (R245). -/
def hdrSize (eng : Bool) : Nat := if eng then 2048 else 64

/-- Where a header lies, once its translation is known. -/
def hdrLoc (tile : Nat) (c : Cap) (maps : List Mapping) : Nat :=
  match capTileOf tile c with
  | some t => panFrame t c
  | none => match mapAt maps (capPath c) with
    | some m => m.frame + (capPath c - m.path)
    | none => 0

/-- The block of the leaf or range that maps the first address of a header (R307). -/
def hdrBlock (c : Cap) (maps : List Mapping) : Nat × Nat :=
  match mapAt maps (capPath c) with
  | some m => (m.depth, m.path)
  | none => (27, capPath c)

/-- A page that may hold a header: RAW memory that can be written. -/
def rawPage (m : Mapping) : Bool := m.fmt == 0 && m.src != 3 && !isRom m.frame

/-- The greatest number of chains of an engine (R246). -/
def chainsMax : Nat := 16

/-- Check 3 of R246. -/
def chainRoom (hdr tile : Nat) (eng : Bool) (s : State) : Bool :=
  let e := getEngine tile eng s
  hasChain hdr e || (decide (e.chains.length < chainsMax) && !chainElsewhere hdr tile eng s)

/-- A chain of an engine whose header was translated before an `rinv`, under the map of a key set, has a header at an
address again: the one at which the address now lies (R307), in the block of a leaf or range. Its commands follow what the
walk has read (R305). -/
def Engine.atHeader (fw : Bool) (va hdr : Nat) (blk : Nat × Nat) (hist : List Nat) (e : Engine) : Engine :=
  match e.chains.find? fun c => c.stale && c.fw == fw && capPath c.cap == va with
  | none => e
  | some c => { e with
      chains := e.chains.map fun x =>
        if x.stale && x.fw == fw && capPath x.cap == va then
          { x with hdr := hdr, stale := false, blk := blk, hist := (x.hist ++ hist).eraseDups }
        else x,
      run := e.run.map fun r => if r.hdr = c.hdr then { r with hdr := hdr, hist := (r.hist ++ hist).eraseDups } else r }

/-- The chains of the tiles of a key set whose headers lie at an address, translated afresh (R307). -/
def settleHeader (c : Cap) (fw : Bool) (tile hdr : Nat) (blk : Nat × Nat) (s : State) : State :=
  let settle (e : Engine) : Engine := e.atHeader fw (capPath c) hdr blk s.me.hist
  if capSpace c = 0 then
    { s with
      tiles := s.tiles.map fun x =>
        if tileKey x.1 fw s = tileKey tile fw s then (x.1, { x.2 with copy := settle x.2.copy, quant := settle x.2.quant })
        else x }
  else s

/-- `chadv`. -/
def opChadv (i : Instr) (a : Byte) (s : State) : State :=
  let h := s.me
  let xm := getXm h 1
  let eng := bitAt xm 4
  let c := getCap h (field xm 0 4)
  let n := (readOp .d .A a 0 h).1
  let p := capPath c
  let size := hdrSize eng
  let early := firstChk [
    (capFault c (pR + pW + pLcap)).map fun e => (e, p),
    chk (decide (size ≤ blockUnits c) && addrOk c (p + size - 1)) cCapBounds p]
  let cov : Cover := if capSpace c = 0 then coverUnits h p size s else ⟨[], none, none⟩
  let park := if early.isNone then cov.miss.map fun b => parkOn b s else none
  let hdr := hdrLoc (tileOf h.nm) c cov.maps
  let blk := hdrBlock c cov.maps
  let late := firstChk [
    cov.fault,
    chk (p % 64 == 0) cMemAlign p,
    if capSpace c = 0 then (badFmtUnit cov.maps rawPage p size).map fun b => (cMemFmt, b) else none,
    chk (chainRoom hdr (tileOf h.nm) eng (settleHeader c (h.mode == .firmware) (tileOf h.nm) hdr blk s))
      cEngChains 0]
  let g := { plainGate i [srcNeed .d .A a 0 h, .cap (field xm 0 4)] [] with bars := true }
  checked g park (firstChk [early, late])
    (fun u =>
      let ch : Chain := ⟨hdr, false, c, h.mode == .firmware, blk, [], h.nm, allHist h s⟩
      let u := settleHeader c ch.fw (tileOf h.nm) hdr blk u
      let u := setEngine (tileOf h.nm) eng (addChain ch (getEngine (tileOf h.nm) eng u)) u
      sendReq ⟨.chadv ch n (tileOf h.nm) eng, hdr / 64, none, 0, true, true, false, p⟩ u) s

/-- The line that stands for a region in the order of a hart's requests. -/
def publishLine : Nat := 2 ^ 59

/-- `publish`: held until every home of the region has marked its lines. -/
def opPublish (i : Instr) (a : Byte) (s : State) : State :=
  let h := s.me
  let xm := getXm h 2
  let c := getCap h (field xm 0 4)
  let v := (readOp .d .A a 0 h).1
  let d := blockDepth v
  let p := blockPath v d
  let bad := firstChk [
    (capFault c pW).map fun e => (e, 0),
    chk (decide (capDepth c ≤ d) && inBlock p (capDepth c) (capPath c) && capSpace c != 3) cCapBounds v]
  let g := { plainGate i [srcNeed .d .A a 0 h, .cap (field xm 0 4)] [] with bars := true }
  checked g none bad
    (fun u =>
      let (q, u) := expect .none (.scalar 0 0 false) 1 0 true u
      sendReq ⟨.publish (capTileOf (tileOf h.nm) c) d p, publishLine, some q, 0, true, false, false, p⟩ u) s

/-! ### Faults of commands (R252, R267) -/

/-- A fault of a command: cause, side, the block it records, and the units already handled. -/
structure CmdFault where
  c : Cause
  side : Nat
  depth : Nat
  path : Nat
  done : Nat
  deriving DecidableEq, Repr

/-- A capability cause of an engine has site 4 (R286). -/
def engCode (c : Cause) : Nat := codeOfCause (if c.cls = 2 then { c with site := 4 } else c)

/-- The words of a fault record. -/
def faultWords (f : CmdFault) (cur : Nat) : List (Nat × Nat) :=
  [(3, f.side * 2 ^ 61 + f.depth * 2 ^ 56 + f.path), (4, engCode f.c), (5, f.done), (6, cur)]

/-- The chain of a header leaves an engine. -/
def dropChain (hdr : Nat) (e : Engine) : Engine :=
  { e with chains := e.chains.filter fun c => c.hdr != hdr, run := none, ats := none }

/-- A chain of an engine follows what its last command has read (R106, R255). -/
def chainLearn (hdr : Nat) (hist : List Nat) (e : Engine) : Engine :=
  { e with
    chains := e.chains.map fun c => if c.hdr = hdr then { c with hist := (c.hist ++ hist).eraseDups } else c
    run := none
    ats := none }

/-- A store of an engine to a word of a header follows what its commands have read (R127, R255). -/
def engineReq (tile : Nat) (ch : Chain) (hist : List Nat) (w : Nat) (s : State) : Req :=
  { bareReq (tileKey tile ch.fw s) with
    op := .write [.word w 0 0]
    line := lineOf w
    hist := (ch.hist ++ hist).eraseDups }

/-- What stands before stores of an engine to words of a header: they wait for what they follow (R105, R108), and a line that
must be rebuilt is written back first (R348). -/
def hdrDelay (tile : Nat) (ch : Chain) (hist : List Nat) (words : List Nat) (s : State) : Option State :=
  if words.any fun w => writeWaits (engineReq tile ch hist w s) s then some s else repairFirst (words.map lineOf) s

/-- The messages of stores to words of a header, and what those follow (R108, R334). -/
def hdrTrip (tile : Nat) (ch : Chain) (hist : List Nat) (words : List Nat) (s : State) : State :=
  markLines (words.map lineOf) (ch.hist ++ hist) (sealTrips tile (tileKey tile ch.fw s) words s)

/-- A command ends, or could not be read (`next` none): the fault record, then SEQ, CUR and STATE (R247, R267), which
follow what the command has read. A chain that stops IDLE leaves the table. -/
def endNow (tile : Nat) (eng : Bool) (ch : Chain) (hist : List Nat) (cur : Nat) (next : Option Nat)
    (f : Option CmdFault) (s : State) : State :=
  let r := engineReq tile ch hist (ch.hdr / 8) s
  let s := hdrTrip tile ch hist [ch.hdr / 8] s
  let seq := hdrWord r.key ch.hdr 0 s + (if next.isSome then 1 else 0)
  let idle := f.isNone && decide (hdrWord r.key ch.hdr 2 s ≤ seq)
  let state := if f.isSome then stHeld else if idle then stIdle else stRun
  let s := match f with
    | some f => hdrWrite r ch.hdr (faultWords f cur) s
    | none => s
  let s := hdrWrite r ch.hdr
    ((match next with
      | some n => [(0, seq), (1, n)]
      | none => []) ++ if state = stRun then [] else [(7, state)]) s
  let e := getEngine tile eng s
  setEngine tile eng (if idle then dropChain ch.hdr e else chainLearn ch.hdr hist e) s

/-- The end of a command once its header may be written; until then the engine stays at its last unit, in state `s0`. -/
def endCommand (tile : Nat) (eng : Bool) (ch : Chain) (hist : List Nat) (cur : Nat) (next : Option Nat)
    (f : Option CmdFault) (s0 s : State) : State :=
  match hdrDelay tile ch hist [ch.hdr / 8] s0 with
  | some t => t
  | none => endNow tile eng ch hist cur next f s

/-! ### Sides of a command (R251, R361) -/

/-- What an address of a side comes to. -/
inductive SideAt where
  /-- its frame, format, place in the frame, the mapping, and the block of its leaf or range -/
  | ok (frame fmt u : Nat) (m : Option Mapping) (depth path : Nat)
  | fault (c : Cause) (depth path : Nat)
  /-- delayed at an ABSENT entry: its line and block -/
  | absent (line depth path : Nat)
  /-- its walk met an entry in a line that cannot be read -/
  | unread (line : Nat)
  /-- delayed while the interface is QUIESCED, or no walker is free (R304) -/
  | delayed
  /-- delayed until the host has translated the address (R309) -/
  | asks (a : Nat)

/-- A unit of a HOST page: it needs an ATC entry, which the engine asks the host for, as a hart does; a request that was
denied faults (R309). A destination there is never written and asks for nothing (R310). -/
def hostAt (denied : Option Nat) (write : Bool) (a : Nat) (m : Mapping) (s : State) : SideAt :=
  match s.host.iface with
  | .run =>
    if write || atcAllows m a false s then .ok m.frame m.fmt (a - m.path) (some m) m.depth m.path
    else if denied = some a then .fault cMemUnmapped 27 a
    else .asks a
  | .quiesced => .delayed
  | _ => .fault cMemUnmapped 27 a

/-- A unit of a capability, located for an engine (R251, R264, R302). A reserved format of a pan side faults with MEM.FMT and
the capability's block (log 97). A walk takes a walker of the die (R304, log 110). -/
def sideAt (tile : Nat) (fw : Bool) (denied : Option Nat) (write : Bool) (c : Cap) (pfmt off : Nat) (s : State) : SideAt :=
  let a := capPath c + off
  match capTileOf tile c with
  | some t =>
    if capSpace c = 3 then .fault cCapBounds 27 a
    else if fmtKind pfmt = .reserved then .fault cMemFmt (capDepth c) (capPath c)
    else .ok (panFrame t c) pfmt off none (capDepth c) (capPath c)
  | none =>
    if !fw && walkersTaken (tile / 2 ^ 7) s then .delayed
    else match resolve fw tile a s with
    | .ok m =>
      if m.src = 3 then hostAt denied write a m s
      else .ok m.frame m.fmt (a - m.path) (some m) m.depth m.path
    | .unmapped d p => .fault cMemUnmapped d p
    | .badFmt d p => .fault cMemFmt d p
    | .failing _ l => .unread l
    | .absent l d p => .absent l d p

/-- The name in the wake table of an engine that a walk has parked. -/
def engName (tile : Nat) (eng : Bool) : Nat := 2 ^ 22 + 2 * tile + bit eng

/-- Is an engine delayed at an ABSENT entry that nothing has written since (R306)? -/
def engParked (tile : Nat) (eng : Bool) (s : State) : Bool := s.wake.any fun e => e.hart == engName tile eng

/-- Does an engine take no step: its tile is out of service (R315) or its partition has stopped (R335), or a walk has parked
it, or it waits for the host? -/
def engStops (tile : Nat) (eng : Bool) (s : State) : Bool :=
  s.fenced.contains tile || keySpent (tileKey tile false s) s || engParked tile eng s ||
    (match (getEngine tile eng s).ats with
      | some (_, k) => decide (k < 3)
      | none => false)

/-- The address whose translation the host has denied an engine. -/
def engDenied (tile : Nat) (eng : Bool) (s : State) : Option Nat :=
  match (getEngine tile eng s).ats with
  | some (a, 3) => some a
  | _ => none

/-- An engine asks the host for a translation (R309). -/
def engAsk (tile : Nat) (eng : Bool) (a : Nat) (s : State) : State :=
  setEngine tile eng { getEngine tile eng s with ats := some (a, 0) } s

/-- An engine is delayed at an ABSENT entry: registered at its line, with a fault record (R306, R325). -/
def engPark (tile : Nat) (eng : Bool) (line depth path : Nat) (s : State) : State :=
  let s := { s with wake := s.wake ++ [⟨line, engName tile eng, 0⟩] }
  match partitionOf tile s with
  | some p => parkRecord p noHart depth path s
  | none => s

/-- The strip of a side's unit: scaled pages of global space have one. -/
def sideStrip (fmt : Nat) (m : Option Mapping) : Option Nat :=
  match m with
  | some m => if hasStrip fmt then some m.strip else none
  | none => none

/-- The word that holds the scale of a side's unit, if it has one. -/
def stripWords (fmt u : Nat) (m : Option Mapping) : List Nat :=
  ((sideStrip fmt m).map fun p => scaleByte p fmt u / 8).toList

/-- Is a unit one of host memory? -/
def sideHost (m : Option Mapping) : Bool :=
  match m with
  | some m => m.src == 3
  | none => false

/-- The words that a unit of a side is read from, with the word of its scale if that is wanted. -/
def sideWords (frame fmt u : Nat) (m : Option Mapping) (wanted : Bool) : List Nat :=
  if sideHost m then [] else unitWords frame fmt u ++ if wanted then stripWords fmt u m else []

/-- The code of a source unit, with its scale if that is wanted, or the word that cannot be read (R287, R337). Host memory
gives a free value (R309). -/
def sideCode (key : Nat) (frame fmt u : Nat) (m : Option Mapping) (wanted : Bool) (s : State) :
    Except Nat (Nat × Option Nat) × State :=
  if sideHost m then
    (.ok (field (Config.hostWord s.free).toNat 0 (containerBits fmt), none), { s with free := s.free + 1 })
  else match badWord (sideWords frame fmt u m wanted) key s with
    | some w => (.error w, countFailing (lineOf w) s)
    | none => (.ok (unitCode key frame fmt u s,
        if wanted then (sideStrip fmt m).map fun p => scaleAt key p fmt u s else none), s)

/-- The value of a code with its scale, or without one (R91, R92). -/
def sideVal (fmt code : Nat) (scale : Option Nat) : FVal :=
  match scale with
  | some x => scaled (codeVal fmt code) x
  | none => codeVal fmt code

/-- The words of table entries that the walk to a unit of a side reads. -/
def sideWalk (tile : Nat) (fw : Bool) (c : Cap) (off : Nat) (s : State) : List Nat :=
  if capSpace c = 0 then wordsFor fw tile (capPath c + off) s else []

/-- What the walk to a unit of a side, and words that are read there, follow (R106, R305). -/
def sideHist (tile : Nat) (fw : Bool) (c : Cap) (off : Nat) (words : List Nat) (s : State) : List Nat :=
  (sideWalk tile fw c off s ++ words).flatMap fun w => wordHist w (2 ^ 64 - 1) s

/-- What stands before reads of words by an engine: they wait for the writes to their homes that they follow (R108, R305),
and a line that must be rebuilt is written back first (R348). -/
def readDelay (hist words : List Nat) (s : State) : Option State :=
  if readsWait hist words s then some s else repairFirst (words.map lineOf) s

/-- The messages of a unit's walk, reads and writes, and what those follow (R108, R334). -/
def sideTrip (tile : Nat) (fw : Bool) (walk words : List Nat) (host : Bool) (hist : List Nat) (s : State) : State :=
  let key := tileKey tile fw s
  let s := sealTrips tile key words (sealWalk key walk s)
  markLines ((walk ++ words).map lineOf) hist (if host then sealTrip tile key true 0 s else s)

/-! ### Reading a command (R247) -/

/-- A chain of a tile that may run: its STATE is RUN, and what its commands follow has been performed. -/
def chainReady (tile : Nat) (s : State) (c : Chain) : Bool :=
  !c.stale && hdrWord (tileKey tile c.fw s) c.hdr 7 s % 4 == stRun && !(c.hist.any fun i => unended i s)

/-- The map of the command that a chain runs next: that of the `chadv` that made it available (R297). -/
def chainMap (tile : Nat) (ch : Chain) (s : State) : Bool :=
  match ch.maps.find? fun x => decide (hdrWord (tileKey tile ch.fw s) ch.hdr 0 s < x.1) with
  | some x => x.2
  | none => ch.fw

/-- A command from its words and the tags of its two capabilities. -/
def commandOf (hdr cur : Nat) (fw : Bool) (words : List Word) (tag0 tag1 : Bool) (hist : List Nat) : CmdRun :=
  { hdr := hdr, cur := cur, fw := fw, words := words, tag0 := tag0, tag1 := tag1, z := 0, srcFmt := none, dstFmt := none,
    amax := 0, bins := [], units := [], hist := hist }

/-- The words of a command at a location, and the tags of its two capabilities, as a reader under a key set gets them. -/
def readCommand (key hdr cur : Nat) (fw : Bool) (w : Nat) (hist : List Nat) (s : State) : CmdRun :=
  let tag (i : Nat) : Bool := (viewUnder key (w + i) s).tag && (viewUnder key (w + i + 1) s).tag
  commandOf hdr cur fw ((List.range 8).map fun i => BitVec.ofNat 64 (viewVal (viewUnder key (w + i) s))) (tag 0) (tag 2) hist

/-- A command read from host memory: a free value, untagged (R310). -/
def hostCommand (hdr cur : Nat) (fw : Bool) (hist : List Nat) (s : State) : CmdRun × State :=
  let v := (Config.hostWord s.free).toNat
  (commandOf hdr cur fw ((List.range 8).map fun i => BitVec.ofNat 64 (field v (64 * i) 64)) false false hist,
   { s with free := s.free + 1 })

/-- An engine goes on with its command. -/
def goOn (tile : Nat) (eng : Bool) (r : CmdRun) (s : State) : State :=
  setEngine tile eng { getEngine tile eng s with run := some r, ats := none } s

/-- The words of a header (R245). -/
def hdrWords (hdr : Nat) : List Nat := (List.range 8).map fun i => hdr / 8 + i

/-- What the words of a header follow. -/
def hdrHist (hdr : Nat) (s : State) : List Nat := (hdrWords hdr).flatMap fun w => wordHist w (2 ^ 64 - 1) s

/-- The command line at CUR, once it is located, is read through the chain's capability, or its fault recorded. A line that
cannot be read has MEM.INTEGRITY, the cause that R257 lets it record (log 97). -/
def readCommandLine (tile : Nat) (eng : Bool) (ch : Chain) (fw : Bool) (cur frame fmt u : Nat) (m : Option Mapping)
    (depth path : Nat) (hist : List Nat) (s : State) : State :=
  let w := contBit frame fmt u / 64
  let words := if sideHost m then [] else (List.range 8).map fun i => w + i
  let stop (c : Cause) (depth path : Nat) (hist : List Nat) (t : State) : State :=
    endCommand tile eng ch hist cur none (some ⟨c, 0, depth, path, 0⟩) s t
  if 1 < fmt then stop cMemFmt depth path hist s
  else
    let key := tileKey tile fw s
    let hist := (hist ++ words.flatMap fun w => wordHist w (2 ^ 64 - 1) s).eraseDups
    match readDelay (ch.hist ++ hist) words s with
    | some t => t
    | none =>
      let t := sideTrip tile fw [] words (sideHost m) (ch.hist ++ hist) s
      if sideHost m then
        let (r, t) := hostCommand ch.hdr cur fw hist t
        goOn tile eng r t
      else match badWord words key s with
        | some w => stop cMemIntegrity 27 cur hist (countFailing (lineOf w) t)
        | none => goOn tile eng (readCommand key ch.hdr cur fw w hist s) t

/-- The command line at CUR is located, once its walk may be performed, or its fault recorded. -/
def fetchCommand (tile : Nat) (eng : Bool) (ch : Chain) (s : State) : State :=
  let cur := hdrWord (tileKey tile ch.fw s) ch.hdr 1 s % 2 ^ 54
  let fw := chainMap tile ch s
  let off := cur - capPath ch.cap
  let walk := sideWalk tile fw ch.cap off s
  let hist := (hdrHist ch.hdr s ++ sideHist tile fw ch.cap off [] s).eraseDups
  let stop (c : Cause) (depth path : Nat) (hist : List Nat) (t : State) : State :=
    endCommand tile eng ch hist cur none (some ⟨c, 0, depth, path, 0⟩) s t
  if cur % 64 != 0 || !inBlock cur (capDepth ch.cap) (capPath ch.cap) || !addrOk ch.cap cur then
    stop cEngLink 27 cur (hdrHist ch.hdr s) s
  else match readDelay (ch.hist ++ hist) walk s with
  | some t => t
  | none =>
    let t := sideTrip tile fw walk [] false (ch.hist ++ hist) s
    match sideAt tile fw (engDenied tile eng s) false ch.cap 0 off s with
    | .fault c d p => stop c d p hist t
    | .unread l => stop cMemIntegrity 27 cur hist (countFailing l t)
    | .delayed => s
    | .asks a => engAsk tile eng a t
    | .absent l d p => engPark tile eng l d p t
    | .ok frame fmt u m d p => readCommandLine tile eng ch fw cur frame fmt u m d p hist t

/-- Where the header of a chain lies as it is translated now, and the block of its leaf or range: on a page that may hold one
(R245, R246). -/
def headerAt (tile : Nat) (ch : Chain) (s : State) : Option (Nat × Nat × Nat) :=
  match sideAt tile ch.fw none true ch.cap 0 0 s with
  | .ok frame _ u (some m) d p => if rawPage m then some (frame + u, d, p) else none
  | _ => none

/-- An engine translates the header of a chain afresh, after an `rinv` (R307); while it does not resolve, the chain waits
(log 98). -/
def retranslate (tile : Nat) (eng : Bool) (ch : Chain) (s : State) : State :=
  let walk := sideWalk tile ch.fw ch.cap 0 s
  let hist := sideHist tile ch.fw ch.cap 0 [] s
  match readDelay (ch.hist ++ hist) walk s with
  | some t => t
  | none => match headerAt tile ch s with
    | some (hdr, blk) =>
      let s := sideTrip tile ch.fw walk [] false (ch.hist ++ hist) s
      setEngine tile eng ((getEngine tile eng s).atHeader ch.fw (capPath ch.cap) hdr blk hist) s
    | none => s

/-- A chain of an engine whose header is to be translated afresh, and can be. -/
def staleChain (tile : Nat) (e : Engine) (s : State) : Option Chain :=
  e.chains.find? fun c => c.stale && (headerAt tile c s).isSome

/-- A chain that has run all its commands becomes IDLE, and leaves its engine. -/
def endChain (tile : Nat) (eng : Bool) (ch : Chain) (s : State) : State :=
  let hist := hdrHist ch.hdr s
  match hdrDelay tile ch hist [ch.hdr / 8] s with
  | some t => t
  | none =>
    let s := hdrWrite (engineReq tile ch hist (ch.hdr / 8) s) ch.hdr [(7, stIdle)] (hdrTrip tile ch hist [ch.hdr / 8] s)
    setEngine tile eng (dropChain ch.hdr (getEngine tile eng s)) s

/-- An engine takes a chain's next command, if it has one. -/
def chainTurn (tile : Nat) (eng : Bool) (ch : Chain) (s : State) : State :=
  let key := tileKey tile ch.fw s
  match repairFirst [ch.hdr / 64] s with
  | some t => t
  | none =>
    if hdrWord key ch.hdr 0 s < hdrWord key ch.hdr 2 s then fetchCommand tile eng ch s else endChain tile eng ch s

/-- An engine takes its chains in turn at command boundaries. -/
def commandFetch (tile : Nat) (eng : Bool) (s : State) : State :=
  let e := getEngine tile eng s
  if e.run.isSome || engStops tile eng s then s
  else match staleChain tile e s with
  | some ch => retranslate tile eng ch s
  | none => match e.chains.find? (chainReady tile s) with
    | none => s
    | some ch =>
      chainTurn tile eng ch
        (setEngine tile eng { e with chains := (e.chains.filter fun c => c.hdr != ch.hdr) ++ [ch] } s)

/-! ### Fields of a command (R250, R253) -/

def cw (r : CmdRun) (n : Nat) : Nat := (nth r.words n 0).toNat

def cmdSrc (r : CmdRun) : Cap := ⟨BitVec.ofNat 128 (cw r 0 + cw r 1 * 2 ^ 64), r.tag0⟩
def cmdDst (r : CmdRun) : Cap := ⟨BitVec.ofNat 128 (cw r 2 + cw r 3 * 2 ^ 64), r.tag1⟩
def cmdLogs (r : CmdRun) : Nat := field (cw r 4) 54 5
def cmdSoff (r : CmdRun) : Nat := field (cw r 4) 0 54
def cmdDoff (r : CmdRun) : Nat := field (cw r 5) 0 54
def cmdSeed (r : CmdRun) : Nat := field (cw r 6) 48 16
def cmdPad (r : CmdRun) : Nat := field (cw r 6) 32 16
def cmdStrm (r : CmdRun) : Bool := bitAt (cw r 6) 24
def cmdStag (r : CmdRun) : Nat := field (cw r 6) 16 8
def cmdTr (r : CmdRun) : Bool := bitAt (cw r 6) 15
def cmdRm (r : CmdRun) : Nat := field (cw r 6) 12 3
def cmdDpfmt (r : CmdRun) : Nat := field (cw r 6) 6 6
def cmdSpfmt (r : CmdRun) : Nat := field (cw r 6) 0 6
def cmdKind (r : CmdRun) : Nat := field (cw r 7) 60 4
def cmdNext (r : CmdRun) : Nat := field (cw r 7) 0 54
def cmdPct (r : CmdRun) : Nat := field (cw r 6) 16 11
def cmdHist (r : CmdRun) : Bool := bitAt (cw r 6) 27
def cmdAmax (r : CmdRun) : Bool := bitAt (cw r 6) 28

/-- The random bits of unit z (R251). -/
def cmdRho (r : CmdRun) (z : Nat) : Nat := (cmdSeed r + 40503 * z) % 65536

/-- Reserved bits that both kinds keep zero, LOGS and RM (R250). -/
def sharedOk (r : CmdRun) : Bool :=
  field (cw r 4) 59 5 == 0 && field (cw r 5) 54 10 == 0 && field (cw r 7) 54 6 == 0 &&
    decide (cmdLogs r < 28) && decide (cmdRm r ≤ 4)

/-- A fault before the first unit (R251, R252). -/
def capCheck (c : Cap) (perm side : Nat) : Option CmdFault :=
  (capFault c perm).map fun e => ⟨e, side, capDepth c, capPath c, 0⟩

/-- The first fault of a list. -/
def firstFaultOf : List (Option CmdFault) → Option CmdFault
  | [] => none
  | none :: l => firstFaultOf l
  | some f :: _ => some f

def faultIf (p : Bool) (f : CmdFault) : Option CmdFault := if p then some f else none

/-- The start checks of a copy command (R247, R250, R251). -/
def copyStart (r : CmdRun) : Option CmdFault :=
  firstFaultOf [
    faultIf (!(cmdKind r == 0 && sharedOk r && field (cw r 6) 25 7 == 0)) ⟨cEngCmd, 0, 27, r.cur, 0⟩,
    capCheck (cmdSrc r) pR 0,
    if cmdStrm r then none else capCheck (cmdDst r) pW 1]

/-! ### Units of a copy (R251) -/

/-- What became of a unit: a fault with what its command then follows and what has changed, a delay with what it changed, or
its effect. -/
inductive UnitOut where
  | fault (f : CmdFault) (hist : List Nat) (s : State)
  | wait (s : State)
  | done (r : CmdRun) (s : State)

/-- The pending writes of a unit of a side (R248); `shoff` leads to the shadow of a line of global memory, `hist` is what
the command follows. -/
def writePending (tile : Nat) (ops : List MOp) (shoff : Option Nat) (key : Nat) (hist : List Nat) (s : State) : State :=
  ops.foldl (fun s o => addPending o shoff key hist s) (sealTrips tile key (ops.flatMap opWords) s)

/-- May the unit's write be held pending: a pan has room, a global line has a shadow pair (R248, R310)? -/
def canPend (pan : Option Nat) (m : Option Mapping) (ops : List MOp) (s : State) : Bool :=
  match pan, m with
  | some t, _ =>
    let held := panPending t s
    let new := ((ops.flatMap opWords).map lineOf).eraseDups.filter fun l => !held.contains l
    decide (held.length + new.length ≤ panPendMax)
  | none, some m => m.src != 3 && m.shadow.isSome
  | none, none => false

/-- Convert (R251): the code, or none where the containers of a RAW side and a numeric side differ. `whole` says that
the square and both offsets are aligned and scales go along; `d` is the scale that divides, none for none. -/
def convert (sf df code : Nat) (val : FVal) (scaledSides whole : Bool) (d : Option Nat) (rm rho : Nat) : Option Nat :=
  if sf = df && (!hasStrip sf || !scaledSides || whole) then some code
  else if sf ≤ 1 && df ≤ 1 then some (code % 256)
  else if sf ≤ 1 || df ≤ 1 then (if containerBits sf = containerBits df then some code else none)
  else
    let v := match d with
      | some 255 => FVal.nan
      | some d => scaleF val (127 - (d : Int))
      | none => val
    some (codeOf df rm rho v)

/-- The source of unit z: none outside the extents or unreadable. -/
structure SrcUnit where
  code : Nat
  scale : Option Nat
  fmt : Nat
  u : Nat
  m : Option Mapping

/-- The value of a source unit. -/
def SrcUnit.val (x : SrcUnit) : FVal := sideVal x.fmt x.code x.scale

/-- INT.ERROR to the hart that last advanced a chain (R287, R337). -/
def srcError (ch : Chain) (w : Nat) (s : State) : State := sendError ch.adv (errorVal w) s

/-- A unit whose walk met a line that cannot be read: counted, and reported as a line of a unit is (log 97). -/
def walkError (ch : Chain) (l : Nat) (s : State) : State := srcError ch (8 * l) (countFailing l s)

/-- A source unit, once it is located, is read at one point (R255): its command follows what the walk and the words follow;
a format other than the first unit's faults. `wanted` says for which formats its scale is read. -/
def readUnit (tile : Nat) (ch : Chain) (r : CmdRun) (z frame fmt u : Nat) (m : Option Mapping) (depth path : Nat)
    (wanted : Nat → Bool) (s0 s : State) : Except UnitOut (Option SrcUnit × CmdRun × State) :=
  if r.srcFmt.isSome && r.srcFmt != some fmt then .error (.fault ⟨cMemFmt, 0, depth, path, z⟩ r.hist s)
  else
    let words := sideWords frame fmt u m (wanted fmt)
    let hist := (r.hist ++ words.flatMap fun w => wordHist w (2 ^ 64 - 1) s).eraseDups
    match readDelay hist words s0 with
    | some t => .error (.wait t)
    | none =>
      let r := { r with srcFmt := some fmt, hist := hist }
      match sideCode (tileKey tile r.fw s) frame fmt u m (wanted fmt) (sideTrip tile r.fw [] words (sideHost m) hist s) with
      | (.error w, s) => .ok (none, r, srcError ch w s)
      | (.ok (code, scale), s) => .ok (some ⟨code, scale, fmt, u, m⟩, r, s)

/-- What a source unit comes to by what its address has come to: `s0` is the state before its walk, which has taken place in
`t`. A unit whose walk fails counts as an unreadable one (log 97). -/
def sourceAt (tile : Nat) (eng : Bool) (ch : Chain) (r : CmdRun) (z : Nat) (wanted : Nat → Bool) (s0 t : State)
    (at' : SideAt) : Except UnitOut (Option SrcUnit × CmdRun × State) :=
  match at' with
  | .fault e d p => .error (.fault ⟨e, 0, d, p, z⟩ r.hist t)
  | .unread l => .ok (none, r, walkError ch l t)
  | .delayed => .error (.wait s0)
  | .asks a => .error (.wait (engAsk tile eng a t))
  | .absent l d p => .error (.wait (engPark tile eng l d p t))
  | .ok frame fmt u m d p => readUnit tile ch r z frame fmt u m d p wanted s0 t

/-- A source unit inside the extents: its walk, once that may be performed, then its read. -/
def walkSource (tile : Nat) (eng : Bool) (ch : Chain) (r : CmdRun) (z off : Nat) (wanted : Nat → Bool) (s : State) :
    Except UnitOut (Option SrcUnit × CmdRun × State) :=
  let c := cmdSrc r
  let walk := sideWalk tile r.fw c off s
  let hist := (r.hist ++ sideHist tile r.fw c off [] s).eraseDups
  match readDelay hist walk s with
  | some t => .error (.wait t)
  | none => sourceAt tile eng ch { r with hist := hist } z wanted s (sideTrip tile r.fw walk [] false hist s)
      (sideAt tile r.fw (engDenied tile eng s) false c (cmdSpfmt r) off s)

/-- Read the source unit at an offset: a fault, a delay, or the unit. -/
def readSource (tile : Nat) (eng : Bool) (ch : Chain) (r : CmdRun) (z off : Nat) (wanted : Nat → Bool) (s : State) :
    Except UnitOut (Option SrcUnit × CmdRun × State) :=
  let c := cmdSrc r
  if !unitInBlock c (cmdSpfmt r) off || !addrOk c (capPath c) then
    .error (.fault ⟨cCapBounds, 0, 27, (capPath c + off) % 2 ^ 54, z⟩ r.hist s)
  else if !unitInside c (cmdSpfmt r) off then .ok (none, r, s)
  else walkSource tile eng ch r z off wanted s

/-- The hart of a tile that holds a stream tag, and its stream register. -/
def streamHart (tile tag : Nat) (s : State) : Option (Hart × Nat) :=
  (allHarts s).findSome? fun h =>
    if tileOf h.nm = tile then (h.streams.find? fun x => x.2.tag == tag).map fun x => (h, x.1) else none

/-- An element enters the buffer of a bound stream (R48). -/
def deliver (h : Hart) (k width code : Nat) (s : State) : State :=
  signalHart h.nm (.stream k) (modHart h.nm (fun h => { h with streams := h.streams.map fun (k', st) =>
    (k', if k' = k then { st with buf := st.buf ++ [(width, BitVec.ofNat 64 code)] } else st) }) s)

/-- The elements that a stream register buffers (R48). -/
def streamMax : Nat := 16

/-- Deliver unit z to the stream of the command, held while no hart binds it or its buffer is full. -/
def copyStream (tile : Nat) (r : CmdRun) (z : Nat) (src : Option SrcUnit) (s0 s : State) : UnitOut :=
  match streamHart tile (cmdStag r) s with
  | none => .wait s0
  | some (h, k) =>
    if streamMax ≤ ((streamOf k h).map fun st => st.buf.length).getD 0 then .wait s0
    else
      let df := cmdDpfmt r
      let c := cmdDst r
      let code := match src with
        | none => some (cmdPad r)
        | some x => convert x.fmt df x.code x.val false false none (cmdRm r) (cmdRho r z)
      match (if fmtKind df = .reserved then none else code) with
      | none => .fault ⟨cMemFmt, 1, capDepth c, capPath c, z⟩ r.hist s
      | some v => .done r (deliver h k (containerBits df) (v % 2 ^ containerBits df) s)

/-- The code of unit z for its destination format, none where the formats do not convert. -/
def copyCode (r : CmdRun) (z : Nat) (src : Option SrcUnit) (df : Nat) (scaledSides whole : Bool) (scale : Option Nat) :
    Option Nat :=
  match src with
  | none => some (cmdPad r)
  | some x => convert x.fmt df x.code x.val scaledSides whole scale (cmdRm r) (cmdRho r z)

/-- The strip byte that goes along with a unit between pages of one scaled format (R251). -/
def copyStrip (src : Option SrcUnit) (df u : Nat) (m : Option Mapping) (goes : Bool) : Option MOp :=
  match src, sideStrip df m with
  | some x, some q => if x.fmt = df && goes then x.scale.map fun v => wordWrite (8 * scaleByte q df u) 8 v else none
  | _, _ => none

/-- Unit z is written at its place, once its code is known: `a` is its address. -/
def copyPend (tile key : Nat) (r : CmdRun) (z a frame df u depth path : Nat) (m : Option Mapping)
    (strip : Option MOp) (s : State) (code : Option Nat) : UnitOut :=
  match code with
  | none => .fault ⟨cMemFmt, 1, depth, path, z⟩ r.hist s
  | some v =>
    let ops := unitOps frame df u (v % 2 ^ containerBits df) ++ strip.toList
    if !canPend (capTileOf tile (cmdDst r)) m ops s then .fault ⟨cEngShadow, 1, 27, a, z⟩ r.hist s
    else .done r (writePending tile ops (m.bind fun m => m.shadow) key r.hist s)

/-- Is a unit converted by the scale that its destination has already (R251)? -/
def dividesBy (src : Option SrcUnit) (df : Nat) (m : Option Mapping) (scaledSides whole : Bool) : Bool :=
  match src with
  | some x => (sideStrip df m).isSome && decide (1 < x.fmt) && !(x.fmt == df && (!scaledSides || whole))
  | none => false

/-- Unit z is written to its place, once that is located: `a` is its address. A destination's scale that the unit is divided
by and that cannot be read counts as an unreadable source (log 99). -/
def copyHere (tile : Nat) (ch : Chain) (r : CmdRun) (z a frame df u d p : Nat) (m : Option Mapping) (src : Option SrcUnit)
    (s0 s : State) : UnitOut :=
  if r.dstFmt.isSome && r.dstFmt != some df then .fault ⟨cMemFmt, 1, d, p, z⟩ r.hist s
  else
    let scaledSides := match src with
      | some x => x.m.isSome && m.isSome
      | none => false
    let whole := decide (5 ≤ cmdLogs r) && (capPath (cmdSrc r) + cmdSoff r) % 1024 == 0 &&
      (capPath (cmdDst r) + cmdDoff r) % 1024 == 0 && (!cmdTr r || squareScale df)
    let key := tileKey tile r.fw s
    let words := if dividesBy src df m scaledSides whole then stripWords df u m else []
    let hist := (r.hist ++ words.flatMap fun w => wordHist w (2 ^ 64 - 1) s).eraseDups
    match readDelay hist words s0 with
    | some t => .wait t
    | none =>
      let r := { r with dstFmt := some df, hist := hist }
      let s := sideTrip tile r.fw [] words false hist s
      match badWord words key s with
      | some w => copyPend tile key r z a frame df u d p m none (srcError ch w (countFailing (lineOf w) s)) (some (cmdPad r))
      | none => copyPend tile key r z a frame df u d p m (copyStrip src df u m (scaledSides && whole)) s
          (copyCode r z src df scaledSides whole ((sideStrip df m).map fun q => scaleAt key q df u s))

/-- Unit z is written to its place, or faults or waits as that requires. A place whose walk fails stays unwritten
(log 97). -/
def copyPlace (tile : Nat) (ch : Chain) (r : CmdRun) (z a off : Nat) (src : Option SrcUnit) (s0 s : State)
    (at' : SideAt) : UnitOut :=
  let walk := sideWalk tile r.fw (cmdDst r) off s
  let hist := (r.hist ++ sideHist tile r.fw (cmdDst r) off [] s).eraseDups
  match readDelay hist walk s0 with
  | some t => .wait t
  | none =>
    let r := { r with hist := hist }
    let t := sideTrip tile r.fw walk [] false hist s
    match at' with
    | .fault e d p => .fault ⟨e, 1, d, p, z⟩ hist t
    | .unread l => .done r (walkError ch l t)
    | .delayed => .wait s0
    | .asks _ => .wait s0
    | .absent l d p => .wait (engPark tile false l d p s0)
    | .ok frame df u m d p => copyHere tile ch r z a frame df u d p m src s0 t

/-- The offset of unit z at the destination (R251). -/
def copyOff (r : CmdRun) (z : Nat) : Nat :=
  cmdDoff r + (if cmdTr r then zOf (colOf z) (rowOf z) else zOf (rowOf z) (colOf z))

/-- Write unit z to its place at the destination. -/
def copyWrite (tile : Nat) (ch : Chain) (r : CmdRun) (z : Nat) (src : Option SrcUnit) (s0 s : State) :
    UnitOut :=
  let c := cmdDst r
  let off := copyOff r z
  let a := (capPath c + off) % 2 ^ 54
  if !unitInBlock c (cmdDpfmt r) off || !addrOk c (capPath c) then .fault ⟨cCapBounds, 1, 27, a, z⟩ r.hist s
  else if !unitInside c (cmdDpfmt r) off then .done r s
  else copyPlace tile ch r z a off src s0 s (sideAt tile r.fw none true c (cmdDpfmt r) off s)

/-- Unit z of a copy from what its source came to. -/
def copyPut (tile : Nat) (ch : Chain) (r : CmdRun) (s : State) (x : Except UnitOut (Option SrcUnit × CmdRun × State)) :
    UnitOut :=
  match x with
  | .error o => o
  | .ok (src, r', s') =>
    if cmdStrm r then copyStream tile r' r.z src s s' else copyWrite tile ch r' r.z src s s'

/-- The format of a copy's destination: that of a pan or of a stream, or of the page that unit z falls on. -/
def copyFmt (tile : Nat) (r : CmdRun) (s : State) : Option Nat :=
  if cmdStrm r || capSpace (cmdDst r) != 0 then some (cmdDpfmt r)
  else match sideAt tile r.fw none true (cmdDst r) 0 (copyOff r r.z) s with
    | .ok _ df _ _ _ _ => some df
    | _ => none

/-- Is the scale of a unit of global memory of a format read: it goes along, or into the value (R251)? The code alone passes
between equal formats unless both sides are global, and to RAW. -/
def copyWants (tile : Nat) (r : CmdRun) (s : State) (sf : Nat) : Bool :=
  match copyFmt tile r s with
  | none => true
  | some df => if sf = df then !cmdStrm r && capSpace (cmdDst r) == 0 else decide (1 < df)

/-- Unit z of a copy: source, conversion, destination (R251). -/
def copyUnit (tile : Nat) (ch : Chain) (r : CmdRun) (s : State) : UnitOut :=
  copyPut tile ch r s (readSource tile false ch r r.z (cmdSoff r + r.z) (copyWants tile r s) s)

/-- The copy engine goes on after a unit: it ends the command with the last one or with a fault. -/
def copyNext (tile : Nat) (ch : Chain) (r : CmdRun) (s : State) (o : UnitOut) : State :=
  match o with
  | .fault f hist t => endCommand tile false ch hist r.cur (some (cmdNext r)) (some f) s t
  | .wait s => s
  | .done r t =>
    if r.z + 1 = 4 ^ cmdLogs r then endCommand tile false ch r.hist r.cur (some (cmdNext r)) none s t
    else goOn tile false { r with z := r.z + 1 } t

/-- An engine goes on with its command: not while it is stopped, and the header's translation comes first. -/
def engineStep (tile : Nat) (eng : Bool) (f : Chain → CmdRun → State → State) (s : State) : State :=
  let e := getEngine tile eng s
  match e.run with
  | none => s
  | some r => match e.chains.find? fun c => c.hdr == r.hdr with
    | none => s
    | some ch =>
      if engStops tile eng s then s
      else if ch.stale then retranslate tile eng ch s
      else f ch r s

/-- The copy engine handles the next unit of its command. -/
def copyStep (tile : Nat) (s : State) : State :=
  engineStep tile false (fun ch r s =>
    match copyStart r with
    | some f => endCommand tile false ch r.hist r.cur (some (cmdNext r)) (some f) s s
    | none => copyNext tile ch r s (copyUnit tile ch r s)) s

/-! ### Quantize (R253, R254) -/

/-- The start checks of a quantize command: ENG.CMD, the capabilities, the shape, and ATOM for AMAX. -/
def quantStart (ch : Chain) (r : CmdRun) : Option CmdFault :=
  let d := cmdDst r
  firstFaultOf [
    faultIf (!(cmdKind r == 1 && sharedOk r && field (cw r 6) 29 19 == 0 && field (cw r 6) 15 1 == 0 &&
      field (cw r 6) 6 6 == 0 && decide (cmdPct r ≤ 1024))) ⟨cEngCmd, 0, 27, r.cur, 0⟩,
    capCheck (cmdSrc r) pR 0,
    capCheck d pW 1,
    faultIf (capSpace d != 0) ⟨cEngFormat, 1, capDepth d, capPath d, 0⟩,
    faultIf (decide (cmdLogs r < 5) || cmdDoff r % 1024 != 0) ⟨cEngShape, 1, capDepth d, capPath d, 0⟩,
    faultIf (cmdAmax r && !hasPerm ch.cap pAtom) ⟨cCapPerm, 0, capDepth ch.cap, capPath ch.cap, 0⟩]

/-- Is a source unit RAW or RAW64 with a container other than that of the destination's format (R251, case 4)? -/
def rawClash (src : Option SrcUnit) (df : Nat) : Bool :=
  src.any fun x => decide (x.fmt ≤ 1) && containerBits x.fmt != containerBits df

/-- The destination of a unit, once it is located: a HOST page holds no pending write, and any other must have an MX or BPS
format (R253, R310; log 100). -/
def quantPlace (r : CmdRun) (z a frame df u : Nat) (m : Option Mapping) (depth path : Nat) (src : Option SrcUnit)
    (s : State) : Except UnitOut (Option (Nat × Nat × Mapping) × CmdRun × State) :=
  let c := cmdDst r
  let stop (f : CmdFault) : Except UnitOut (Option (Nat × Nat × Mapping) × CmdRun × State) := .error (.fault f r.hist s)
  if sideHost m then stop ⟨cEngShadow, 1, 27, a, z⟩
  else if r.dstFmt.isSome && r.dstFmt != some df then stop ⟨cMemFmt, 1, depth, path, z⟩
  else if !hasStrip df then stop ⟨cEngFormat, 1, capDepth c, capPath c, 0⟩
  else if rawClash src df then stop ⟨cMemFmt, 1, depth, path, z⟩
  else match m with
    | none => .ok (none, r, s)
    | some x =>
      if x.shadow.isSome then .ok (some (frame, u, x), { r with dstFmt := some df }, s)
      else stop ⟨cEngShadow, 1, 27, a, z⟩

/-- What the destination of unit z, at address a, comes to by what that has come to: a place whose walk fails stays unwritten
(log 97). -/
def quantAt (tile : Nat) (ch : Chain) (r : CmdRun) (z a : Nat) (src : Option SrcUnit) (s0 t : State) (at' : SideAt) :
    Except UnitOut (Option (Nat × Nat × Mapping) × CmdRun × State) :=
  match at' with
  | .fault e d p => .error (.fault ⟨e, 1, d, p, z⟩ r.hist t)
  | .unread l => .ok (none, r, walkError ch l t)
  | .delayed => .error (.wait s0)
  | .asks _ => .error (.wait s0)
  | .absent l d p => .error (.wait (engPark tile true l d p s0))
  | .ok frame df u m d p => quantPlace r z a frame df u m d p src t

/-- A destination inside the extents: its walk, once that may be performed, then its place. -/
def walkDest (tile : Nat) (ch : Chain) (r : CmdRun) (z a off : Nat) (src : Option SrcUnit) (s0 s : State) :
    Except UnitOut (Option (Nat × Nat × Mapping) × CmdRun × State) :=
  let c := cmdDst r
  let walk := sideWalk tile r.fw c off s
  let hist := (r.hist ++ sideHist tile r.fw c off [] s).eraseDups
  match readDelay hist walk s0 with
  | some t => .error (.wait t)
  | none => quantAt tile ch { r with hist := hist } z a src s0 (sideTrip tile r.fw walk [] false hist s)
      (sideAt tile r.fw none true c 0 off s)

/-- The destination of unit z: its frame, place and mapping, if it lies in the extents. -/
def quantDest (tile : Nat) (ch : Chain) (r : CmdRun) (z : Nat) (src : Option SrcUnit) (s0 s : State) :
    Except UnitOut (Option (Nat × Nat × Mapping) × CmdRun × State) :=
  let c := cmdDst r
  let off := cmdDoff r + z
  let a := (capPath c + off) % 2 ^ 54
  if !offInBlock c off then .error (.fault ⟨cCapBounds, 1, 27, a, z⟩ r.hist s)
  else if !offInside c off then .ok (none, r, s)
  else walkDest tile ch r z a off src s0 s

/-- The value of a source unit: a RAW unit has none that any rule gives, so it is a free value of its code. -/
def quantVal (fmt code : Nat) (scale : Option Nat) : FVal :=
  if fmt ≤ 1 then floatVal fp32 (Config.rawValue (BitVec.ofNat 64 code)).toNat else sideVal fmt code scale

/-- The value of a unit of a square, none if it is absent. -/
def elemValue (r : CmdRun) (q : QElem) : Option FVal := q.src.map fun x => quantVal (r.srcFmt.getD 0) x.1 x.2

/-- A unit of a square whose destination is known joins the square. -/
def joinUnit (r : CmdRun) (src : Option SrcUnit) (dst : Option (Nat × Nat × Mapping)) : CmdRun :=
  { r with units := r.units ++ [⟨r.z % 1024, src.map fun x => (x.code, x.scale), dst⟩] }

/-- The unit whose destination is looked for takes its place in the square (R254). -/
def quantJoin (src : Option SrcUnit) (x : Except UnitOut (Option (Nat × Nat × Mapping) × CmdRun × State)) : UnitOut :=
  match x with
  | .error o => o
  | .ok (dst, r, s) => .done (joinUnit r src dst) s

/-- The unit whose source is known: its destination, and its place in the square. -/
def quantPut (tile : Nat) (ch : Chain) (z : Nat) (s0 : State) (x : Except UnitOut (Option SrcUnit × CmdRun × State)) :
    UnitOut :=
  match x with
  | .error o => o
  | .ok (src, r, s) => quantJoin src (quantDest tile ch r z src s0 s)

/-- The next unit of a quantize command: its value takes in its scale. -/
def quantUnit (tile : Nat) (ch : Chain) (r : CmdRun) (s : State) : UnitOut :=
  quantPut tile ch r.z s (readSource tile true ch r r.z (cmdSoff r + r.z) (fun _ => true) s)

/-- The magnitude of a value. -/
def absF : FVal → FVal
  | .num _ m e => .num false m e
  | .inf _ => .inf false
  | .nan => .nan

/-- The biased FP32 exponent field of a magnitude. Of a scaled value that is no FP32 value R254 does not say how it becomes
one: it is truncated here, so that a bin holds one binade, and rounded to the nearest for AMAX (log 112). -/
def binOf (x : FVal) : Nat := field (roundFloat fp32 1 0 (absF x)) 23 8

/-- The FP32 code of a magnitude, as AMAX takes it. -/
def amaxCode (x : FVal) : Nat := if isNanF x then 0x7FC00000 else roundFloat fp32 0 0 (absF x)

/-- The binade of the largest positive value of an element format (R254). -/
def emaxOf (fmt : Nat) : Nat :=
  match fmtKind fmt with
  | .planes k _ => k - 2
  | _ => match fmt with
    | 58 => 2
    | 59 => 2
    | 60 => 4
    | 61 => 8
    | 62 => 15
    | _ => 0

/-- The scale of a group from the bins of its present elements. -/
def groupScale (fmt pct : Nat) (bins : List Nat) : Nat :=
  let n := bins.length
  let t := (pct * n + 1023) / 1024
  if n = 0 then 127
  else
    let b := (findFrom (fun b => decide (t ≤ (bins.filter fun x => x ≤ b).length)) 0 256).getD 255
    min (b - emaxOf fmt) 254

/-- The group of a unit of a square: its row, or the whole square. -/
def groupOf (fmt i : Nat) : Nat := if squareScale fmt then 0 else rowOf i

/-- The bins of the present elements of a group. -/
def groupBins (r : CmdRun) (fmt g : Nat) : List Nat :=
  (r.units.filter fun q => groupOf fmt q.i == g).filterMap fun q => (elemValue r q).map binOf

/-- The pending writes of one unit of the square of which `base` is the first: the scale of its group and its code. A
group of which no unit lies inside DST's extents has no scale written (log 112). -/
def quantWrite (tile key : Nat) (r : CmdRun) (fmt base : Nat) (s : State) (q : QElem) : State :=
  match q.dst with
  | none => s
  | some (frame, u, m) =>
    let x := groupScale fmt (cmdPct r) (groupBins r fmt (groupOf fmt q.i))
    let code := match elemValue r q with
      | none => 0
      | some v => codeOf fmt (cmdRm r) (cmdRho r (base + q.i)) (scaleF v (127 - (x : Int)))
    writePending tile (wordWrite (8 * scaleByte m.strip fmt u) 8 x :: unitOps frame fmt u code) m.shadow key r.hist s

/-- The statistics of a command after the present elements of a square. -/
def quantStats (r : CmdRun) : CmdRun :=
  r.units.foldl (fun r' q => match elemValue r q with
    | none => r'
    | some v => { r' with
        amax := max r'.amax (amaxCode v)
        bins := updateNat (binOf v) (some ((lookupNat (binOf v) r'.bins).getD 0 + 1)) r'.bins }) r

/-- The units of a square that have been read are written, and counted; an `rinv` that waits for them looks again (R307). -/
def quantSquare (tile key : Nat) (r : CmdRun) (s : State) : CmdRun × State :=
  ({ quantStats r with units := [] },
   signalAll .completion (r.units.foldl (quantWrite tile key r (r.dstFmt.getD 58) (r.z / 1024 * 1024)) s))

/-- The location of a byte of a header: it is found anew, as a large header may lie in two pages. -/
def hdrByte (tile : Nat) (ch : Chain) (off : Nat) (s : State) : Option Nat :=
  match sideAt tile ch.fw none true ch.cap 0 off s with
  | .ok frame _ u m _ _ => if sideHost m then none else some (frame + u)
  | _ => none

/-- The bytes of a header that the report of a command is written to. -/
def reportBytes (r : CmdRun) : List Nat :=
  (if cmdHist r then (List.range 256).map fun b => 1024 + 4 * b else []) ++ if cmdAmax r then [64] else []

/-- The words of a header that the report of a command is written to, once all have a location. -/
def reportWords (tile : Nat) (ch : Chain) (r : CmdRun) (s : State) : List Nat :=
  ((reportBytes r).filterMap fun b => (hdrByte tile ch b s).map fun a => a / 8).eraseDups

/-- The words of table entries that are read to locate a report. -/
def reportWalk (tile : Nat) (ch : Chain) (r : CmdRun) (s : State) : List Nat :=
  ((reportBytes r).flatMap fun b => sideWalk tile ch.fw ch.cap b s).eraseDups

/-- What a report, and the end of its command, follow besides the command's units: the walks to it, and the old AMAX. -/
def reportHist (tile : Nat) (ch : Chain) (r : CmdRun) (s : State) : List Nat :=
  (reportWalk tile ch r s ++ if cmdAmax r then (hdrByte tile ch 64 s).toList.map fun a => a / 8 else []).flatMap
    fun w => wordHist w (2 ^ 64 - 1) s

/-- What stands before the report of a command: every byte has a location (log 98), its walks may be performed, and so may
its stores. -/
def reportDelay (tile : Nat) (ch : Chain) (r : CmdRun) (hist : List Nat) (s : State) : Option State :=
  if (reportBytes r).any fun b => (hdrByte tile ch b s).isNone then some s
  else match readDelay (ch.hist ++ hist) (reportWalk tile ch r s) s with
    | some t => some t
    | none => hdrDelay tile ch hist (reportWords tile ch r s) s

/-- HIST, then AMAX, are written at the end of a command (R254). With no present element there is no largest |x|, and no
`amo.max` (log 112). -/
def quantReport (tile : Nat) (ch : Chain) (r : CmdRun) (hist : List Nat) (s : State) : State :=
  let q (w : Nat) : Req := engineReq tile ch hist w s
  let at_ (off : Nat) (s : State) : Nat := 8 * (hdrByte tile ch off s).getD 0
  let count (b : Nat) : Nat := min ((lookupNat b r.bins).getD 0) (2 ^ 32 - 1)
  let s := sideTrip tile ch.fw (reportWalk tile ch r s) (reportWords tile ch r s) false (ch.hist ++ hist) s
  let s := if cmdHist r then (List.range 256).foldl (fun s b =>
      let k := at_ (1024 + 4 * b) s
      storeHome (q (k / 64)) (wordWrite k 32 (count b)) s) s else s
  if cmdAmax r && !r.bins.isEmpty then
    let b := at_ 64 s
    let old := memBits (tileKey tile ch.fw s) b 32 s
    storeHome (q (b / 64)) (wordWrite b 32 (wrap (max (toSigned old 32) (toSigned r.amax 32)) 32)) s
  else s

/-- A quantize command ends after its last square: its report, then the end of the command. -/
def quantEnd (tile : Nat) (ch : Chain) (r : CmdRun) (s0 s : State) : State :=
  let hist := (r.hist ++ reportHist tile ch r s0).eraseDups
  match reportDelay tile ch r hist s0 with
  | some t => t
  | none => endCommand tile true ch hist r.cur (some (cmdNext r)) none s0 (quantReport tile ch r hist s)

/-- The quantizer goes on after a unit: a square that is complete is written, and the command ends with the last one or
with a fault, before which what has been read of its square is written. -/
def quantNext (tile : Nat) (ch : Chain) (r : CmdRun) (s : State) (o : UnitOut) : State :=
  match o with
  | .wait s => s
  | .fault f hist t =>
    let (_, t) := quantSquare tile (tileKey tile r.fw t) r t
    endCommand tile true ch hist r.cur (some (cmdNext r)) (some f) s t
  | .done r t =>
    if (r.z + 1) % 1024 != 0 then goOn tile true { r with z := r.z + 1 } t
    else
      let (q, t) := quantSquare tile (tileKey tile r.fw t) r t
      if r.z + 1 != 4 ^ cmdLogs r then goOn tile true { q with z := r.z + 1 } t
      else quantEnd tile ch q s t

/-- The quantizer handles the next unit of its command. -/
def quantStep (tile : Nat) (s : State) : State :=
  engineStep tile true (fun ch r s =>
    match quantStart ch r with
    | some f => endCommand tile true ch r.hist r.cur (some (cmdNext r)) (some f) s s
    | none => quantNext tile ch r s (quantUnit tile ch r s)) s

/-! ### One meaning for each instruction and event -/

/-- R246: Append commands to a chain. -/
def execChadv (a : BitVec 8) (s : State) : Out := .next (opChadv (.chadv a) a s)
/-- R249: Make pending engine writes current. -/
def execPublish (a : BitVec 8) (s : State) : Out := .next (opPublish (.publish a) a s)
/-- R247: An engine reads the next command line of a running chain. -/
def execCommandFetch (tile : BitVec 13) (eng : Bool) (s : State) : Out := .next (commandFetch tile.toNat eng s)
/-- R251: The copy engine handles a unit. -/
def execCopyCommand (tile : BitVec 13) (s : State) : Out := .next (copyStep tile.toNat s)
/-- R254: The quantizer handles a unit. -/
def execQuantizeCommand (tile : BitVec 13) (s : State) : Out := .next (quantStep tile.toNat s)

end Sys2Proof.Machine
end

