-- ==== Sys2Proof/Machine/System.lean ====
section
/-! DEFINITION. System calls, breakpoints, trap returns, fences and `rinv` (R110, R288, R307). -/

namespace Sys2Proof.Machine

open Sys2Proof

/-! ### Traps and returns (R288) -/

/-- The immediate of the IA form (R61). -/
def immIA (h : Hart) (imm : BitVec 8) : Nat :=
  if h.xiv then field h.xi.toNat 0 24 * 2 ^ 8 + imm.toNat else imm.toNat

/-- A gate without operands; inside a transaction the instruction is unsafe (R121). -/
def barredGate (i : Instr) : Gate := { plainGate i [] [] with bars := true }

/-- `ecall` and `ebreak` issue, and their trap is their effect: it saves PXIV 0 and the instruction's own
address. -/
def opTrap (i : Instr) (cls detail tval : Nat) (s : State) : State :=
  let pc := s.me.pc.toNat
  issue { barredGate i with set := .Y } (modMe (Hart.trap cls detail pc tval false)) s

/-- `tret`: in user mode it raises PRIV.MODE. -/
def opTret (i : Instr) (s : State) : State :=
  issue { barredGate i with set := .Y, moded := s.me.mode != .user } (modMe Hart.tret) s

/-! ### Fences (R110) -/

/-- The homes that a fence covers. -/
inductive FenceScope where
  | cell | tile | sector | stack | domain
  deriving DecidableEq, Repr

/-- Is a tile within a scope, seen from a hart's tile? -/
def tileInScope (k : FenceScope) (t t' : Nat) : Bool :=
  match k with
  | .cell => false
  | .tile => t' == t
  | .sector => t' / 16 == t / 16
  | .stack => t' / 64 == t / 64
  | .domain => true

/-- Is the sector slice of a line within a scope? -/
def sliceInScope (k : FenceScope) (t sec : Nat) : Bool :=
  match k with
  | .sector => sec == t / 16
  | .stack => sec / 4 == t / 64
  | .domain => true
  | _ => false

/-- Is the home of a line within a scope? The host port and the leaders are in the domain only; a tile's semaphores lie
with its banks (log 96). -/
def lineInScope (k : FenceScope) (t l : Nat) (s : State) : Bool :=
  if k = .domain then true
  else if 2 ^ 60 ≤ l then false
  else if semBase ≤ 64 * l then tileInScope k t (semTile (8 * l))
  else if panBase ≤ 64 * l then tileInScope k t (panTile (8 * l))
  else sliceInScope k t (sectorFor l s)

/-- Is the home of a request within a scope? -/
def reqInScope (k : FenceScope) (t : Nat) (r : Req) (s : State) : Bool := lineInScope k t r.line s

/-- Does a fence wait for a posted `msem.v`, held or not (R237, R238)? -/
def fenceWaitsSem (k : FenceScope) (h : Hart) (s : State) : Bool :=
  s.tiles.any fun x => tileInScope k (tileOf h.nm) x.1 &&
    (x.2.semv ++ x.2.semHeld).any fun v => v.src == h.nm || h.hist.contains v.id

/-- What a fence still waits for: the hart's stores to its cell's commons, the messages, posted increments and writes in
its history, and its own requests, each with its home in the scope. -/
def fenceWaits (k : FenceScope) (s : State) : Bool :=
  let h := s.me
  let t := tileOf h.nm
  (getCell (cellOf h.nm) s).stq.any (fun c => c.src == h.nm) ||
    s.msgs.any (fun m => h.hist.contains m.id && tileInScope k t (tileOf m.dst)) ||
    fenceWaitsSem k h s ||
    s.reqs.any fun r => ((r.isWrite && h.hist.contains r.id) || h.out.contains r.id) && reqInScope k t r s

/-- What the accesses to homes in the scope that a fence has waited for have found happens before all that follows it. -/
def fenceOrders (k : FenceScope) (s : State) : List Nat :=
  (s.pends.filter fun p => p.route == s.me.nm).flatMap fun p =>
    (p.done.filter fun x => lineInScope k (tileOf s.me.nm) x.1 s).flatMap fun x => x.2

/-- A fence: it issues once nothing is left to wait for. -/
def opFence (i : Instr) (k : FenceScope) (s : State) : State :=
  match gate (barredGate i) s with
  | some s' => s'
  | none =>
    if fenceWaits k s then waitOn [.completion] s
    else modMe (fun h => { h with hist := (h.hist ++ fenceOrders k s).eraseDups }) (advance (barredGate i) s)

/-! ### `rinv` (R307) -/

/-- The dies in the scope of an `rinv` beyond the hart's own entries. -/
def rinvDies (scope : Nat) (h : Hart) (s : State) : List Nat :=
  let d := dieOf h.nm
  if scope = 0 then []
  else if scope = 1 then [d]
  else match hartPartition h s with
    | some p => if p.whole then (List.range 64).filter fun i => p.diemask.getLsbD i else [p.die]
    | none => [d]

/-- TLB entries of the block are dropped in a cell of the scope. -/
def dropTlb (own : Bool) (h : Hart) (dies : List Nat) (d p : Nat) (c : Nat × Cell) : Nat × Cell :=
  let gone (e : TlbEntry) : Bool := overlaps d p e.map.depth e.map.path &&
    (if own then c.1 == cellOf h.nm && e.slot == slotOf h.nm else dies.contains (c.1 / 2 ^ 12))
  (c.1, { c.2 with tlb := c.2.tlb.filter fun e => !gone e })

/-- Cached range entries of the block are dropped in a die of the scope. -/
def dropRanges (dies : List Nat) (d p : Nat) (x : Nat × Die) : Nat × Die :=
  let gone (l : Line) : Bool :=
    let r := rangeOf fun k => field l.toNat (64 * k) 64
    overlaps d p r.depth r.path
  if dies.contains x.1 then (x.1, { x.2 with ranges := x.2.ranges.filter fun e => !gone e.2 }) else x

/-- The engines of a tile in the scope translate the headers of their chains afresh (R307). -/
def Engine.forget (d p : Nat) (e : Engine) : Engine :=
  { e with chains := e.chains.map fun c =>
      if capSpace c.cap = 0 && !c.fw && overlaps d p c.blk.1 c.blk.2 then { c with stale := true } else c }

/-- Has the quantizer units of a square under way that it has located in the block (R307)? -/
def Engine.locates (d p : Nat) (e : Engine) : Bool :=
  e.run.any fun r => !r.fw && r.units.any fun q => q.dst.any fun x => overlaps d p x.2.2.depth x.2.2.path

def dropHeaders (dies : List Nat) (d p : Nat) (t : Nat × Tile) : Nat × Tile :=
  if dies.contains (t.1 / 2 ^ 7) then (t.1, { t.2 with copy := t.2.copy.forget d p, quant := t.2.quant.forget d p }) else t

/-- Is a hart in the scope? -/
def rinvCovers (own : Bool) (dies : List Nat) (h x : Hart) : Bool :=
  if own then x.nm == h.nm else dies.contains (dieOf x.nm)

/-- Every translation of the block in the scope is dropped, with what walks have found for parked harts. -/
def dropBlock (scope d p : Nat) (s : State) : State :=
  let h := s.me
  let own := scope == 0
  let dies := rinvDies scope h s
  let s := { s with
    cells := s.cells.map (dropTlb own h dies d p)
    dies := s.dies.map (dropRanges dies d p)
    tiles := s.tiles.map (dropHeaders dies d p)
    host := if own then s.host else { s.host with atc := [] } }
  modAll (fun x => if rinvCovers own dies h x then { x with walked := [], walkFaults := [] } else x) s

/-- An access in the scope may still use a dropped translation: a request to memory, a fill, or a unit of the quantizer's
that is not yet written. -/
def rinvWaits (scope d p : Nat) (s : State) : Bool :=
  let h := s.me
  let own := scope == 0
  let dies := rinvDies scope h s
  s.reqs.any (fun r => if own then h.out.contains r.id else dies.contains (dieOf r.src)) ||
    (s.tiles.any fun t => t.2.fills.any fun f =>
      if own then h.work.contains f.id else dies.contains (t.1 / 2 ^ 7)) ||
    s.tiles.any fun t => !own && dies.contains (t.1 / 2 ^ 7) && t.2.quant.locates d p

/-- `rinv`. -/
def opRinv (i : Instr) (b a : Byte) (s : State) : State :=
  let v := (readOp .d .A a 0 s.me).1
  let scope := (readOp .d .B b (sameStream a b) s.me).1 % 4
  let g : Gate := { barredGate i with
    set := .Y, needs := [srcNeed .d .A a 0 s.me, srcNeed .d .B b (sameStream a b) s.me] }
  match gate g s with
  | some s' => s'
  | none =>
    if scope = 3 then cause (cIllegal 2 0) (wordNat i) s
    else if fenceWaits .domain s then waitOn [.completion] s
    else
      let t := dropBlock scope (blockDepth v) (blockPath v (blockDepth v)) s
      if rinvWaits scope (blockDepth v) (blockPath v (blockDepth v)) t then waitOn [.completion] t else advance g t

/-- R288: System call. -/
def execEcall (i : BitVec 8) (s : State) : Out :=
  .next (opTrap (.ecall i) 15 (immIA s.me i % 64) (immIA s.me i) s)
/-- R288: Breakpoint. -/
def execEbreak (s : State) : Out := .next (opTrap .ebreak 14 0 0 s)
/-- R288: Return from a trap. -/
def execTret (s : State) : Out := .next (opTret .tret s)
/-- R307: Drop translations of a block. -/
def execRinv (b a : BitVec 8) (s : State) : Out := .next (opRinv (.rinv b a) b a s)
/-- R110: Fence over the cell. -/
def execFenceCell (s : State) : Out := .next (opFence .fenceCell .cell s)
/-- R110: Fence over the tile. -/
def execFenceTile (s : State) : Out := .next (opFence .fenceTile .tile s)
/-- R110: Fence over the sector. -/
def execFenceSector (s : State) : Out := .next (opFence .fenceSector .sector s)
/-- R110: Fence over the stack. -/
def execFenceStack (s : State) : Out := .next (opFence .fenceStack .stack s)
/-- R110: Fence over the domain. -/
def execFenceDomain (s : State) : Out := .next (opFence .fenceDomain .domain s)

end Sys2Proof.Machine
end

