-- ==== Sys2Proof/Machine/Vector.lean ====
section
/-! DEFINITION. Vector instructions (R205 to R225). -/

namespace Sys2Proof.Machine

open Sys2Proof

/-! ### Types and lanes -/

/-- The element width that a vector operand byte names (R205). -/
def vEw (x : Byte) : Nat := 8 * 2 ^ opCode x

/-- The element type that a type byte names (R206). -/
def vTy (x : Byte) : ElemTy :=
  match opCode x, opMod x with
  | c, 0 => .int true (8 * 2 ^ c)
  | c, 1 => .int false (8 * 2 ^ c)
  | 0, 2 => .flt e4m3
  | 0, _ => .flt e5m2
  | 1, 2 => .flt fp16
  | 1, _ => .flt bf16
  | _, _ => .flt fp32

/-- Lane i of width e (R205). -/
def lane (e v i : Nat) : Nat := field v (e * i) e

/-- The number of lanes of a width. -/
def laneCount (e : Nat) : Nat := 512 / e

/-- The register whose lane i, of width e, is f i; the lanes from n on are zero. -/
def mkLanes (e n : Nat) (f : Nat → Nat) : Nat := joinLanes e ((List.range n).map f)

/-- A vector register as a number. -/
def vecNat (h : Hart) (k : Nat) : Nat := (getVec h k).toNat

/-! ### Lane results -/

/-- The exact arithmetic of a lane (R209). -/
inductive VOp where
  | add | sub | mul | fma
  deriving DecidableEq, Repr

/-- An integer lane (R209): the result wraps, or is clamped to the type's range. -/
def vIntLane (k : VOp) (sg sat : Bool) (e a b d : Nat) : Nat :=
  let c : Cls := if sg then .S else .Z
  let x : Int := match k with
    | .add => readInt c a e + readInt c b e
    | .sub => readInt c a e - readInt c b e
    | .mul => readInt c a e * readInt c b e
    | .fma => readInt c a e * readInt c b e + readInt c d e
  if sat then wrap (max (intRange sg e).1 (min (intRange sg e).2 x)) e else wrap x e

/-- A float lane (R209, R210): one rounding. -/
def vFltLane (k : VOp) (f : FloatFmt) (rm rho a b d : Nat) : Nat :=
  let x := floatVal f a
  let y := floatVal f b
  roundFloat f rm rho (match k with
    | .add => addF x y
    | .sub => addF x (negF y)
    | .mul => mulF x y
    | .fma => addF (mulF x y) (floatVal f d))

/-- The lesser or the greater of two lanes (R209, R210). -/
def vPick (greater : Bool) (t : ElemTy) (a b : Nat) : Nat :=
  match t with
  | .int sg e =>
    let c : Cls := if sg then .S else .Z
    if decide (readInt c b e < readInt c a e) == greater then a else b
  | .flt f =>
    if isNanF (floatVal f a) || isNanF (floatVal f b) then canonicalNan f
    else if ltZero (floatVal f b) (floatVal f a) == greater then a else b

/-- `vabs` and `vneg` (R211). -/
def vAbsLane (t : ElemTy) (a : Nat) : Nat :=
  match t with
  | .int true e => wrap ((toSigned a e).natAbs : Int) e
  | .int false _ => a
  | .flt f => if isNanF (floatVal f a) then canonicalNan f else a % 2 ^ (f.e + f.m)
def vNegLane (t : ElemTy) (a : Nat) : Nat :=
  match t with
  | .int _ e => (2 ^ e - a) % 2 ^ e
  | .flt f =>
    if isNanF (floatVal f a) then canonicalNan f
    else a % 2 ^ (f.e + f.m) + bit (!bitAt a (f.e + f.m)) * 2 ^ (f.e + f.m)

/-- Shifts (R212). -/
def vShlLane (e a s : Nat) : Nat := if e ≤ s then 0 else a * 2 ^ s % 2 ^ e
def vShrLane (t : ElemTy) (a s : Nat) : Nat :=
  match t with
  | .int true e => wrap (toSigned a e / (2 ^ min s e : Int)) e
  | t => if t.width ≤ s then 0 else a / 2 ^ s

/-- The conditions of `vcmp` (R213). -/
def vCond (cc : Nat) (t : ElemTy) (a b : Nat) : Bool :=
  match t with
  | .int sg e =>
    let c : Cls := if sg then .S else .Z
    let x := readInt c a e
    let y := readInt c b e
    match cc with
    | 0 => x == y
    | 1 => x != y
    | 2 => decide (x < y)
    | 3 => decide (y ≤ x)
    | 4 => decide (x ≤ y)
    | _ => decide (y < x)
  | .flt f =>
    let x := floatVal f a
    let y := floatVal f b
    match cc with
    | 0 => eqF x y
    | 1 => !eqF x y
    | 2 => ltF x y
    | 3 => ltF y x || eqF x y
    | 4 => ltF x y || eqF x y
    | _ => ltF y x

/-! ### Whole registers -/

/-- The lanes of A that a mask selects, in order (R217). -/
def vPacked (e a b : Nat) : List Nat :=
  (List.range (laneCount e)).filterMap fun i => if lane e b i = 0 then none else some (lane e a i)

/-- The number of selected lanes below lane i. -/
def vRank (e b i : Nat) : Nat := ((List.range i).filter fun j => lane e b j != 0).length

/-- One level of the tree of R101. -/
def pairUp (f : Nat → Nat → Nat) : List Nat → List Nat
  | a :: b :: t => f a b :: pairUp f t
  | l => l

/-- The tree of R101 over 2^k values. -/
def treeUp (f : Nat → Nat → Nat) (l : List Nat) : Nat → List Nat
  | 0 => l
  | k + 1 => treeUp f (pairUp f l) k

/-- One combination of `vred` (R219): 0 add, 1 min, 2 max. -/
def redStep (k : Nat) (t : ElemTy) (a b : Nat) : Nat :=
  match k with
  | 0 => match t with
    | .int sg e => vIntLane .add sg false e a b 0
    | .flt f => vFltLane .add f 0 0 a b 0
  | 1 => vPick false t a b
  | _ => vPick true t a b

/-- A lane of `vdot` (R220): g products of lanes of width e added to d exactly. -/
def dotLane (td ta tb : ElemTy) (g a b d i : Nat) : Nat :=
  let e := ta.width
  let prods := (List.range g).map fun j =>
    mulF (elemVal ta (lane e a (g * i + j))) (elemVal tb (lane e b (g * i + j)))
  let sum := (prods.foldl addF (elemVal td d))
  match td, sum with
  | .int _ _, .num n m x => wrap (inUnits n m x 0) 32
  | .flt f, s => roundFloat f 0 0 s
  | _, _ => 0

/-- The place of the (i + 1)th lowest set bit of a 32-bit word. -/
def nthBit (m i : Nat) : Nat := nth ((List.range 32).filter fun j => bitAt m j) i 32

/-- The two results of `visect` (R221) from the bitmaps a and b at word k. -/
def sectLane (own other k i : Nat) : Nat :=
  let a := field own (32 * k) 32
  let m := a &&& field other (32 * k) 32
  if i < popCount m 32 then popCount (own % 2 ^ (32 * k)) 512 + popCount (a % 2 ^ nthBit m i) 32 else 0xFFFF

/-- Lane i's random bits in a register (R208, R218). -/
def rhoOf (v i : Nat) : Nat := field v (16 * i) 16

/-! ### Shapes -/

/-- A gate of set V. -/
def vGate (i : Instr) (needs : List Need) (tgts : List Tgt) : Gate :=
  { plainGate i needs tgts with set := .V }

/-- A vector instruction with a result in D. -/
def opV (i : Instr) (needs : List Need) (d : Byte) (v : Nat) (s : State) : State :=
  issue (vGate i needs [.vec (opVreg d)]) (modMe (putVec (opVreg d) (BitVec.ofNat 512 v))) s

/-- The needs of A and B as vector registers. -/
def needsAB (a b : Byte) : List Need := [vecNeed .A (opVreg a), vecNeed .B (opVreg b)]

/-- D := f lane by lane over A and B. -/
def opV2 (i : Instr) (e : Nat) (f : Nat → Nat → Nat) (b a d : Byte) (s : State) : State :=
  let x := vecNat s.me (opVreg a)
  let y := vecNat s.me (opVreg b)
  opV i (needsAB a b) d (mkLanes e (laneCount e) fun j => f (lane e x j) (lane e y j)) s

/-- D := f lane by lane over A. -/
def opV1 (i : Instr) (e : Nat) (f : Nat → Nat) (a d : Byte) (s : State) : State :=
  let x := vecNat s.me (opVreg a)
  opV i [vecNeed .A (opVreg a)] d (mkLanes e (laneCount e) fun j => f (lane e x j)) s

/-- `vadd`, `vsub`, `vmul`, `vfma` (R208 to R210). -/
def opVArith (i : Instr) (k : VOp) (b a d : Byte) (s : State) : State :=
  let h := s.me
  let e := vEw d
  let rm := vrm a b
  let flt := match vTy d with
    | .flt _ => true
    | _ => false
  let random := flt && rm == 4
  let x := vecNat h (opVreg a)
  let y := vecNat h (opVreg b)
  let z := vecNat h (opVreg d)
  let r := vecNat h ((opVreg d + 1) % 16)
  let needs := needsAB a b ++ (if k = .fma then [vecNeed .D (opVreg d)] else []) ++
    (if random then [.vec 3 4 ((opVreg d + 1) % 16)] else [])
  opV i needs d (mkLanes e (laneCount e) fun j =>
    match vTy d with
    | .int sg _ => vIntLane k sg (bitAt (opMod b) 0) e (lane e x j) (lane e y j) (lane e z j)
    | .flt f => vFltLane k f rm (rhoOf r j) (lane e x j) (lane e y j) (lane e z j)) s

/-- `vsel` (R214). -/
def opVsel (i : Instr) (b a d : Byte) (s : State) : State :=
  let h := s.me
  let e := vEw d
  let pick (j : Nat) : Nat :=
    if lane e (vecNat h (opVreg d)) j = 0 then lane e (vecNat h (opVreg b)) j
    else lane e (vecNat h (opVreg a)) j
  opV i (needsAB a b ++ [vecNeed .D (opVreg d)]) d (mkLanes e (laneCount e) pick) s

/-- `vcvt` (R218). -/
def opVcvt (i : Instr) (rm rs : Nat) (a d : Byte) (s : State) : State :=
  let h := s.me
  let td := vTy d
  let ta := vTy a
  let x := vecNat h (opVreg a)
  let rho (j : Nat) : Nat :=
    if j < 32 then rhoOf (vecNat h rs) j else rhoOf (vecNat h ((rs + 1) % 16)) (j - 32)
  let needs := vecNeed .A (opVreg a) ::
    (if rm = 4 then [.vec 2 4 rs, .vec 2 4 ((rs + 1) % 16)] else [])
  opV i needs d (mkLanes td.width (512 / max td.width ta.width) fun j =>
    roundTo td rm (rho j) (elemVal ta (lane ta.width x j))) s

/-- `vred` (R219). -/
def opVred (i : Instr) (k : Nat) (a d : Byte) (s : State) : State :=
  let e := vEw d
  let x := vecNat s.me (opVreg a)
  let l := (List.range (laneCount e)).map fun j => lane e x j
  opV i [vecNeed .A (opVreg a)] d ((treeUp (redStep k (vTy d)) l (log2 (laneCount e))).headD 0) s

/-- `vbcast` (R215). -/
def opVbcast (i : Instr) (x d : Byte) (s : State) : State :=
  let e := vEw d
  let v := readOp .d .A x 0 s.me
  let r := match vTy d with
    | .int true _ => sext v.1 v.2 e
    | _ => zext v.1 e
  opV i [srcNeed .d .A x 0 s.me] d (mkLanes e (laneCount e) fun _ => r) s

/-- `vperm`, `vcomp`, `vexp` (R216, R217). -/
def opVperm (i : Instr) (b a d : Byte) (s : State) : State :=
  let e := vEw d
  let x := vecNat s.me (opVreg a)
  opV2 i e (fun _ y => lane e x (y % laneCount e)) b a d s
def opVcomp (i : Instr) (b a d : Byte) (s : State) : State :=
  let e := vEw d
  opV i (needsAB a b) d (joinLanes e (vPacked e (vecNat s.me (opVreg a)) (vecNat s.me (opVreg b)))) s
def opVexp (i : Instr) (b a d : Byte) (s : State) : State :=
  let e := vEw d
  let x := vecNat s.me (opVreg a)
  let y := vecNat s.me (opVreg b)
  opV i (needsAB a b) d (mkLanes e (laneCount e) fun j =>
    if lane e y j = 0 then 0 else lane e x (vRank e y j)) s

/-- `vdot` (R220). -/
def opVdot (i : Instr) (b a d : Byte) (s : State) : State :=
  let h := s.me
  let x := vecNat h (opVreg a)
  let y := vecNat h (opVreg b)
  let z := vecNat h (opVreg d)
  opV i (needsAB a b ++ [vecNeed .D (opVreg d)]) d (mkLanes 32 16 fun j =>
    dotLane (vTy d) (vTy a) (vTy b) (32 / vEw a) x y (lane 32 z j) j) s

/-- `visect` (R221): D and the register after it are written in one step. -/
def opVisect (i : Instr) (b a d : Byte) (s : State) : State :=
  let h := s.me
  let k := opMod a * 4 + opMod b
  let x := vecNat h (opVreg a)
  let y := vecNat h (opVreg b)
  let r := (opVreg d + 1) % 16
  issue (vGate i (needsAB a b) [.vec (opVreg d), .vec r])
    (modMe fun h => putVec r (BitVec.ofNat 512 (mkLanes 16 32 (sectLane y x k)))
      (putVec (opVreg d) (BitVec.ofNat 512 (mkLanes 16 32 (sectLane x y k))) h)) s

/-! ### Vector memory (R222 to R225) -/

/-- The kind of a `vld` or `vst`, and the element width of a block or 0 (R223). -/
def lineKind (x : Byte) : Kind := if opMod x = 1 then .block (vEw x) else .line
def blockWidth (x : Byte) : Nat := if opMod x = 1 then vEw x else 0

/-- The requests and the reply of a `vld`. -/
def vldSpecs (a : Acc) (blk pend : Nat) : Shape × List ReqSpec :=
  match planesOf a.fmt with
  | some k => (.planesLine k blk, readSpecs a pend 0)
  | none => (.line (sixBit a.fmt) blk, runReads a 512 pend)

/-- `vld`. -/
def opVld (i : Instr) (o d : Byte) (c : Nat) (s : State) : State :=
  let base := vGate i (memNeeds (.byte .d o) 0 c s.me) [.vec (opVreg d)]
  access (fun a => tagged base (readParts a)) (getCap s.me c) (readOp .d .B o 0 s.me).1 pR false false
    (fun _ => 512) (lineKind d) base
    (fun a t =>
      let n := (vldSpecs a (blockWidth d) 0).2.length
      let (p, t) := expect (.vec (opVreg d)) (vldSpecs a (blockWidth d) 0).1 n n false t
      sendReqs (vldSpecs a (blockWidth d) p).2 t) s

/-- The requests of a `vst`: one for the line, or one for each plane row. -/
def vstSpecs (a : Acc) (v : Nat) (remote : Bool) : List ReqSpec :=
  match planesOf a.fmt with
  | some k => (planeWrites a.place a.u 64 k v).map fun o =>
      ⟨.write [o], (opWords o).headD 0 / 8, none, 0, true, true, remote, a.addr⟩
  | none => (runWrites a 512 (storeVal a.fmt v 64) remote).map fun q => match q.op with
    | .write l => { q with op := .write (vstOps q.line l) }
    | _ => q

/-- `vst`. -/
def opVst (i : Instr) (o x : Byte) (c : Nat) (s : State) : State :=
  let v := vecNat s.me (opVreg x)
  let v := if blockWidth x = 0 then v else unblockLanes (blockWidth x) v
  let base := vGate i (vecNeed .A (opVreg x) :: memNeeds (.byte .d o) 0 c s.me) []
  access (fun _ => base) (getCap s.me c) (readOp .d .B o 0 s.me).1 pW true true (fun _ => 0) (lineKind x) base
    (fun a t => sendReqs (vstSpecs a v (isFar s.me a)) t) s

/-- The outcome of the checks of a gather or a scatter. -/
inductive LanesLocated where
  | ok (l : List (Option Acc))
  | trap (c : Cause) (t : Nat)
  | park (st : Stat)

/-- The checks of R40 on every active lane in ascending order. -/
def locateLanes (h : Hart) (c : Cap) (perm : Nat) (write : Bool) (e : Nat) (s : State) :
    List (Option Nat) → LanesLocated
  | [] => .ok []
  | none :: t => match locateLanes h c perm write e s t with
    | .ok l => .ok (none :: l)
    | r => r
  | some x :: t =>
    match locate h c x perm write (.elem e) s with
    | .trap c a => .trap c a
    | .park st => .park st
    | .ok a => match locateLanes h c perm write e s t with
      | .ok l => .ok (some a :: l)
      | r => r

/-- The indices of the lanes; none for a skip (R224). -/
def laneIndices (e iw iv : Nat) : List (Option Nat) :=
  (List.range (512 / max e iw)).map fun j =>
    if lane iw iv j = 2 ^ iw - 1 then none else some (lane iw iv j)

/-- The first active lane that reads failed storage (R287, R337). -/
def lanesFault (h : Hart) (e : Nat) (l : List (Option Acc)) (s : State) : Option (Cause × Nat) :=
  l.findSome? fun o => o.bind fun a => (readFault h (accWords a e) s).map fun c => (c, a.addr)

/-- That lane's line counts (R348). -/
def countLanes (h : Hart) (e : Nat) (l : List (Option Acc)) (s : State) : State :=
  countWords h (l.flatMap fun o => match o with
    | some a => accWords a e
    | none => []) s

/-- A gather or a scatter: all checks before any access. If its lanes address several banks of another tile's pan, the lowest
active one's is the bank whose cell the hart moves to (log 111). -/
def accessLanes (c : Cap) (perm : Nat) (write : Bool) (e : Nat) (idx : List (Option Nat)) (base : Gate)
    (g : List (Option Acc) → Gate) (eff : List (Option Acc) → State → State) (s : State) : State :=
  match gate base s with
  | some s' => s'
  | none =>
    match locateLanes s.me c perm write e s idx with
    | .trap x t => cause x t s
    | .park st => parkMe st s
    | .ok l =>
      match l.findSome? (fun o => o.bind fun a => migrates s.me a write) with
      | some (t, b) => beginMove (.bank (t * 32 + b)) t s
      | none =>
        match (if write then none else lanesFault s.me e l s) with
        | some (x, t) => cause x t (countLanes s.me e l s)
        | none => issue (g l) (eff l)
            (l.foldl (fun s o => match o with
              | some a => tlbTouch s.me a.addr s
              | none => s) s)

/-- The number of requests of the lanes before each, and in all (R81, R360). -/
def lanesParts (l : List (Option Acc)) : Nat :=
  l.foldl (fun n o => n + (o.map readParts).getD 0) 0

/-- For each lane the first of its parts, its bit offset or place in a group, and how the page that it reaches reads
(R29, R32). -/
def lanesAt (first : Nat) : List (Option Acc) → List (Option (Nat × Nat × Nat × Bool))
  | [] => []
  | none :: t => none :: lanesAt first t
  | some a :: t =>
    let x : Nat × Nat × Bool := match hostOf a.place with
      | some _ => (0, 0, false)
      | none => match planesOf a.fmt with
        | some k => (a.u % 64, k, false)
        | none => (unitBit a.place a.fmt a.u % 64, 0, sixBit a.fmt)
    some (first, x) :: lanesAt (first + readParts a) t

/-- The read requests of the lanes. -/
def lanesReads (pend first : Nat) : List (Option Acc) → List ReqSpec
  | [] => []
  | none :: t => lanesReads pend first t
  | some a :: t => readSpecs a pend first ++ lanesReads pend (first + readParts a) t

/-- `vgat` (R224). -/
def opVgat (i : Instr) (x d : Byte) (c : Nat) (s : State) : State :=
  let e := vEw d
  let idx := laneIndices e (vEw x) (vecNat s.me (opVreg x))
  let base := vGate i [.cap c, vecNeed .B (opVreg x)] [.vec (opVreg d)]
  accessLanes (getCap s.me c) pR false e idx base (fun l => tagged base (lanesParts l))
    (fun l t =>
      let n := lanesParts l
      if n = 0 then modMe (putVec (opVreg d) 0) t
      else
        let (p, t) := expect (.vec (opVreg d)) (.lanes e (lanesAt 0 l)) n n false t
        sendReqs (lanesReads p 0 l) t) s

/-- `vsct` (R224): one store for each active lane, in ascending order. -/
def opVsct (i : Instr) (x d : Byte) (c : Nat) (s : State) : State :=
  let e := vEw d
  let v := vecNat s.me (opVreg d)
  let idx := laneIndices e (vEw x) (vecNat s.me (opVreg x))
  let base := vGate i [vecNeed .A (opVreg d), .cap c, vecNeed .B (opVreg x)] []
  accessLanes (getCap s.me c) pW true e idx base (fun _ => base)
    (fun l t =>
      sendReqs ((List.range l.length).flatMap fun j => match nth l j none with
        | some a => writeSpecs a e (lane e v j) (isFar s.me a) true
        | none => []) t) s

/-! ### One meaning for each instruction -/

/-- R209: Lane by lane add. -/
def execVadd (b : BitVec 8) (a : BitVec 8) (d : BitVec 8) (s : State) : Out :=
  .next (opVArith (.vadd b a d) .add b a d s)
/-- R209: Lane by lane sub. -/
def execVsub (b : BitVec 8) (a : BitVec 8) (d : BitVec 8) (s : State) : Out :=
  .next (opVArith (.vsub b a d) .sub b a d s)
/-- R209: Lane by lane mul. -/
def execVmul (b : BitVec 8) (a : BitVec 8) (d : BitVec 8) (s : State) : Out :=
  .next (opVArith (.vmul b a d) .mul b a d s)
/-- R209: Lane by lane fma. -/
def execVfma (b : BitVec 8) (a : BitVec 8) (d : BitVec 8) (s : State) : Out :=
  .next (opVArith (.vfma b a d) .fma b a d s)
/-- R209: The lesser of two lanes. -/
def execVmin (b : BitVec 8) (a : BitVec 8) (d : BitVec 8) (s : State) : Out :=
  .next (opV2 (.vmin b a d) (vEw d) (vPick false (vTy d)) b a d s)
/-- R209: The greater of two lanes. -/
def execVmax (b : BitVec 8) (a : BitVec 8) (d : BitVec 8) (s : State) : Out :=
  .next (opV2 (.vmax b a d) (vEw d) (vPick true (vTy d)) b a d s)
/-- R211: Magnitude. -/
def execVabs (a : BitVec 8) (d : BitVec 8) (s : State) : Out :=
  .next (opV1 (.vabs a d) (vEw d) (vAbsLane (vTy d)) a d s)
/-- R211: Negation. -/
def execVneg (a : BitVec 8) (d : BitVec 8) (s : State) : Out :=
  .next (opV1 (.vneg a d) (vEw d) (vNegLane (vTy d)) a d s)
/-- R211: The number of 1 bits. -/
def execVpopc (a : BitVec 8) (d : BitVec 8) (s : State) : Out :=
  .next (opV1 (.vpopc a d) (vEw d) (fun x => popCount x (vEw d)) a d s)
/-- R212: Bitwise and. -/
def execVand (b : BitVec 8) (a : BitVec 8) (d : BitVec 8) (s : State) : Out :=
  .next (opV2 (.vand b a d) (vEw d) (fun x y => x &&& y) b a d s)
/-- R212: Bitwise or. -/
def execVor (b : BitVec 8) (a : BitVec 8) (d : BitVec 8) (s : State) : Out :=
  .next (opV2 (.vor b a d) (vEw d) (fun x y => x ||| y) b a d s)
/-- R212: Bitwise exclusive or. -/
def execVxor (b : BitVec 8) (a : BitVec 8) (d : BitVec 8) (s : State) : Out :=
  .next (opV2 (.vxor b a d) (vEw d) (fun x y => x ^^^ y) b a d s)
/-- R212: Shift left. -/
def execVshl (b : BitVec 8) (a : BitVec 8) (d : BitVec 8) (s : State) : Out :=
  .next (opV2 (.vshl b a d) (vEw d) (vShlLane (vEw d)) b a d s)
/-- R212: Shift right. -/
def execVshr (b : BitVec 8) (a : BitVec 8) (d : BitVec 8) (s : State) : Out :=
  .next (opV2 (.vshr b a d) (vEw d) (vShrLane (vTy d)) b a d s)
/-- R213: Compare; a true lane is all ones. -/
def execVcmp (b : BitVec 8) (a : BitVec 8) (d : BitVec 8) (s : State) : Out :=
  .next (opV2 (.vcmp b a d) (vEw d) (fun x y => if vCond (vcc a b) (vTy d) x y then 2 ^ vEw d - 1 else 0) b a d s)
/-- R214: Select by the old lanes of D. -/
def execVsel (b : BitVec 8) (a : BitVec 8) (d : BitVec 8) (s : State) : Out :=
  .next (opVsel (.vsel b a d) b a d s)
/-- R218: Convert lanes. -/
def execVcvt (r : BitVec 3) (s : BitVec 4) (a : BitVec 8) (d : BitVec 8) (t : State) : Out :=
  .next (opVcvt (.vcvt r s a d) r.toNat s.toNat a d t)
/-- R219: Reduce lanes in a fixed tree. -/
def execVred (o : BitVec 2) (a : BitVec 8) (d : BitVec 8) (s : State) : Out :=
  .next (opVred (.vred o a d) o.toNat a d s)
/-- R216: Permute lanes by index. -/
def execVperm (b : BitVec 8) (a : BitVec 8) (d : BitVec 8) (s : State) : Out :=
  .next (opVperm (.vperm b a d) b a d s)
/-- R215: Broadcast a scalar. -/
def execVbcast (s : BitVec 8) (d : BitVec 8) (t : State) : Out :=
  .next (opVbcast (.vbcast s d) s d t)
/-- R217: Pack the selected lanes. -/
def execVcomp (b : BitVec 8) (a : BitVec 8) (d : BitVec 8) (s : State) : Out :=
  .next (opVcomp (.vcomp b a d) b a d s)
/-- R221: Intersect two bitmaps. -/
def execVisect (b : BitVec 8) (a : BitVec 8) (d : BitVec 8) (s : State) : Out :=
  .next (opVisect (.visect b a d) b a d s)
/-- R217: Spread lanes to the selected places. -/
def execVexp (b : BitVec 8) (a : BitVec 8) (d : BitVec 8) (s : State) : Out :=
  .next (opVexp (.vexp b a d) b a d s)
/-- R220: Grouped dot products. -/
def execVdot (b : BitVec 8) (a : BitVec 8) (d : BitVec 8) (s : State) : Out :=
  .next (opVdot (.vdot b a d) b a d s)
/-- R223: Load a line. -/
def execVld (o : BitVec 8) (d : BitVec 8) (c : BitVec 4) (s : State) : Out :=
  .next (opVld (.vld o d c) o d c.toNat s)
/-- R223: Store a line. -/
def execVst (o : BitVec 8) (d : BitVec 8) (c : BitVec 4) (s : State) : Out :=
  .next (opVst (.vst o d c) o d c.toNat s)
/-- R224: Gather elements. -/
def execVgat (i : BitVec 8) (d : BitVec 8) (c : BitVec 4) (s : State) : Out :=
  .next (opVgat (.vgat i d c) i d c.toNat s)
/-- R224: Scatter elements. -/
def execVsct (i : BitVec 8) (d : BitVec 8) (c : BitVec 4) (s : State) : Out :=
  .next (opVsct (.vsct i d c) i d c.toNat s)

end Sys2Proof.Machine
end

