-- ==== Sys2Proof/Machine/Dispatch.lean ====
section
/-! DEFINITION. The meaning of every instruction and event: one arm each. -/

namespace Sys2Proof.Machine

open Sys2Proof

/-- What an instruction, executed by the hart that has the turn, or an event does. -/
def exec (i : Instr) (s : State) : Host.Outcome State Fault Refusal :=
  match i with
  | .addN b a d => Sys2Proof.Machine.execAddN b a d s
  | .addD b a d => Sys2Proof.Machine.execAddD b a d s
  | .adduN b a d => Sys2Proof.Machine.execAdduN b a d s
  | .adduD b a d => Sys2Proof.Machine.execAdduD b a d s
  | .subN b a d => Sys2Proof.Machine.execSubN b a d s
  | .subD b a d => Sys2Proof.Machine.execSubD b a d s
  | .subuN b a d => Sys2Proof.Machine.execSubuN b a d s
  | .subuD b a d => Sys2Proof.Machine.execSubuD b a d s
  | .mulN b a d => Sys2Proof.Machine.execMulN b a d s
  | .mulD b a d => Sys2Proof.Machine.execMulD b a d s
  | .muluN b a d => Sys2Proof.Machine.execMuluN b a d s
  | .muluD b a d => Sys2Proof.Machine.execMuluD b a d s
  | .andN b a d => Sys2Proof.Machine.execAndN b a d s
  | .andD b a d => Sys2Proof.Machine.execAndD b a d s
  | .orN b a d => Sys2Proof.Machine.execOrN b a d s
  | .orD b a d => Sys2Proof.Machine.execOrD b a d s
  | .xorN b a d => Sys2Proof.Machine.execXorN b a d s
  | .xorD b a d => Sys2Proof.Machine.execXorD b a d s
  | .andnN b a d => Sys2Proof.Machine.execAndnN b a d s
  | .andnD b a d => Sys2Proof.Machine.execAndnD b a d s
  | .shlRegN b a => Sys2Proof.Machine.execShlRegN b a s
  | .shlRegD b a => Sys2Proof.Machine.execShlRegD b a s
  | .shrRegN b a => Sys2Proof.Machine.execShrRegN b a s
  | .shrRegD b a => Sys2Proof.Machine.execShrRegD b a s
  | .sraRegN b a => Sys2Proof.Machine.execSraRegN b a s
  | .sraRegD b a => Sys2Proof.Machine.execSraRegD b a s
  | .rolRegN b a => Sys2Proof.Machine.execRolRegN b a s
  | .rolRegD b a => Sys2Proof.Machine.execRolRegD b a s
  | .mulhN b a => Sys2Proof.Machine.execMulhN b a s
  | .mulhD b a => Sys2Proof.Machine.execMulhD b a s
  | .mulhuN b a => Sys2Proof.Machine.execMulhuN b a s
  | .mulhuD b a => Sys2Proof.Machine.execMulhuD b a s
  | .divN b a => Sys2Proof.Machine.execDivN b a s
  | .divD b a => Sys2Proof.Machine.execDivD b a s
  | .divuN b a => Sys2Proof.Machine.execDivuN b a s
  | .divuD b a => Sys2Proof.Machine.execDivuD b a s
  | .remN b a => Sys2Proof.Machine.execRemN b a s
  | .remD b a => Sys2Proof.Machine.execRemD b a s
  | .remuN b a => Sys2Proof.Machine.execRemuN b a s
  | .remuD b a => Sys2Proof.Machine.execRemuD b a s
  | .minN b a => Sys2Proof.Machine.execMinN b a s
  | .minD b a => Sys2Proof.Machine.execMinD b a s
  | .maxN b a => Sys2Proof.Machine.execMaxN b a s
  | .maxD b a => Sys2Proof.Machine.execMaxD b a s
  | .cmpEqN b a => Sys2Proof.Machine.execCmpEqN b a s
  | .cmpEqD b a => Sys2Proof.Machine.execCmpEqD b a s
  | .cmpNeN b a => Sys2Proof.Machine.execCmpNeN b a s
  | .cmpNeD b a => Sys2Proof.Machine.execCmpNeD b a s
  | .cmpLtN b a => Sys2Proof.Machine.execCmpLtN b a s
  | .cmpLtD b a => Sys2Proof.Machine.execCmpLtD b a s
  | .cmpGeN b a => Sys2Proof.Machine.execCmpGeN b a s
  | .cmpGeD b a => Sys2Proof.Machine.execCmpGeD b a s
  | .cmpLtuN b a => Sys2Proof.Machine.execCmpLtuN b a s
  | .cmpLtuD b a => Sys2Proof.Machine.execCmpLtuD b a s
  | .cmpGeuN b a => Sys2Proof.Machine.execCmpGeuN b a s
  | .cmpGeuD b a => Sys2Proof.Machine.execCmpGeuD b a s
  | .movZxN a d => Sys2Proof.Machine.execMovZxN a d s
  | .movZxD a d => Sys2Proof.Machine.execMovZxD a d s
  | .movSxN a d => Sys2Proof.Machine.execMovSxN a d s
  | .movSxD a d => Sys2Proof.Machine.execMovSxD a d s
  | .popcN a d => Sys2Proof.Machine.execPopcN a d s
  | .popcD a d => Sys2Proof.Machine.execPopcD a d s
  | .clzN a d => Sys2Proof.Machine.execClzN a d s
  | .clzD a d => Sys2Proof.Machine.execClzD a d s
  | .ctzN a d => Sys2Proof.Machine.execCtzN a d s
  | .ctzD a d => Sys2Proof.Machine.execCtzD a d s
  | .brevN a d => Sys2Proof.Machine.execBrevN a d s
  | .brevD a d => Sys2Proof.Machine.execBrevD a d s
  | .unzipRN a d => Sys2Proof.Machine.execUnzipRN a d s
  | .unzipRD a d => Sys2Proof.Machine.execUnzipRD a d s
  | .unzipCN a d => Sys2Proof.Machine.execUnzipCN a d s
  | .unzipCD a d => Sys2Proof.Machine.execUnzipCD a d s
  | .liN j d => Sys2Proof.Machine.execLiN j d s
  | .liD j d => Sys2Proof.Machine.execLiD j d s
  | .shlImmN s1 a d => Sys2Proof.Machine.execShlImmN s1 a d s
  | .shlImmD s1 a d => Sys2Proof.Machine.execShlImmD s1 a d s
  | .shrImmN s1 a d => Sys2Proof.Machine.execShrImmN s1 a d s
  | .shrImmD s1 a d => Sys2Proof.Machine.execShrImmD s1 a d s
  | .sraImmN s1 a d => Sys2Proof.Machine.execSraImmN s1 a d s
  | .sraImmD s1 a d => Sys2Proof.Machine.execSraImmD s1 a d s
  | .rolImmN s1 a d => Sys2Proof.Machine.execRolImmN s1 a d s
  | .rolImmD s1 a d => Sys2Proof.Machine.execRolImmD s1 a d s
  | .extN p a d => Sys2Proof.Machine.execExtN p a d s
  | .extD p a d => Sys2Proof.Machine.execExtD p a d s
  | .insN p a d => Sys2Proof.Machine.execInsN p a d s
  | .insD p a d => Sys2Proof.Machine.execInsD p a d s
  | .selN b a d => Sys2Proof.Machine.execSelN b a d s
  | .selD b a d => Sys2Proof.Machine.execSelD b a d s
  | .zipN b a d => Sys2Proof.Machine.execZipN b a d s
  | .zipD b a d => Sys2Proof.Machine.execZipD b a d s
  | .tdesc b a d => Sys2Proof.Machine.execTdesc b a d s
  | .tasc l a d => Sys2Proof.Machine.execTasc l a d s
  | .tdig n a d => Sys2Proof.Machine.execTdig n a d s
  | .win b a d => Sys2Proof.Machine.execWin b a d s
  | .jump o => Sys2Proof.Machine.execJump o s
  | .jal o d => Sys2Proof.Machine.execJal o d s
  | .jr a d => Sys2Proof.Machine.execJr a d s
  | .ret a => Sys2Proof.Machine.execRet a s
  | .bzN o d => Sys2Proof.Machine.execBzN o d s
  | .bzD o d => Sys2Proof.Machine.execBzD o d s
  | .bnzN o d => Sys2Proof.Machine.execBnzN o d s
  | .bnzD o d => Sys2Proof.Machine.execBnzD o d s
  | .dbnzN o d => Sys2Proof.Machine.execDbnzN o d s
  | .dbnzD o d => Sys2Proof.Machine.execDbnzD o d s
  | .bEq b a o => Sys2Proof.Machine.execBEq b a o s
  | .bNe b a o => Sys2Proof.Machine.execBNe b a o s
  | .bLt b a o => Sys2Proof.Machine.execBLt b a o s
  | .bGe b a o => Sys2Proof.Machine.execBGe b a o s
  | .bLtu b a o => Sys2Proof.Machine.execBLtu b a o s
  | .bGeu b a o => Sys2Proof.Machine.execBGeu b a o s
  | .ldN o a c => Sys2Proof.Machine.execLdN o a c s
  | .ldD o a c => Sys2Proof.Machine.execLdD o a c s
  | .ldfeN o a c => Sys2Proof.Machine.execLdfeN o a c s
  | .ldfeD o a c => Sys2Proof.Machine.execLdfeD o a c s
  | .ldffN o a c => Sys2Proof.Machine.execLdffN o a c s
  | .ldffD o a c => Sys2Proof.Machine.execLdffD o a c s
  | .stN o a c => Sys2Proof.Machine.execStN o a c s
  | .stD o a c => Sys2Proof.Machine.execStD o a c s
  | .stefN o a c => Sys2Proof.Machine.execStefN o a c s
  | .stefD o a c => Sys2Proof.Machine.execStefD o a c s
  | .stffN o a c => Sys2Proof.Machine.execStffN o a c s
  | .stffD o a c => Sys2Proof.Machine.execStffD o a c s
  | .stcN o a c => Sys2Proof.Machine.execStcN o a c s
  | .stcD o a c => Sys2Proof.Machine.execStcD o a c s
  | .cmldN o a => Sys2Proof.Machine.execCmldN o a s
  | .cmldD o a => Sys2Proof.Machine.execCmldD o a s
  | .cmstN o a => Sys2Proof.Machine.execCmstN o a s
  | .cmstD o a => Sys2Proof.Machine.execCmstD o a s
  | .ldcap o k c => Sys2Proof.Machine.execLdcap o k c s
  | .stcap o k c => Sys2Proof.Machine.execStcap o k c s
  | .spill l s1 c => Sys2Proof.Machine.execSpill l s1 c s
  | .fill l s1 c => Sys2Proof.Machine.execFill l s1 c s
  | .amoAdd o a c => Sys2Proof.Machine.execAmoAdd o a c s
  | .amoAnd o a c => Sys2Proof.Machine.execAmoAnd o a c s
  | .amoOr o a c => Sys2Proof.Machine.execAmoOr o a c s
  | .amoXor o a c => Sys2Proof.Machine.execAmoXor o a c s
  | .amoMin o a c => Sys2Proof.Machine.execAmoMin o a c s
  | .amoMax o a c => Sys2Proof.Machine.execAmoMax o a c s
  | .amoSwap o a c => Sys2Proof.Machine.execAmoSwap o a c s
  | .amoCas o a c => Sys2Proof.Machine.execAmoCas o a c s
  | .amoFadd o a c => Sys2Proof.Machine.execAmoFadd o a c s
  | .amaxRst o a c => Sys2Proof.Machine.execAmaxRst o a c s
  | .amoFaddF16 o a c => Sys2Proof.Machine.execAmoFaddF16 o a c s
  | .amoAddPost o a c => Sys2Proof.Machine.execAmoAddPost o a c s
  | .amoAndPost o a c => Sys2Proof.Machine.execAmoAndPost o a c s
  | .amoOrPost o a c => Sys2Proof.Machine.execAmoOrPost o a c s
  | .amoXorPost o a c => Sys2Proof.Machine.execAmoXorPost o a c s
  | .amoMinPost o a c => Sys2Proof.Machine.execAmoMinPost o a c s
  | .amoMaxPost o a c => Sys2Proof.Machine.execAmoMaxPost o a c s
  | .amoSwapPost o a c => Sys2Proof.Machine.execAmoSwapPost o a c s
  | .amoFaddPost o a c => Sys2Proof.Machine.execAmoFaddPost o a c s
  | .amoFaddF16Post o a c => Sys2Proof.Machine.execAmoFaddF16Post o a c s
  | .lapp o a c => Sys2Proof.Machine.execLapp o a c s
  | .lmerge d c => Sys2Proof.Machine.execLmerge d c s
  | .spnext b a d => Sys2Proof.Machine.execSpnext b a d s
  | .tbegin o => Sys2Proof.Machine.execTbegin o s
  | .orelse o => Sys2Proof.Machine.execOrelse o s
  | .tend => Sys2Proof.Machine.execTend s
  | .retry => Sys2Proof.Machine.execRetry s
  | .tabort j => Sys2Proof.Machine.execTabort j s
  | .tstat d => Sys2Proof.Machine.execTstat d s
  | .tenq b a d => Sys2Proof.Machine.execTenq b a d s
  | .hspawn b a d => Sys2Proof.Machine.execHspawn b a d s
  | .hexit => Sys2Proof.Machine.execHexit s
  | .mig a => Sys2Proof.Machine.execMig a s
  | .amsg o a c h => Sys2Proof.Machine.execAmsg o a c h s
  | .sbind k a => Sys2Proof.Machine.execSbind k a s
  | .sbindOff k => Sys2Proof.Machine.execSbindOff k s
  | .vadd b a d => Sys2Proof.Machine.execVadd b a d s
  | .vsub b a d => Sys2Proof.Machine.execVsub b a d s
  | .vmul b a d => Sys2Proof.Machine.execVmul b a d s
  | .vfma b a d => Sys2Proof.Machine.execVfma b a d s
  | .vmin b a d => Sys2Proof.Machine.execVmin b a d s
  | .vmax b a d => Sys2Proof.Machine.execVmax b a d s
  | .vabs a d => Sys2Proof.Machine.execVabs a d s
  | .vneg a d => Sys2Proof.Machine.execVneg a d s
  | .vpopc a d => Sys2Proof.Machine.execVpopc a d s
  | .vand b a d => Sys2Proof.Machine.execVand b a d s
  | .vor b a d => Sys2Proof.Machine.execVor b a d s
  | .vxor b a d => Sys2Proof.Machine.execVxor b a d s
  | .vshl b a d => Sys2Proof.Machine.execVshl b a d s
  | .vshr b a d => Sys2Proof.Machine.execVshr b a d s
  | .vcmp b a d => Sys2Proof.Machine.execVcmp b a d s
  | .vsel b a d => Sys2Proof.Machine.execVsel b a d s
  | .vcvt r s1 a d => Sys2Proof.Machine.execVcvt r s1 a d s
  | .vred o a d => Sys2Proof.Machine.execVred o a d s
  | .vperm b a d => Sys2Proof.Machine.execVperm b a d s
  | .vbcast s1 d => Sys2Proof.Machine.execVbcast s1 d s
  | .vcomp b a d => Sys2Proof.Machine.execVcomp b a d s
  | .visect b a d => Sys2Proof.Machine.execVisect b a d s
  | .vexp b a d => Sys2Proof.Machine.execVexp b a d s
  | .vdot b a d => Sys2Proof.Machine.execVdot b a d s
  | .vld o d c => Sys2Proof.Machine.execVld o d c s
  | .vst o d c => Sys2Proof.Machine.execVst o d c s
  | .vgat j d c => Sys2Proof.Machine.execVgat j d c s
  | .vsct j d c => Sys2Proof.Machine.execVsct j d c s
  | .mclaim f d => Sys2Proof.Machine.execMclaim f d s
  | .mrel a => Sys2Proof.Machine.execMrel a s
  | .mfill b a => Sys2Proof.Machine.execMfill b a s
  | .mscale b a => Sys2Proof.Machine.execMscale b a s
  | .mmac n a => Sys2Proof.Machine.execMmac n a s
  | .mmask b a => Sys2Proof.Machine.execMmask b a s
  | .maccRd b a v => Sys2Proof.Machine.execMaccRd b a v s
  | .maccClr n => Sys2Proof.Machine.execMaccClr n s
  | .msemP k => Sys2Proof.Machine.execMsemP k s
  | .msemV k => Sys2Proof.Machine.execMsemV k s
  | .chadv a => Sys2Proof.Machine.execChadv a s
  | .publish a => Sys2Proof.Machine.execPublish a s
  | .cder s1 a d => Sys2Proof.Machine.execCder s1 a d s
  | .cbnd s1 a d => Sys2Proof.Machine.execCbnd s1 a d s
  | .cperm s1 a d => Sys2Proof.Machine.execCperm s1 a d s
  | .cseal s1 b a d => Sys2Proof.Machine.execCseal s1 b a d s
  | .cunseal b a d => Sys2Proof.Machine.execCunseal b a d s
  | .cget s1 l a => Sys2Proof.Machine.execCget s1 l a s
  | .cmov a d => Sys2Proof.Machine.execCmov a d s
  | .ecall j => Sys2Proof.Machine.execEcall j s
  | .ebreak => Sys2Proof.Machine.execEbreak s
  | .tret => Sys2Proof.Machine.execTret s
  | .rinv b a => Sys2Proof.Machine.execRinv b a s
  | .fenceCell => Sys2Proof.Machine.execFenceCell s
  | .fenceTile => Sys2Proof.Machine.execFenceTile s
  | .fenceSector => Sys2Proof.Machine.execFenceSector s
  | .fenceStack => Sys2Proof.Machine.execFenceStack s
  | .fenceDomain => Sys2Proof.Machine.execFenceDomain s
  | .csrr n d => Sys2Proof.Machine.execCsrr n d s
  | .csrw n d => Sys2Proof.Machine.execCsrw n d s
  | .csrs n d => Sys2Proof.Machine.execCsrs n d s
  | .csrc n d => Sys2Proof.Machine.execCsrc n d s
  | .movC h g => Sys2Proof.Machine.execMovC h g s
  | .addC h g => Sys2Proof.Machine.execAddC h g s
  | .subC h g => Sys2Proof.Machine.execSubC h g s
  | .andC h g => Sys2Proof.Machine.execAndC h g s
  | .orC h g => Sys2Proof.Machine.execOrC h g s
  | .xorC h g => Sys2Proof.Machine.execXorC h g s
  | .liC j g => Sys2Proof.Machine.execLiC j g s
  | .shlC a g => Sys2Proof.Machine.execShlC a g s
  | .shrC a g => Sys2Proof.Machine.execShrC a g s
  | .bzC o g => Sys2Proof.Machine.execBzC o g s
  | .bnzC o g => Sys2Proof.Machine.execBnzC o g s
  | .jC o => Sys2Proof.Machine.execJC o s
  | .ldC s1 h g => Sys2Proof.Machine.execLdC s1 h g s
  | .stC s1 h g => Sys2Proof.Machine.execStC s1 h g s
  | .tendC => Sys2Proof.Machine.execTendC s
  | .retryC => Sys2Proof.Machine.execRetryC s
  | .hexitC => Sys2Proof.Machine.execHexitC s
  | .dbgStep h => Sys2Proof.Machine.execDbgStep h s
  | .deposit q p => Sys2Proof.Machine.execDeposit q p s
  | .wake h => Sys2Proof.Machine.execWake h s
  | .waitLimit h => Sys2Proof.Machine.execWaitLimit h s
  | .interruptTake h => Sys2Proof.Machine.execInterruptTake h s
  | .timer h => Sys2Proof.Machine.execTimer h s
  | .hipiSoft h target => Sys2Proof.Machine.execHipiSoft h target s
  | .hipiPreempt h target => Sys2Proof.Machine.execHipiPreempt h target s
  | .ipiDelivery j => Sys2Proof.Machine.execIpiDelivery j s
  | .messageLand j => Sys2Proof.Machine.execMessageLand j s
  | .migrationDepart h => Sys2Proof.Machine.execMigrationDepart h s
  | .migrationArrive h => Sys2Proof.Machine.execMigrationArrive h s
  | .slotRelease h => Sys2Proof.Machine.execSlotRelease h s
  | .accessPerform r also => Sys2Proof.Machine.execAccessPerform r also s
  | .remoteStoreApply r => Sys2Proof.Machine.execRemoteStoreApply r s
  | .commonsApply cell => Sys2Proof.Machine.execCommonsApply cell s
  | .mergeStationRelease rs => Sys2Proof.Machine.execMergeStationRelease rs s
  | .waypointReinject j => Sys2Proof.Machine.execWaypointReinject j s
  | .txnCommitPoint h => Sys2Proof.Machine.execTxnCommitPoint h s
  | .txnAbort h => Sys2Proof.Machine.execTxnAbort h s
  | .taskArrive j => Sys2Proof.Machine.execTaskArrive j s
  | .taskStart tile => Sys2Proof.Machine.execTaskStart tile s
  | .frontierReport n => Sys2Proof.Machine.execFrontierReport n s
  | .taskCommit h => Sys2Proof.Machine.execTaskCommit h s
  | .taskRollback h => Sys2Proof.Machine.execTaskRollback h s
  | .amsgHandlerStart cell => Sys2Proof.Machine.execAmsgHandlerStart cell s
  | .fillEnd tile j => Sys2Proof.Machine.execFillEnd tile j s
  | .msemVApply tile j => Sys2Proof.Machine.execMsemVApply tile j s
  | .mmacEnd tile => Sys2Proof.Machine.execMmacEnd tile s
  | .maccClrRun tile => Sys2Proof.Machine.execMaccClrRun tile s
  | .maccRdRun tile => Sys2Proof.Machine.execMaccRdRun tile s
  | .commandFetch tile eng => Sys2Proof.Machine.execCommandFetch tile eng s
  | .copyCommand tile => Sys2Proof.Machine.execCopyCommand tile s
  | .quantizeCommand tile => Sys2Proof.Machine.execQuantizeCommand tile s
  | .walk h => Sys2Proof.Machine.execWalk h s
  | .atsCompletion h r w => Sys2Proof.Machine.execAtsCompletion h r w s
  | .priResponse h ok => Sys2Proof.Machine.execPriResponse h ok s
  | .hostInvalidate pasid page pages => Sys2Proof.Machine.execHostInvalidate pasid page pages s
  | .mboxWrite off v => Sys2Proof.Machine.execMboxWrite off v s
  | .mbovfClear v => Sys2Proof.Machine.execMbovfClear v s
  | .registerWrite off v => Sys2Proof.Machine.execRegisterWrite off v s
  | .pmOpen => Sys2Proof.Machine.execPmOpen s
  | .pmClose => Sys2Proof.Machine.execPmClose s
  | .pmFence => Sys2Proof.Machine.execPmFence s
  | .pmUnfence => Sys2Proof.Machine.execPmUnfence s
  | .pmSpanOpen => Sys2Proof.Machine.execPmSpanOpen s
  | .pmSpanClose => Sys2Proof.Machine.execPmSpanClose s
  | .traceCopy n => Sys2Proof.Machine.execTraceCopy n s
  | .leaderElection d => Sys2Proof.Machine.execLeaderElection d s
  | .tamperStop key => Sys2Proof.Machine.execTamperStop key s
  | .keyExchange => Sys2Proof.Machine.execKeyExchange s
  | .ideKm => Sys2Proof.Machine.execIdeKm s
  | .lockInterfaceRequest => Sys2Proof.Machine.execLockInterfaceRequest s
  | .startInterfaceRequest nonce => Sys2Proof.Machine.execStartInterfaceRequest nonce s
  | .stopInterfaceRequest => Sys2Proof.Machine.execStopInterfaceRequest s
  | .flr => Sys2Proof.Machine.execFlr s
  | .quiesce => Sys2Proof.Machine.execQuiesce s
  | .quiesceDrainDone => Sys2Proof.Machine.execQuiesceDrainDone s
  | .resume => Sys2Proof.Machine.execResume s
  | .configWrite => Sys2Proof.Machine.execConfigWrite s
  | .ideIntegrityFailure => Sys2Proof.Machine.execIdeIntegrityFailure s
  | .getDeviceInterfaceReport => Sys2Proof.Machine.execGetDeviceInterfaceReport s
  | .getMeasurements sign => Sys2Proof.Machine.execGetMeasurements sign s
  | .getBootStatus => Sys2Proof.Machine.execGetBootStatus s
  | .provisioningToken ok dev ctr provider => Sys2Proof.Machine.execProvisioningToken ok dev ctr provider s
  | .leaseStartToken ok dev ctr => Sys2Proof.Machine.execLeaseStartToken ok dev ctr s
  | .leaseEndToken ok dev ctr => Sys2Proof.Machine.execLeaseEndToken ok dev ctr s
  | .retireToken ok dev ctr => Sys2Proof.Machine.execRetireToken ok dev ctr s
  | .recoveryMessage ok ctr => Sys2Proof.Machine.execRecoveryMessage ok ctr s
  | .startScrub ok dev ctr => Sys2Proof.Machine.execStartScrub ok dev ctr s
  | .leaseScrubComplete clean => Sys2Proof.Machine.execLeaseScrubComplete clean s
  | .getScrubRecord => Sys2Proof.Machine.execGetScrubRecord s
  | .activate tenant => Sys2Proof.Machine.execActivate tenant s
  | .activationCommit => Sys2Proof.Machine.execActivationCommit s
  | .deviceReset => Sys2Proof.Machine.execDeviceReset s
  | .hbmTrainingComplete die stack failed => Sys2Proof.Machine.execHbmTrainingComplete die stack failed s
  | .dieStart die => Sys2Proof.Machine.execDieStart die s
  | .bfctlLock => Sys2Proof.Machine.execBfctlLock s
  | .bfctlTenwr v => Sys2Proof.Machine.execBfctlTenwr v s
  | .failmapWrite j v => Sys2Proof.Machine.execFailmapWrite j v s
  | .rowActivation bank row => Sys2Proof.Machine.execRowActivation bank row s
  | .refreshWindow => Sys2Proof.Machine.execRefreshWindow s
  | .scrubLine stack => Sys2Proof.Machine.execScrubLine stack s
  | .scrubDeadline stack => Sys2Proof.Machine.execScrubDeadline stack s
  | .fullServiceSwitch => Sys2Proof.Machine.execFullServiceSwitch s
  | .illegal word kind site => Sys2Proof.Machine.execIllegal word kind site s
  | .pmBadArg => Sys2Proof.Machine.execPmBadArg s
  | .activationAbandoned => Sys2Proof.Machine.execActivationAbandoned s
  | .linkReset => Sys2Proof.Machine.execLinkReset s
  | .sessionEnd => Sys2Proof.Machine.execSessionEnd s
  | .acknowledgement h => Sys2Proof.Machine.execAcknowledgement h s

end Sys2Proof.Machine
end

