-- ==== Sys2Proof/Machine/Fetch.lean ====
section
/-! DEFINITION. Fetching an instruction (R131, R144, R302), whose turn it is, and which events come of themselves (log 1). -/

namespace Sys2Proof.Machine

open Sys2Proof

/-- What a fetch gives. -/
inductive Fetched where
  /-- the bytes of a word -/
  | bytes (l : List Byte)
  /-- a fetch fault: cause and address -/
  | trap (c : Cause) (a : Nat)
  /-- a line that cannot be read: cause, address and line -/
  | unread (c : Cause) (a l : Nat)
  /-- the hart parks -/
  | park (st : Stat)
  /-- a line that its stack must rebuild and write back first: then it is tried again (R348) -/
  | rebuild (l : Nat)
  /-- a write that the fetch follows has not been applied: it is tried again (R105, R108) -/
  | later
  deriving DecidableEq, Repr

/-- A cause at site 0 (R286). -/
def atFetch (c : Cause) : Cause := { c with site := 0 }

/-- Does a fetch follow a write to the home of a line that is still in flight? -/
def fetchWaits (h : Hart) (l : Nat) (s : State) : Bool :=
  s.reqs.any fun r => r.isWrite && (h.hist.contains r.id || h.out.contains r.id) && !reqHost r.op && sameHome r.line l s

/-- A byte of memory as a fetch reads it: in a live accumulator it is one of the reading (R102). -/
def memByte (x : Nat) (s : State) : Byte :=
  match lookupNat (x / 4) s.accs with
  | some a => BitVec.ofNat 8 (field (accumRead a) (8 * (x % 4)) 8)
  | none => readByte s.mem x

/-- The byte of a fetch at a virtual address: only RAW pages of physical memory hold code (log 9). No capability is
checked, as the pc comes from none (log 8). -/
def fetchByte (h : Hart) (a : Nat) (s : State) : Fetched :=
  match globalUnit h a false s with
  | .trap c t => .trap (atFetch c) t
  | .park st => .park st
  | .ok p fmt u =>
    if fmt ≠ 0 ∨ (hostOf p).isSome = true then .trap (atFetch cMemFmt) a
    else
      let x := frameOf p + u
      if fetchWaits h (x / 64) s then .later
      else if isPageWord (x / 8) && h.mode != .firmware then .bytes [0]
      else if eccFails (x / 64) s && rebuilds (x / 64) s then .rebuild (x / 64)
      else match failCause (keyFor h s) (x / 8) s with
        | some c => .unread (atFetch c) a (x / 64)
        | none => .bytes [memByte x s]

/-- The bytes at a list of addresses, or what the first of them that gives none gives. -/
def fetchBytes (h : Hart) (s : State) : List Nat → Fetched
  | [] => .bytes []
  | a :: t =>
    match fetchByte h a s with
    | .bytes b => match fetchBytes h s t with
      | .bytes l => .bytes (b ++ l)
      | r => r
    | r => r

/-- The bytes of the n halfwords from an address on. -/
def halves (pc n : Nat) : List Nat := (List.range (2 * n)).map fun i => (pc + i) % 2 ^ 54

/-- The word at the pc: bit 0 of its first halfword says how long it is (R131). -/
def fetch (h : Hart) (s : State) : Fetched :=
  match fetchBytes h s (halves h.pc.toNat 1) with
  | .bytes (m :: t) =>
    if wordLength m = 2 then .bytes (m :: t)
    else match fetchBytes h s (halves (h.pc.toNat + 2) 1) with
      | .bytes l => .bytes (m :: t ++ l)
      | r => r
  | r => r

/-- The words of memory that the bytes of a fetch lie in. -/
def fetchWords (h : Hart) (s : State) : List Nat :=
  let n := match fetch h s with
    | .bytes l => l.length / 2
    | _ => 0
  ((halves h.pc.toNat n).filterMap fun a => match globalUnit h a false s with
    | .ok p _ u => some ((frameOf p + u) / 8)
    | _ => none).eraseDups

/-- A fetch has been made: the entry that served it becomes the most recently used (R303), and its messages have been sealed
(R334). -/
def fetchTouch (s : State) : State :=
  tlbTouch s.me s.me.pc.toNat (sealTrips (tileOf s.me.nm) (keyFor s.me s) (fetchWords s.me s) s)

/-- What comes before the next instruction of the hart with the turn: DBG.STEP, an abort or an interrupt (R122, R289,
R292). -/
def beforeIssue (s : State) : Option Out :=
  let h := s.me
  if h.stepped then some (execDbgStep h.name s)
  else if inTxn h && h.txn.doom.isSome then
    some (if h.task.isSome then execTaskRollback h.name s else execTxnAbort h.name s)
  else if (interruptBit h s.time).isSome && interruptOpen h then some (execInterruptTake h.name s)
  else none

/-- May the hart with the turn attempt an issue? A cell out of service issues nothing (R315), nor does a partition whose
key has no nonce left (R335). -/
def canIssue (h : Hart) (s : State) : Bool :=
  h.stat == .running && !s.fenced.contains (tileOf h.nm) && !keySpent (keyFor h s) s

/-- What an attempt of a hart comes to, with its cell's pointer moved on. -/
def rotated (n : Nat) (o : Out) : Out :=
  match o with
  | .next t => .next (passTurn n t)
  | o => o

/-- Events that come only as part of another one: an instruction's or a store's. -/
def inner (e : Instr) : Bool :=
  match e with
  | .hipiSoft _ _ => true
  | .hipiPreempt _ _ => true
  | .illegal _ _ _ => true
  | .registerWrite _ _ => true
  | .failmapWrite _ _ => true
  | .bfctlLock => true
  | .bfctlTenwr _ => true
  | _ => e.isWord

/-- A hart gets the turn. -/
def turnTo (n : Nat) (s : State) : State :=
  if present s.me && s.me.nm == n then s
  else match s.harts.find? fun h => present h && h.nm == n with
    | none => s
    | some h =>
      let rest := s.harts.filter fun x => !(present x && x.nm == n)
      { s with me := h, harts := if present s.me then rest ++ [s.me] else rest }

/-- Of two harts of a general cell the one that its rotation pointer comes to first issues on port 0 (R71, R72). -/
def portsOf (a b : Nat) (s : State) : Nat × Nat :=
  let p := (getCell (cellOf a) s).rot
  let far (n : Nat) : Nat := (slotOf n + 16 - p % 16) % 16
  if far b < far a then (b, a) else (a, b)

/-- May two harts issue in one cycle: are they two harts of one general cell (R71)? -/
def twoPorts (a b : Nat) : Bool := a != b && cellOf a == cellOf b && isGeneral (cellNo a)

/-- The requests of a hart that a step has sent. -/
def newReqs (n : Nat) (s t : State) : List Nat :=
  (t.reqs.filter fun r => r.src == n && !(s.reqs.any fun q => q.id == r.id)).map fun r => r.id

/-- What port 1 has issued stands behind what port 0 issued in the same cycle to its line (R258). That holds of a line of
their own pan too, where R47 orders by slot and the rotation may put the higher slot on port 0 (log 1). -/
def portOrder (a b : Nat) (s t u : State) : State :=
  let first := newReqs a s t
  let second := newReqs b t u
  { u with reqs := u.reqs.map fun r => if second.contains r.id then { r with own := r.own ++ first } else r }

/-- The next entry of the order; with none left, the hart with the turn issues. -/
def nextChoice (s : State) : Choice × State :=
  match s.choices with
  | [] => (.issue s.me.name, s)
  | c :: t => (c, { s with choices := t })

/-- The fetched word as R145 reports it. -/
def fetchedWord (l : List Byte) : BitVec 32 := wordOf l

/-- The hart with the turn attempts an issue (R144): what comes before an instruction, the fetch, the decoding, and the
meaning; an attempt that issues moves its cell's rotation pointer (R71). A boot hart in its ROM takes the ROM's next
step. -/
def issueNow (s : State) : Host.Outcome State Fault Refusal :=
  if canIssue s.me s then
    match beforeIssue s with
    | some o => if inTxn s.me && s.me.txn.doom.isSome && !s.me.stepped then o else rotated s.me.nm o
    | none =>
      match fetch s.me s with
      | .later => .next s
      | .park st => .next (parkMe st s)
      | .rebuild l => .next (repairLine l s)
      | .trap c a => rotated s.me.nm (.next (cause c a s))
      | .unread c a l => rotated s.me.nm (.next (cause c a (countFailing l s)))
      | .bytes l =>
        match decode l with
        | .instr i => rotated s.me.nm (exec i (fetchTouch s))
        | .illegal r =>
          rotated s.me.nm
            (execIllegal (fetchedWord l) (BitVec.ofNat 3 (rejectKind r)) (BitVec.ofNat 3 (rejectSite r)) (fetchTouch s))
  else match s.me.stat with
    | .booting n => .next (romStep (dieOf s.me.nm) n s)
    | _ => .next s

/-- The hart with a name attempts an issue, after its own earlier stores to the commons (R69, R72). -/
def issueStep (n : Nat) (s : State) : Host.Outcome State Fault Refusal :=
  let t := turnTo n s
  issueNow (if canIssue t.me t then settled t else t)

/-- Two harts issue in one cycle, port 0 first (R71, R258); two that share no cell issue one after the other. -/
def issueBoth (a b : Nat) (s : State) : Host.Outcome State Fault Refusal :=
  let (a, b) := if twoPorts a b then portsOf a b s else (a, b)
  match issueStep a s with
  | .next t => match issueStep b t with
    | .next u => .next (if twoPorts a b then portOrder a b s t u else u)
    | o => o
  | o => o

/-- Where `withFetchWord` puts an instruction: a free place of memory. -/
def fetchBase : Nat := 0x10000

/-- The word is stored at `fetchBase`, in lines as a wipe leaves them, and the hart with the turn stands there,
running, under the firmware map's piece for the place. -/
def placeWord (s : State) (nbits w : Nat) : State :=
  let l := toBytes (w % 2 ^ nbits) 4
  let m := (List.range 2).foldl (fun m i => setSide m (fetchBase / 64 + i) SideBand.init) s.mem
  let map : Mapping :=
    { src := 0, path := fetchBase, depth := 21, limit := fetchBase + 4095, hole := none, frame := fetchBase, fmt := 0,
      strip := 0, shadow := none, pasid := 0 }
  let c := cellOf s.me.nm
  let s := if (getCell c s).tlb.isEmpty then s
    else setCell c { getCell c s with tlb := (getCell c s).tlb.filter fun e => e.slot != slotOf s.me.nm } s
  { s with
    choices := []
    fenced := s.fenced.filter fun t => t != tileOf s.me.nm
    seals := s.seals.filter fun x => x.2 < 2 ^ 64
    accs := s.accs.filter fun a => a.1 / 32 != fetchBase / 128
    mem := storeBytes m fetchBase l
    me := { s.me with
      pc := BitVec.ofNat 54 fetchBase, stat := .running, stepped := false, hie := 0, walked := [map], walkFaults := []
      hist := [], out := [], txn := { s.me.txn with doom := none } } }

end Sys2Proof.Machine
end

