-- ==== Sys2Proof/Machine/Step.lean ====
section
/-! DEFINITION. One step: the next entry of the order of moves takes place (log 1). -/

namespace Sys2Proof.Machine

open Sys2Proof

/-- One step of the machine. -/
def step (s : State) : Host.Outcome State Fault Refusal :=
  match nextChoice s with
  | (.happen e, t) => if inner e then .next t else exec e t
  | (.issue n, t) => issueStep n.toNat t
  | (.both a b, t) => issueBoth a.toNat b.toNat t

/-- The state with an instruction word where the next step fetches (see `placeWord`). -/
def State.withFetchWord (s : State) (nbits w : Nat) : State := placeWord s nbits w

end Sys2Proof.Machine
end

