-- ==== Sys2Proof/Safety.lean ====
section
/-! DEFINITION. What a safe run is, in the terms that claims use: memory in its canonical form, and a hart whose
instruction issues. -/

namespace Sys2Proof.Safety

open Sys2Proof Sys2Proof.Machine

/-- Memory has its one canonical form. -/
def memoryOk (s : State) : Prop := Memory.wf s.mem = true

/-- Checks 5 to 8 of R144 let the instruction of a gate issue: the mode may execute it; in a transaction it is none of
R121 and writes no tx; the cell lists its set; its sources are bound, sound and full; its destinations await no
deposit; the tags it needs are free; and a message may be sent to the hart that xt names. -/
abbrev Ready (g : Gate) (s : State) : Prop :=
  g.moded = true ∧
  (inTxn s.me = true → g.bars = false ∧ Tgt.tx ∉ g.tgts) ∧
  cellLists (cellNo s.me.nm) g.set = true ∧
  (∀ n ∈ g.needs, needUnbound s.me n = false) ∧
  (∀ n ∈ g.needs, needFailed s.me n = false) ∧
  (∀ n ∈ g.needs, needEmpty s.me n = false) ∧
  (∀ t ∈ g.tgts, tgtBusy s.me t = false) ∧
  (g.tags ≠ 0 → g.tags ≤ (freeTags s.me.nm s).length) ∧
  (Tgt.tx ∈ g.tgts → txFault s = none)

end Sys2Proof.Safety
end

