-- ==== Sys2Proof/Certificates/Slice0/Obligations.lean ====
section
/-! DEFINITION. The statements for the provers. The words they are said in come first, in `Sys2Proof.Claims`: they say
results in terms of bit vectors and integers, not of the meanings. -/

namespace Sys2Proof.Claims

open Sys2Proof Sys2Proof.Machine Sys2Proof.Safety

/-! ### Values -/

/-- A source of its own width as a bit vector. -/
def raw (x : Val) : BitVec x.2 := BitVec.ofNat x.2 x.1

/-- A source brought to width w (R54): the signed class extends its sign, the unsigned class zeros. -/
def ext (c : Cls) (x : Val) (w : Nat) : BitVec w :=
  match c with
  | .S => (raw x).signExtend w
  | .Z => (raw x).setWidth w

/-- A source as an integer of its own width. -/
def int (c : Cls) (x : Val) : Int :=
  match c with
  | .S => (raw x).toInt
  | .Z => (raw x).toNat

/-- A bit vector as an integer. -/
def intOf (c : Cls) {w : Nat} (x : BitVec w) : Int :=
  match c with
  | .S => x.toInt
  | .Z => x.toNat

/-- The number whose bit i is f i, for i below n. -/
def bitsOf (n : Nat) (f : Nat → Bool) : Nat := ((List.range n).map fun i => if f i then 2 ^ i else 0).sum

/-- How many of the numbers below n, from 0 on, do not satisfy f before the first that does. -/
def runOf (n : Nat) (f : Nat → Bool) : Nat := ((List.range n).takeWhile fun i => !f i).length

/-- A number with its low n bits cleared. -/
def aligned (v n : Nat) : Nat := v / 2 ^ n * 2 ^ n

/-- 1 or 0. -/
def flag (p : Prop) [Decidable p] : Nat := if p then 1 else 0

/-! ### Shapes -/

/-- What `op D, A, B` reads and writes. -/
def gate3 (i : Instr) (sc : Scale) (b a d : Byte) (s : State) : Gate :=
  plainGate i [srcNeed sc .A a 0 s.me, srcNeed sc .B b (sameStream a b) s.me] [dstTgt sc .D d s.me]

/-- What `op A, B` reads and writes (R151). -/
def gate2 (i : Instr) (sc : Scale) (b a : Byte) (s : State) : Gate :=
  plainGate i [srcNeed sc .A a 0 s.me, srcNeed sc .B b 0 s.me] [dstTgt sc .A a s.me]

/-- What `op D, A` reads and writes. -/
def gate1 (i : Instr) (sc : Scale) (a d : Byte) (s : State) : Gate :=
  plainGate i [srcNeed sc .A a 0 s.me] [dstTgt sc .D d s.me]

/-- What `ins` reads and writes: D is also a source, after A. -/
def gateIns (i : Instr) (sc : Scale) (a d : Byte) (s : State) : Gate :=
  plainGate i [srcNeed sc .A a 0 s.me, srcNeed sc .D d 0 s.me] [dstTgt sc .D d s.me]

/-- What `sel` reads and writes. -/
def gateSel (i : Instr) (sc : Scale) (b a d : Byte) (s : State) : Gate :=
  plainGate i [srcNeed sc .A a 0 s.me, srcNeed sc .B b (sameStream a b) s.me, srcNeed sc .D d 0 s.me]
    [dstTgt sc .D d s.me]

/-- What an instruction without a source writes. -/
def gate0 (i : Instr) (sc : Scale) (d : Byte) (s : State) : Gate := plainGate i [] [dstTgt sc .D d s.me]

/-- A ready instruction writes a value to an operand, after it has issued. -/
def Writes (i : Instr) (g : State → Gate) (sc : Scale) (p : Pos) (x : Byte) (val : Hart → Nat) : Prop :=
  ∀ s : State, Ready (g s) s → exec i s = .next (writeOp sc p x (val s.me) (advance (g s) s))

/-- D := f(A, B): the result is written at D's width. -/
def ThreeOp (mk : Byte → Byte → Byte → Instr) (sc : Scale) (val : Nat → Val → Val → Nat) : Prop :=
  ∀ b a d : Byte, Writes (mk b a d) (gate3 (mk b a d) sc b a d) sc .D d fun h =>
    val (opBits sc d) (readOp sc .A a 0 h) (readOp sc .B b (sameStream a b) h)

/-- A := f(A, B): the F form (R151). -/
def TwoOp (mk : Byte → Byte → Instr) (sc : Scale) (val : Nat → Val → Val → Nat) : Prop :=
  ∀ b a : Byte, Writes (mk b a) (gate2 (mk b a) sc b a) sc .A a fun h =>
    val (opBits sc a) (readOp sc .A a 0 h) (readOp sc .B b 0 h)

/-- D := f(A). -/
def OneOp (mk : Byte → Byte → Instr) (sc : Scale) (val : Nat → Val → Nat) : Prop :=
  ∀ a d : Byte, Writes (mk a d) (gate1 (mk a d) sc a d) sc .D d fun h => val (opBits sc d) (readOp sc .A a 0 h)

/-- D := f(old D, A). -/
def InsertOp (mk : Byte → Byte → Instr) (sc : Scale) (val : Nat → Val → Val → Nat) : Prop :=
  ∀ a d : Byte, Writes (mk a d) (gateIns (mk a d) sc a d) sc .D d fun h =>
    val (opBits sc d) (readOp sc .D d 0 h) (readOp sc .A a 0 h)

/-- D := f(A, B, old D). -/
def SelectOp (mk : Byte → Byte → Byte → Instr) (sc : Scale) (val : Nat → Val → Val → Val → Nat) : Prop :=
  ∀ b a d : Byte, Writes (mk b a d) (gateSel (mk b a d) sc b a d) sc .D d fun h =>
    val (opBits sc d) (readOp sc .A a 0 h) (readOp sc .B b (sameStream a b) h) (readOp sc .D d 0 h)

/-- D := a value of the word and the hart. -/
def Constant (mk : Byte → Instr) (sc : Scale) (val : Nat → Hart → Nat) : Prop :=
  ∀ d : Byte, Writes (mk d) (gate0 (mk d) sc d) sc .D d (val (opBits sc d))

/-- The value of a granule (R137). -/
def granVal (g : BitVec 5) (h : Hart) : BitVec 32 := BitVec.ofNat 32 (readSlices h.slices (8 * g.toNat) 8)

/-- What a granule in position p needs. -/
def granNeed (p : Pos) (g : BitVec 5) : Need := .slices (posSite p) (posBit p) (8 * g.toNat) 8

/-- A 16-bit word whose result goes to granule G. -/
def Compact (i : Instr) (needs : List Need) (g : BitVec 5) (val : Hart → BitVec 32) : Prop :=
  ∀ s : State, Ready (plainGate i needs [.slices (8 * g.toNat) 8]) s →
    exec i s = .next (modMe (putSlices (8 * g.toNat) 8 (val s.me).toNat)
      (advance (plainGate i needs [.slices (8 * g.toNat) 8]) s))

end Sys2Proof.Claims

open Sys2Proof Sys2Proof.Machine Sys2Proof.Safety Sys2Proof.Claims

/-! ### The machine (R131, R134 to R144, R146, R147) -/

/-- What an attempt of a hart comes to (R71): where it has issued, its cell's rotation pointer is the slot after its own;
one that waits, parks or leaves its cell does not move it. -/
def Sys2Proof.Claims.afterAttempt (n : Nat) (o : Out) : Out :=
  match o with
  | .next t => .next (match t.me.stat with
    | .waiting _ => t
    | .missed _ => t
    | .absent _ => t
    | .hostPark _ _ _ => t
    | .departing _ => t
    | _ => setCell (n / 16)
        { getCell (n / 16) t with rot := (n % 16 + 1) % (if n / 16 % 32 < 16 then 16 else 4) } t)
  | o => o

/-- R71, R72, R144, R146, R258: with nothing else due, a hart that may issue, once its own earlier stores to the commons are
applied, fetches the bytes at its pc, and runs the instruction that they decode to; a word that is no instruction is
reported with the kind and site of its failed check; an event of the order takes place as such; and of two harts of a general
cell that issue in one cycle, the one on port 0 comes first, and what the other sends follows it. (model's choices: log 1) -/
def Obligations.StepRunsTheDecodedInstruction : Prop :=
  (∀ (s v : State) (l : List Byte),
    (s.choices = [] ∧ v = turnTo s.me.name.toNat s ∨
      ∃ n t, s.choices = .issue n :: t ∧ v = turnTo n.toNat { s with choices := t }) →
    canIssue v.me v = true →
    let u := settled v
    beforeIssue u = none → fetch u.me u = .bytes l →
    (∀ i, decode l = .instr i → WellFormed i →
      Sys2Proof.Machine.step s = afterAttempt u.me.name.toNat (exec i (fetchTouch u))) ∧
    ∀ r, decode l = .illegal r → Sys2Proof.Machine.step s = afterAttempt u.me.name.toNat
      (exec (.illegal (wordOf l) (BitVec.ofNat 3 (rejectKind r)) (BitVec.ofNat 3 (rejectSite r))) (fetchTouch u))) ∧
  (∀ (s : State) (e : Instr) (t : List Choice),
    s.choices = .happen e :: t → inner e = false → Sys2Proof.Machine.step s = exec e { s with choices := t }) ∧
  ∀ (s p q : State) (a b : Name) (t : List Choice),
    let cell := a.toNat / 16
    let turn (n : Name) : Nat := (n.toNat % 16 + 16 - (getCell cell s).rot % 16) % 16
    s.choices = .both a b :: t → a ≠ b → b.toNat / 16 = cell → cell % 32 < 16 →
    ∀ x y : Name, (turn b < turn a ∧ x = b ∧ y = a ∨ ¬turn b < turn a ∧ x = a ∧ y = b) →
      issueStep x.toNat { s with choices := t } = .next p → issueStep y.toNat p = .next q →
      ∃ u, Sys2Proof.Machine.step s = .next u ∧ u = { q with reqs := u.reqs } ∧
        u.reqs.map (fun r => { r with own := [] }) = q.reqs.map (fun r => { r with own := [] }) ∧
        ∀ r ∈ u.reqs, r.src = y.toNat → (∀ o ∈ p.reqs, o.id ≠ r.id) →
          ∀ o ∈ p.reqs, o.src = x.toNat → (∀ o' ∈ s.reqs, o'.id ≠ o.id) → o.id ∈ r.own

/-- R131: the word at the pc has 4 bytes where bit 0 of its first byte is 1, else 2; its bytes are those of the places
that the pc and the addresses after it translate to, on RAW pages of memory, where no line waits to be rebuilt. (model's
choices: log 8, 9, 12) -/
def Obligations.FetchReadsTheWordAtThePc : Prop :=
  ∀ (s : State) (p : Nat → Place) (u : Nat → Nat),
    let n := if (memByte (frameOf (p 0) + u 0) s).getLsbD 0 then 4 else 2
    (∀ i < n, globalUnit s.me ((s.me.pc.toNat + i) % 2 ^ 54) false s = .ok (p i) 0 (u i) ∧ hostOf (p i) = none ∧
      fetchWaits s.me ((frameOf (p i) + u i) / 64) s = false ∧
      (isPageWord ((frameOf (p i) + u i) / 8) = true → s.me.mode = .firmware) ∧
      ¬(eccFails ((frameOf (p i) + u i) / 64) s = true ∧ rebuilds ((frameOf (p i) + u i) / 64) s = true) ∧
      failCause (keyFor s.me s) ((frameOf (p i) + u i) / 8) s = none) →
    fetch s.me s = .bytes ((List.range n).map fun i => memByte (frameOf (p i) + u i) s)

/-- R134, R137 to R144: decoding what encoding a well-formed instruction gives is that instruction, with every operand at
every value that its encoding admits. -/
def Obligations.DecodeOfEncode : Prop := ∀ i : Instr, WellFormed i → decode (encode i) = .instr i

/-- R144: whatever bytes decode to is a well-formed instruction: reserved codes, undefined widths and operands that a
form forbids are turned away. -/
def Obligations.DecodedIsWellFormed : Prop := ∀ (l : List Byte) (i : Instr), decode l = .instr i → WellFormed i

/-- The words that the manual writes out decode to the instructions they stand for. -/
def Obligations.WordsOfTheManual : Prop :=
  let word (w : Nat) : Decoded := decode (toBytes w 4)
  let half (w : Nat) : Decoded := decode (toBytes w 2)
  word 0x50C80629 = .instr (.divN 0x50 0xC8) ∧ word 0xD8D0E83F = .instr (.selD 0xD8 0xD0 0xE8) ∧
  word 0x44808035 = .instr (.shrImmN 4 0x80 0x80) ∧ word 0x0280902D = .instr (.popcN 0x80 0x90) ∧
  word 0x7B3AA031 = .instr (.liN 0x7B3A 0xA0) ∧ word 0x06C05439 = .instr (.extN 6 0xC0 0x54) ∧
  word 0x10C0D845 = .instr (.tdesc 0x10 0xC0 0xD8) ∧ word 0x02D8E847 = .instr (.tasc 2 0xD8 0xE8) ∧
  word 0x23D81047 = .instr (.tdig 3 0xD8 0x10) ∧ word 0x10880859 = .instr (.bLt 0x10 0x88 8) ∧
  word 0xBFFE0051 = .instr (.dbnzN 0x3FFE 0) ∧ half 0x0824 = .instr (.addC 2 1)

/-! ### Issue and operands (R51 to R58, R61, R63, R64, R144, R148) -/

/-- R131, R61, R148: a word that issues moves the pc past itself, consumes xi, empties the mailbox once if a source names
rx, takes one element of a stream for each source that names it, and changes nothing else. -/
def Obligations.IssueEffect : Prop :=
  ∀ (g : Gate) (s : State),
    advance g s = { s with me := { s.me with
      pc := s.me.pc + BitVec.ofNat 54 (encode g.i).length
      xiv := false
      rxFull := s.me.rxFull && g.needs.all fun n => needLoc n != .mailbox
      streams := s.me.streams.map fun (k, b) =>
        (k, { b with buf := b.buf.drop (g.needs.filter fun n => needLoc n == .stream k).length })
      stepped := stepNow s.me
      walked := []
      walkFaults := [] } }

/-- R144, R57, R58, R62, R81, R121, R287: the checks before issue in their order, and what each that fails does.
(model's choices: log 10, 22) -/
def Obligations.ChecksBeforeIssue : Prop :=
  ∀ (g : Gate) (k : State → State) (s : State), issue g k s =
    if g.moded = false then cause cPrivMode (wordNat g.i) s
    else if inTxn s.me = true ∧ (g.bars = true ∨ Tgt.tx ∈ g.tgts) then abortMe stUnsafe 0 s
    else if cellLists (cellNo s.me.nm) g.set = false then
      if setServed s.me s then beginMove (moveForSet g.set (tileOf s.me.nm)) (tileOf s.me.nm) s
      else cause (cIllegal 4 0) (wordNat g.i) s
    else if g.needs.any (needUnbound s.me) then cause cStrmUnbound 0 s
    else match g.needs.find? (needFailed s.me) with
      | some n => cause (cErrReg (needSite n)) (wordNat g.i) s
      | none => match g.needs.find? fun n => needEmpty s.me n && s.me.xe.getLsbD (needBit n) with
        | some n => cause (cRegEmpty (needSite n)) (wordNat g.i) s
        | none =>
          if g.needs.any (needEmpty s.me) then waitOn ((g.needs.filter (needEmpty s.me)).map needLoc) s
          else if g.tgts.any (tgtBusy s.me) then waitOn [.regs] s
          else if g.tags ≠ 0 ∧ (freeTags s.me.nm s).length < g.tags then waitOn [.tags] s
          else match (if Tgt.tx ∈ g.tgts then txFault s else none) with
            | some (c, v) => cause c v s
            | none => k (advance g s)

/-- The first slice of an operand: its index plus the base of its position (R51). -/
def Sys2Proof.Claims.firstSlice (p : Pos) (x : Byte) (h : Hart) : Nat :=
  let base : BitVec 8 := match p with
    | .D => h.xw.extractLsb' 0 8
    | .A => h.xw.extractLsb' 8 8
    | .B => h.xw.extractLsb' 16 8
  (base.toNat + x.toNat % 64) % 256

/-- The slices of an operand: 1, 2, 4 or 8 at n-scale, twice as many at d-scale (R53). -/
def Sys2Proof.Claims.sliceCount (sc : Scale) (x : Byte) : Nat :=
  match sc with
  | .n => 2 ^ (x.toNat / 64)
  | .d => 2 * 2 ^ (x.toNat / 64)

/-- R51 to R53, R55: a source operand below 56 reads a stretch of the slice file that wraps modulo 256; zr reads 0, rx
the mailbox, hid the hart's name. -/
def Obligations.OperandReads : Prop :=
  ∀ (sc : Scale) (p : Pos) (x : Byte) (n : Nat) (h : Hart),
    let w := 4 * sliceCount sc x
    (x.toNat % 64 < 56 →
      (readOp sc p x n h).2 = w ∧ (readOp sc p x n h).1 < 2 ^ w ∧
      ∀ i < w, (readOp sc p x n h).1.testBit i = h.slices.getLsbD ((4 * firstSlice p x h + i) % 1024)) ∧
    (x.toNat % 64 = 56 → readOp sc p x n h = (0, w)) ∧
    (x.toNat % 64 = 57 → readOp sc p x n h = (h.rx.toNat % 2 ^ w, w)) ∧
    (x.toNat % 64 = 63 → readOp sc p x n h = (h.name.toNat % 2 ^ w, w))

/-- R52, R55, R56, R287: a result written below index 56 replaces the bits of its stretch and no others, every granule
that it touches becomes full, and a granule that it covers whole is no longer failed; a result written to zr is
discarded, and one written to rx fills the mailbox. -/
def Sys2Proof.Claims.OperandWrites : Prop :=
  ∀ (sc : Scale) (p : Pos) (x : Byte) (v : Nat) (s : State),
    let w := 4 * sliceCount sc x
    let f := firstSlice p x s.me
    let t := writeOp sc p x v s
    (x.toNat % 64 < 56 →
      (t = { s with me := { s.me with slices := t.me.slices, gfull := t.me.gfull, gbad := t.me.gbad } }) ∧
      (∀ i < w, t.me.slices.getLsbD ((4 * f + i) % 1024) = v.testBit i) ∧
      (∀ j < 1024, (∀ i < w, (4 * f + i) % 1024 ≠ j) → t.me.slices.getLsbD j = s.me.slices.getLsbD j) ∧
      (∀ g < 32, t.me.gfull.getLsbD g = true ↔
        s.me.gfull.getLsbD g = true ∨ ∃ i < sliceCount sc x, (f + i) % 256 / 8 = g) ∧
      (∀ g < 32, t.me.gbad.getLsbD g = true ↔
        s.me.gbad.getLsbD g = true ∧ ¬∀ j < 8, ∃ i < sliceCount sc x, (f + i) % 256 = 8 * g + j)) ∧
    (x.toNat % 64 = 56 → t = s) ∧
    (x.toNat % 64 = 57 → t = { s with me := { s.me with rx := BitVec.ofNat 64 (v % 2 ^ w), rxFull := true } })

/-- R334: what leaves a tile is sealed at the tile's interface under a key id, with the next number of its counter, which
rises by one; what stays in the tile is not. -/
def Sys2Proof.Claims.Sealed (tile : Nat) (dst : Option Nat) (key : Nat) (x : Option Seal) (s t : State) : Prop :=
  let count (i k : Nat) (s : State) : Nat := (lookupNat (i * 32 + k) s.seals).getD 0
  if dst = some tile then x = none ∧ t.seals = s.seals
  else (∃ tag, x = some ⟨tile, key, count tile key s, tag⟩) ∧
    ∀ i k, k < 32 → key < 32 → count i k t = if i = tile ∧ k = key then count tile key s + 1 else count i k s

/-- R64, R334: a result written to tx becomes one sealed message to the hart that xt names, and counts as
unacknowledged. -/
def Sys2Proof.Claims.ResultToTxIsAMessage : Prop :=
  ∀ (sc : Scale) (p : Pos) (x : Byte) (v : Nat) (s : State),
    x.toNat % 64 = 58 → present s.me = true →
    let t := writeOp sc p x v s
    (∃ m : Msg, t.msgs = s.msgs ++ [m] ∧ m.src = s.me.name.toNat ∧ m.dst = (s.me.xt.extractLsb' 0 22).toNat ∧
      m.val = BitVec.ofNat 64 (v % 2 ^ (4 * sliceCount sc x)) ∧ m.hist = s.me.hist ∧ m.via = tileOf s.me.nm ∧ m.held = false ∧
      Sealed (tileOf s.me.nm) (some (m.dst / 2 ^ 9)) (keyFor s.me s) m.stamp s t ∧
      t.me.hist = s.me.hist ++ [m.id]) ∧
    t.me.unacked = s.me.unacked + 1 ∧
    t = { s with me := { s.me with unacked := t.me.unacked, hist := t.me.hist }, harts := t.harts, msgs := t.msgs,
                 ids := t.ids, seals := t.seals }

/-- What an instruction that writes one operand may change when it issues: its operand, what issuing changes, and, for
tx, the messages. -/
def Sys2Proof.Claims.OnlyOperand (needs : List Need) (sc : Scale) (p : Pos) (x : Byte) (s t : State) : Prop :=
  t = { s with me := t.me, harts := t.harts, msgs := t.msgs, ids := t.ids, seals := t.seals } ∧
  (x.toNat % 64 ≠ 58 → t = { s with me := t.me } ∧ t.me.unacked = s.me.unacked ∧ t.me.hist = s.me.hist) ∧
  t.me = { s.me with
    pc := t.me.pc, xiv := t.me.xiv, slices := t.me.slices, gfull := t.me.gfull, gbad := t.me.gbad, rx := t.me.rx,
    rxFull := t.me.rxFull, streams := t.me.streams, walked := [], walkFaults := [], stepped := t.me.stepped,
    unacked := t.me.unacked, hist := t.me.hist } ∧
  (∀ j < 1024, (x.toNat % 64 < 56 → ∀ i < 4 * sliceCount sc x, (4 * firstSlice p x s.me + i) % 1024 ≠ j) →
    t.me.slices.getLsbD j = s.me.slices.getLsbD j) ∧
  (x.toNat % 64 ≠ 57 → t.me.rx = s.me.rx ∧
    ((∀ n ∈ needs, needLoc n ≠ .mailbox) → t.me.rxFull = s.me.rxFull)) ∧
  ((∀ n ∈ needs, ∀ k, needLoc n ≠ .stream k) → t.me.streams = s.me.streams)

/-- No outcome of an instruction changes memory, and one that issues changes only its operand. -/
def Sys2Proof.Claims.Framed (i : Instr) (g : State → Gate) (sc : Scale) (p : Pos) (x : Byte) : Prop :=
  ∀ s t : State, exec i s = .next t →
    t.mem = s.mem ∧ (Ready (g s) s → OnlyOperand (g s).needs sc p x s t)

/-- R55, R56, R147: the frame of the scalar and tree instructions: no outcome changes memory, and one that issues changes
its destination, the pc, xi and its special sources, and nothing else. -/
def Sys2Proof.Claims.ScalarFrame : Prop :=
  let F3 (mk : Byte → Byte → Byte → Instr) (sc : Scale) : Prop :=
    ∀ b a d, Framed (mk b a d) (gate3 (mk b a d) sc b a d) sc .D d
  let F2 (mk : Byte → Byte → Instr) (sc : Scale) : Prop := ∀ b a, Framed (mk b a) (gate2 (mk b a) sc b a) sc .A a
  let F1 (mk : Byte → Byte → Instr) (sc : Scale) : Prop := ∀ a d, Framed (mk a d) (gate1 (mk a d) sc a d) sc .D d
  F3 .addN .n ∧ F3 .addD .d ∧ F3 .adduN .n ∧ F3 .adduD .d ∧ F3 .subN .n ∧ F3 .subD .d ∧ F3 .subuN .n ∧ F3 .subuD .d ∧
  F3 .mulN .n ∧ F3 .mulD .d ∧ F3 .muluN .n ∧ F3 .muluD .d ∧ F3 .andN .n ∧ F3 .andD .d ∧ F3 .orN .n ∧ F3 .orD .d ∧
  F3 .xorN .n ∧ F3 .xorD .d ∧ F3 .andnN .n ∧ F3 .andnD .d ∧ F3 .zipN .n ∧ F3 .zipD .d ∧ F3 .tdesc .d ∧ F2 .mulhN .n ∧
  F2 .mulhD .d ∧ F2 .mulhuN .n ∧ F2 .mulhuD .d ∧ F2 .divN .n ∧ F2 .divD .d ∧ F2 .divuN .n ∧ F2 .divuD .d ∧
  F2 .remN .n ∧ F2 .remD .d ∧ F2 .remuN .n ∧ F2 .remuD .d ∧ F2 .minN .n ∧ F2 .minD .d ∧ F2 .maxN .n ∧ F2 .maxD .d ∧
  F2 .cmpEqN .n ∧ F2 .cmpEqD .d ∧ F2 .cmpNeN .n ∧ F2 .cmpNeD .d ∧ F2 .cmpLtN .n ∧ F2 .cmpLtD .d ∧ F2 .cmpGeN .n ∧
  F2 .cmpGeD .d ∧ F2 .cmpLtuN .n ∧ F2 .cmpLtuD .d ∧ F2 .cmpGeuN .n ∧ F2 .cmpGeuD .d ∧ F2 .shlRegN .n ∧
  F2 .shlRegD .d ∧ F2 .shrRegN .n ∧ F2 .shrRegD .d ∧ F2 .sraRegN .n ∧ F2 .sraRegD .d ∧ F2 .rolRegN .n ∧
  F2 .rolRegD .d ∧ F1 .movZxN .n ∧ F1 .movZxD .d ∧ F1 .movSxN .n ∧ F1 .movSxD .d ∧ F1 .popcN .n ∧ F1 .popcD .d ∧
  F1 .clzN .n ∧ F1 .clzD .d ∧ F1 .ctzN .n ∧ F1 .ctzD .d ∧ F1 .brevN .n ∧ F1 .brevD .d ∧ F1 .unzipRN .n ∧
  F1 .unzipRD .d ∧ F1 .unzipCN .n ∧ F1 .unzipCD .d ∧ (∀ n, F1 (.shlImmN n) .n) ∧ (∀ n, F1 (.shlImmD n) .d) ∧
  (∀ n, F1 (.shrImmN n) .n) ∧ (∀ n, F1 (.shrImmD n) .d) ∧ (∀ n, F1 (.sraImmN n) .n) ∧ (∀ n, F1 (.sraImmD n) .d) ∧
  (∀ n, F1 (.rolImmN n) .n) ∧ (∀ n, F1 (.rolImmD n) .d) ∧ (∀ n, F1 (.extN n) .n) ∧ (∀ n, F1 (.extD n) .d) ∧
  (∀ n, F1 (.tasc n) .d) ∧ (∀ n, F1 (.tdig n) .d) ∧
  (∀ b a d, Framed (.selN b a d) (gateSel (.selN b a d) .n b a d) .n .D d) ∧
  (∀ n a d, Framed (.insN n a d) (gateIns (.insN n a d) .n a d) .n .D d) ∧
  (∀ m d, Framed (.liN m d) (gate0 (.liN m d) .n d) .n .D d) ∧
  (∀ b a d, Framed (.selD b a d) (gateSel (.selD b a d) .d b a d) .d .D d) ∧
  (∀ n a d, Framed (.insD n a d) (gateIns (.insD n a d) .d a d) .d .D d) ∧
  (∀ m d, Framed (.liD m d) (gate0 (.liD m d) .d d) .d .D d)

/-- R52, R63, R64, R147, R148: where a result goes: into slices of the file, into rx, or out as a message of tx. (model's
choices: log 101) -/
def Obligations.ResultsAreWritten : Prop := OperandWrites ∧ ResultToTxIsAMessage

/-! ### Scalar arithmetic and logic (R149 to R158) -/

/-- R149: the nine three-operand operations at both scales: each source is brought to D's width by the class, and the
result is taken modulo 2^w. -/
def Sys2Proof.Claims.ThreeOperandResults : Prop :=
  let add (c : Cls) (w : Nat) (x y : Val) : Nat := (ext c x w + ext c y w).toNat
  let sub (c : Cls) (w : Nat) (x y : Val) : Nat := (ext c x w - ext c y w).toNat
  let mul (c : Cls) (w : Nat) (x y : Val) : Nat := (ext c x w * ext c y w).toNat
  let and (w : Nat) (x y : Val) : Nat := (ext .Z x w &&& ext .Z y w).toNat
  let or (w : Nat) (x y : Val) : Nat := (ext .Z x w ||| ext .Z y w).toNat
  let xor (w : Nat) (x y : Val) : Nat := (ext .Z x w ^^^ ext .Z y w).toNat
  let andn (w : Nat) (x y : Val) : Nat := (ext .Z x w &&& ~~~ext .Z y w).toNat
  ThreeOp .addN .n (add .S) ∧ ThreeOp .addD .d (add .S) ∧ ThreeOp .adduN .n (add .Z) ∧ ThreeOp .adduD .d (add .Z) ∧
  ThreeOp .subN .n (sub .S) ∧ ThreeOp .subD .d (sub .S) ∧ ThreeOp .subuN .n (sub .Z) ∧ ThreeOp .subuD .d (sub .Z) ∧
  ThreeOp .mulN .n (mul .S) ∧ ThreeOp .mulD .d (mul .S) ∧ ThreeOp .muluN .n (mul .Z) ∧ ThreeOp .muluD .d (mul .Z) ∧
  ThreeOp .andN .n and ∧ ThreeOp .andD .d and ∧ ThreeOp .orN .n or ∧ ThreeOp .orD .d or ∧
  ThreeOp .xorN .n xor ∧ ThreeOp .xorD .d xor ∧ ThreeOp .andnN .n andn ∧ ThreeOp .andnD .d andn

/-- R152, R153: the high half of a product, and the quotient rounded toward zero and the remainder, with their results
for a divisor of 0 and for the one quotient that overflows. -/
def Sys2Proof.Claims.HighProductAndDivision : Prop :=
  let mulh (c : Cls) (w : Nat) (x y : Val) : Nat :=
    (BitVec.ofInt w (intOf c (ext c x w) * intOf c (ext c y w) / 2 ^ w)).toNat
  let div (c : Cls) (w : Nat) (x y : Val) : Nat :=
    let a := ext c x w
    let b := ext c y w
    (if b = 0 then BitVec.allOnes w else if c = .S then a.sdiv b else a.udiv b).toNat
  let rem (c : Cls) (w : Nat) (x y : Val) : Nat :=
    let a := ext c x w
    let b := ext c y w
    (if b = 0 then a else if c = .S then a.srem b else a.umod b).toNat
  TwoOp .mulhN .n (mulh .S) ∧ TwoOp .mulhD .d (mulh .S) ∧ TwoOp .mulhuN .n (mulh .Z) ∧ TwoOp .mulhuD .d (mulh .Z) ∧
  TwoOp .divN .n (div .S) ∧ TwoOp .divD .d (div .S) ∧ TwoOp .divuN .n (div .Z) ∧ TwoOp .divuD .d (div .Z) ∧
  TwoOp .remN .n (rem .S) ∧ TwoOp .remD .d (rem .S) ∧ TwoOp .remuN .n (rem .Z) ∧ TwoOp .remuD .d (rem .Z)

/-- R154: minimum and maximum at A's width, and the compares, which read both operands at full width. -/
def Sys2Proof.Claims.MinMaxAndCompares : Prop :=
  let min (w : Nat) (x y : Val) : Nat := (if (ext .S x w).slt (ext .S y w) then ext .S x w else ext .S y w).toNat
  let max (w : Nat) (x y : Val) : Nat := (if (ext .S x w).slt (ext .S y w) then ext .S y w else ext .S x w).toNat
  let eq (_ : Nat) (x y : Val) : Nat := flag (int .S x = int .S y)
  let ne (_ : Nat) (x y : Val) : Nat := flag (int .S x ≠ int .S y)
  let lt (c : Cls) (_ : Nat) (x y : Val) : Nat := flag (int c x < int c y)
  let ge (c : Cls) (_ : Nat) (x y : Val) : Nat := flag (int c y ≤ int c x)
  TwoOp .minN .n min ∧ TwoOp .minD .d min ∧ TwoOp .maxN .n max ∧ TwoOp .maxD .d max ∧
  TwoOp .cmpEqN .n eq ∧ TwoOp .cmpEqD .d eq ∧ TwoOp .cmpNeN .n ne ∧ TwoOp .cmpNeD .d ne ∧
  TwoOp .cmpLtN .n (lt .S) ∧ TwoOp .cmpLtD .d (lt .S) ∧ TwoOp .cmpGeN .n (ge .S) ∧ TwoOp .cmpGeD .d (ge .S) ∧
  TwoOp .cmpLtuN .n (lt .Z) ∧ TwoOp .cmpLtuD .d (lt .Z) ∧ TwoOp .cmpGeuN .n (ge .Z) ∧ TwoOp .cmpGeuD .d (ge .Z)

/-- R155: shifts and rotations by a register amount, at A's own width, and by an immediate amount, of A brought to D's
width. -/
def Sys2Proof.Claims.ShiftResults : Prop :=
  let shl (c : Cls) (w : Nat) (x : Val) (n : Nat) : Nat := (ext c x w <<< n).toNat
  let shr (c : Cls) (w : Nat) (x : Val) (n : Nat) : Nat := (ext c x w >>> n).toNat
  let sra (c : Cls) (w : Nat) (x : Val) (n : Nat) : Nat := ((ext c x w).sshiftRight n).toNat
  let rol (c : Cls) (w : Nat) (x : Val) (n : Nat) : Nat := ((ext c x w).rotateLeft n).toNat
  TwoOp .shlRegN .n (fun w x y => shl .Z w x y.1) ∧ TwoOp .shlRegD .d (fun w x y => shl .Z w x y.1) ∧
  TwoOp .shrRegN .n (fun w x y => shr .Z w x y.1) ∧ TwoOp .shrRegD .d (fun w x y => shr .Z w x y.1) ∧
  TwoOp .sraRegN .n (fun w x y => sra .S w x y.1) ∧ TwoOp .sraRegD .d (fun w x y => sra .S w x y.1) ∧
  TwoOp .rolRegN .n (fun w x y => rol .Z w x y.1) ∧ TwoOp .rolRegD .d (fun w x y => rol .Z w x y.1) ∧
  ∀ n : BitVec 6,
    OneOp (.shlImmN n) .n (fun w x => shl .Z w x n.toNat) ∧ OneOp (.shlImmD n) .d (fun w x => shl .Z w x n.toNat) ∧
    OneOp (.shrImmN n) .n (fun w x => shr .Z w x n.toNat) ∧ OneOp (.shrImmD n) .d (fun w x => shr .Z w x n.toNat) ∧
    OneOp (.sraImmN n) .n (fun w x => sra .S w x n.toNat) ∧ OneOp (.sraImmD n) .d (fun w x => sra .S w x n.toNat) ∧
    OneOp (.rolImmN n) .n (fun w x => rol .Z w x n.toNat) ∧ OneOp (.rolImmD n) .d (fun w x => rol .Z w x n.toNat)

/-- R156: moves, counts, bit reversal and the row and column of an address: all but `brev` read A at its own width. -/
def Sys2Proof.Claims.OneSourceResults : Prop :=
  let popc (w : Nat) (x : Val) : Nat := ((List.range x.2).filter fun i => x.1.testBit i).length % 2 ^ w
  let clz (w : Nat) (x : Val) : Nat := runOf x.2 (fun i => x.1.testBit (x.2 - 1 - i)) % 2 ^ w
  let ctz (w : Nat) (x : Val) : Nat := runOf x.2 (fun i => x.1.testBit i) % 2 ^ w
  let brev (w : Nat) (x : Val) : Nat := bitsOf w fun i => (ext .Z x w).getLsbD (w - 1 - i)
  let row (w : Nat) (x : Val) : Nat := bitsOf (x.2 / 2) (fun i => x.1.testBit (2 * i + 1)) % 2 ^ w
  let col (w : Nat) (x : Val) : Nat := bitsOf (x.2 / 2) (fun i => x.1.testBit (2 * i)) % 2 ^ w
  OneOp .movZxN .n (fun w x => (ext .Z x w).toNat) ∧ OneOp .movZxD .d (fun w x => (ext .Z x w).toNat) ∧
  OneOp .movSxN .n (fun w x => (ext .S x w).toNat) ∧ OneOp .movSxD .d (fun w x => (ext .S x w).toNat) ∧
  OneOp .popcN .n popc ∧ OneOp .popcD .d popc ∧ OneOp .clzN .n clz ∧ OneOp .clzD .d clz ∧
  OneOp .ctzN .n ctz ∧ OneOp .ctzD .d ctz ∧ OneOp .brevN .n brev ∧ OneOp .brevD .d brev ∧
  OneOp .unzipRN .n row ∧ OneOp .unzipRD .d row ∧ OneOp .unzipCN .n col ∧ OneOp .unzipCD .d col

/-- R150, R157, R158, R160: `sel` by the old D, `li` with and without xi, the bit fields, and the interleaving of a row
and a column. -/
def Sys2Proof.Claims.SelectImmediateAndFields : Prop :=
  let sel (w : Nat) (x y d : Val) : Nat := (if d.1 ≠ 0 then ext .S x w else ext .S y w).toNat
  let li (m : BitVec 16) (w : Nat) (h : Hart) : Nat :=
    (if h.xiv then (h.xi.setWidth 16 ++ m : BitVec 32).signExtend w else m.signExtend w).toNat
  let ext' (p : BitVec 6) (w : Nat) (x : Val) : Nat := x.1 / 2 ^ p.toNat % 2 ^ w
  let ins (p : BitVec 6) (w : Nat) (d x : Val) : Nat :=
    bitsOf w fun i => if p.toNat ≤ i ∧ i < p.toNat + x.2 then x.1.testBit (i - p.toNat) else d.1.testBit i
  let zip (w : Nat) (x y : Val) : Nat :=
    bitsOf w fun i => if i % 2 = 1 then (ext .Z x (w / 2)).getLsbD (i / 2) else (ext .Z y (w / 2)).getLsbD (i / 2)
  SelectOp .selN .n sel ∧ SelectOp .selD .d sel ∧
  (∀ m, Constant (.liN m) .n (li m) ∧ Constant (.liD m) .d (li m)) ∧
  (∀ p, OneOp (.extN p) .n (ext' p) ∧ OneOp (.extD p) .d (ext' p) ∧
    InsertOp (.insN p) .n (ins p) ∧ InsertOp (.insD p) .d (ins p)) ∧
  ThreeOp .zipN .n zip ∧ ThreeOp .zipD .d zip

/-- R159, R161 to R163: descending, ascending and reading a digit of a block word. -/
def Sys2Proof.Claims.TreePathResults : Prop :=
  let depth (x : Val) : Nat := min (x.1 / 2 ^ 56 % 32) 27
  let base (x : Val) (k : Nat) : Nat := aligned (x.1 % 2 ^ 54) (54 - 2 * k)
  ThreeOp .tdesc .d (fun w x y =>
    let k := depth x
    (if k = 27 then 27 * 2 ^ 56 + base x 27
      else (k + 1) * 2 ^ 56 + base x k + y.1 % 4 * 2 ^ (52 - 2 * k)) % 2 ^ w) ∧
  (∀ l : BitVec 5, OneOp (.tasc l) .d (fun w x =>
    (((depth x - l.toNat) * 2 ^ 56) + base x (depth x - l.toNat)) % 2 ^ w)) ∧
  (∀ n : BitVec 5, OneOp (.tdig n) .d (fun w x =>
    (if n.toNat ≤ 27 then x.1 / 2 ^ (54 - 2 * n.toNat) % 4 else 0) % 2 ^ w))

/-- R143: the 16-bit words that write a granule: they move, add, subtract, combine, load and shift at 32 bits. -/
def Obligations.CompactResults : Prop :=
  ∀ (h g : BitVec 5) (m : BitVec 6) (n : BitVec 5),
    let needs : List Need := [granNeed .A g, granNeed .B h]
    Compact (.movC h g) [granNeed .A h] g (granVal h) ∧
    Compact (.addC h g) needs g (fun t => granVal g t + granVal h t) ∧
    Compact (.subC h g) needs g (fun t => granVal g t - granVal h t) ∧
    Compact (.andC h g) needs g (fun t => granVal g t &&& granVal h t) ∧
    Compact (.orC h g) needs g (fun t => granVal g t ||| granVal h t) ∧
    Compact (.xorC h g) needs g (fun t => granVal g t ^^^ granVal h t) ∧
    Compact (.liC m g) [] g (fun _ => m.signExtend 32) ∧
    Compact (.shlC n g) [granNeed .A g] g (fun t => granVal g t <<< n.toNat) ∧
    Compact (.shrC n g) [granNeed .A g] g (fun t => granVal g t >>> n.toNat)

/-- R149, R152 to R154: the results of the scalar instructions with two sources. -/
def Sys2Proof.Claims.TwoSourceResults : Prop := ThreeOperandResults ∧ HighProductAndDivision ∧ MinMaxAndCompares

/-- R155, R156: the results of shifts, rotates, moves, counts and bit permutations. -/
def Sys2Proof.Claims.ShiftAndOneSourceResults : Prop := ShiftResults ∧ OneSourceResults

/-- R150, R157 to R163: the results of selects, immediates, fields and tree-path instructions. -/
def Obligations.SelectFieldAndPathResults : Prop := SelectImmediateAndFields ∧ TreePathResults

/-- R149, R152 to R156: the results of the scalar instructions of two sources and of one. -/
def Obligations.IntegerResults : Prop := TwoSourceResults ∧ ShiftAndOneSourceResults

/-! ### Branches, jumps and windows (R164 to R169, R143) -/

/-- The target of an offset in halfwords from the instruction's own address (R135). -/
def Sys2Proof.Claims.targetOf (h : Hart) (off : Int) : Addr := h.pc + BitVec.ofInt 54 (2 * off)

/-- A ready instruction goes to a target if a condition on the hart holds, and else on to the next word; it changes
nothing else but what issuing changes. -/
def Sys2Proof.Claims.Branches (i : Instr) (needs : Hart → List Need) (off : Int) (taken : Hart → Prop) : Prop :=
  ∀ s : State, Ready (plainGate i (needs s.me) []) s →
    (taken s.me → exec i s = .next (modMe (fun h => { h with pc := targetOf s.me off })
      (advance (plainGate i (needs s.me) []) s))) ∧
    (¬taken s.me → exec i s = .next (advance (plainGate i (needs s.me) []) s))

/-- R164, R143: `bz` and `bnz` branch by whether D is 0, and `dbnz` decrements D modulo 2^w and branches while the result
is not 0. -/
def Sys2Proof.Claims.ZeroBranches : Prop :=
  let zero (sc : Scale) (d : Byte) (h : Hart) : Prop := (readOp sc .D d 0 h).1 = 0
  let bz (mk : BitVec 14 → Byte → Instr) (sc : Scale) (onZero : Bool) : Prop := ∀ o d,
    Branches (mk o d) (fun h => [srcNeed sc .D d 0 h]) o.toInt fun h => zero sc d h ↔ onZero = true
  let bzc (mk : BitVec 6 → BitVec 5 → Instr) (onZero : Bool) : Prop := ∀ o g,
    Branches (mk o g) (fun _ => [granNeed .D g]) o.toInt fun h => granVal g h = 0 ↔ onZero = true
  let dbnz (mk : BitVec 14 → Byte → Instr) (sc : Scale) : Prop := ∀ (o : BitVec 14) (d : Byte) (s : State),
    let g := plainGate (mk o d) [srcNeed sc .D d 0 s.me] [dstTgt sc .D d s.me]
    let v := ext .Z (readOp sc .D d 0 s.me) (opBits sc d) - 1
    Ready g s →
    (v ≠ 0 → exec (mk o d) s = .next (modMe (fun h => { h with pc := targetOf s.me o.toInt })
      (writeOp sc .D d v.toNat (advance g s)))) ∧
    (v = 0 → exec (mk o d) s = .next (writeOp sc .D d v.toNat (advance g s)))
  bz .bzN .n true ∧ bz .bzD .d true ∧ bz .bnzN .n false ∧ bz .bnzD .d false ∧ bzc .bzC true ∧ bzc .bnzC false ∧
  dbnz .dbnzN .n ∧ dbnz .dbnzD .d

/-- R165: the two-operand branches compare both operands at full width, by the class. -/
def Sys2Proof.Claims.CompareBranches : Prop :=
  let br (mk : Byte → Byte → BitVec 8 → Instr) (c : Cls) (p : Int → Int → Prop) : Prop := ∀ (b a : Byte) (o : BitVec 8),
    Branches (mk b a o) (fun h => [srcNeed .d .A a 0 h, srcNeed .d .B b (sameStream a b) h]) o.toInt fun h =>
      p (int c (readOp .d .A a 0 h)) (int c (readOp .d .B b (sameStream a b) h))
  br .bEq .S (· = ·) ∧ br .bNe .S (· ≠ ·) ∧ br .bLt .S (· < ·) ∧ br .bGe .S (fun x y => y ≤ x) ∧
  br .bLtu .Z (· < ·) ∧ br .bGeu .Z (fun x y => y ≤ x)

/-- R166, R167, R169, R143: jumps go to their target, those that link write the next word's address to D first, an odd
target of `jr` and `ret` traps with INST.ALIGN, and `win` sets the three bases. -/
def Sys2Proof.Claims.JumpsAndWindows : Prop :=
  (∀ o : BitVec 24, Branches (.jump o) (fun _ => []) o.toInt fun _ => True) ∧
  (∀ o : BitVec 11, Branches (.jC o) (fun _ => []) o.toInt fun _ => True) ∧
  (∀ (o : BitVec 16) (d : Byte) (s : State), Ready (gate0 (.jal o d) .d d s) s →
    exec (.jal o d) s = .next (modMe (fun h => { h with pc := targetOf s.me o.toInt })
      (writeOp .d .D d (s.me.pc + 4).toNat (advance (gate0 (.jal o d) .d d s) s)))) ∧
  (∀ (i : Instr) (a d : Byte) (s : State), (i = .jr a d ∨ i = .ret a ∧ d = 0x38) →
    let t := (readOp .d .A a 0 s.me).1 % 2 ^ 54
    Ready (gate1 i .d a d s) s →
    (t % 2 = 0 → exec i s = .next (modMe (fun h => { h with pc := BitVec.ofNat 54 t })
      (writeOp .d .D d (s.me.pc + 4).toNat (advance (gate1 i .d a d s) s)))) ∧
    (t % 2 = 1 → exec i s = .next (cause (cInstAlign 1) t s))) ∧
  (∀ (b a d : Byte) (s : State), Ready (plainGate (.win b a d) [] []) s →
    exec (.win b a d) s = .next (modMe (fun h => { h with xw := 0#8 ++ b ++ a ++ d })
      (advance (plainGate (.win b a d) [] []) s)))

/-- R168: the frame of the transfers of control: no outcome changes memory; one that issues changes the pc, xi, its
special sources and, for those that link or decrement, the operand they write; `win` also changes xw. -/
def Sys2Proof.Claims.ControlFrame : Prop :=
  let F (i : Instr) (sc : Scale) (p : Pos) (x : Byte) (g : State → Gate) : Prop := Framed i g sc p x
  let none (i : Instr) (needs : Hart → List Need) : Prop := F i .d .D 0x38 fun s => plainGate i (needs s.me) []
  (∀ (o : BitVec 14) (d : Byte),
    none (.bzN o d) (fun h => [srcNeed .n .D d 0 h]) ∧ none (.bzD o d) (fun h => [srcNeed .d .D d 0 h]) ∧
    none (.bnzN o d) (fun h => [srcNeed .n .D d 0 h]) ∧ none (.bnzD o d) (fun h => [srcNeed .d .D d 0 h]) ∧
    F (.dbnzN o d) .n .D d (fun s => plainGate (.dbnzN o d) [srcNeed .n .D d 0 s.me] [dstTgt .n .D d s.me]) ∧
    F (.dbnzD o d) .d .D d (fun s => plainGate (.dbnzD o d) [srcNeed .d .D d 0 s.me] [dstTgt .d .D d s.me])) ∧
  (∀ (b a : Byte) (o : BitVec 8), ∀ i ∈ [Instr.bEq b a o, .bNe b a o, .bLt b a o, .bGe b a o, .bLtu b a o, .bGeu b a o],
    none i fun h => [srcNeed .d .A a 0 h, srcNeed .d .B b (sameStream a b) h]) ∧
  (∀ (o : BitVec 6) (g : BitVec 5), none (.bzC o g) (fun _ => [granNeed .D g]) ∧
    none (.bnzC o g) (fun _ => [granNeed .D g])) ∧
  (∀ o : BitVec 24, none (.jump o) fun _ => []) ∧ (∀ o : BitVec 11, none (.jC o) fun _ => []) ∧
  (∀ (o : BitVec 16) (d : Byte), F (.jal o d) .d .D d (gate0 (.jal o d) .d d)) ∧
  (∀ a d : Byte, ∀ s t : State, exec (.jr a d) s = .next t → t.mem = s.mem ∧
    (Ready (gate1 (.jr a d) .d a d s) s → (readOp .d .A a 0 s.me).1 % 2 = 0 →
      OnlyOperand (gate1 (.jr a d) .d a d s).needs .d .D d s t)) ∧
  (∀ a : Byte, ∀ s t : State, exec (.ret a) s = .next t → t.mem = s.mem ∧
    (Ready (gate1 (.ret a) .d a 0x38 s) s → (readOp .d .A a 0 s.me).1 % 2 = 0 →
      OnlyOperand (gate1 (.ret a) .d a 0x38 s).needs .d .D 0x38 s t)) ∧
  (∀ (b a d : Byte) (s t : State), exec (.win b a d) s = .next t → t.mem = s.mem ∧
    (Ready (plainGate (.win b a d) [] []) s →
      t = { s with me := { s.me with pc := t.me.pc, xiv := false, xw := t.me.xw, stepped := t.me.stepped,
                                     walked := [], walkFaults := [] } }))

/-- R164, R165, R143: the conditional branches. -/
def Sys2Proof.Claims.ConditionalBranches : Prop := ZeroBranches ∧ CompareBranches

/-- R164 to R169, R143: conditional branches, jumps, calls, returns and `win`. -/
def Obligations.ControlTransfers : Prop := ConditionalBranches ∧ JumpsAndWindows

/-- R55, R56, R147, R168: the frames of the scalar and tree instructions and of the transfers of control. -/
def Obligations.ScalarAndControlFrame : Prop := ScalarFrame ∧ ControlFrame

/-! ### Control and status registers (R60, R77, R171 to R173, R280 to R283, R290) -/

/-- The layout of HSTATUS and FWSTATUS (R282). -/
def Sys2Proof.Claims.statusBits (b : TrapBank) (m : Mode) : BitVec 32 :=
  let code (m : Mode) : BitVec 2 := match m with
    | .user => 0
    | .kernel => 1
    | .firmware => 3
  0#19 ++ BitVec.ofBool b.pxiv ++ BitVec.ofBool b.pwait ++ BitVec.ofBool b.pie ++ BitVec.ofBool b.ie ++
    BitVec.ofBool b.ss ++ code b.pmode ++ code m ++ 0#4

/-- PMODE after a write: a value above the bank's mode, or 2, is ignored (R282). -/
def Sys2Proof.Claims.pmodeWritten (old : Mode) (firmware : Bool) (v : BitVec 32) : Mode :=
  let c := v.extractLsb' 6 2
  if c = 0 then .user else if c = 1 then .kernel else if c = 3 ∧ firmware = true then .firmware else old

/-- A bank after a write of its status word: PWAIT and MODE are read-only (R282). -/
def Sys2Proof.Claims.statusWritten (b : TrapBank) (firmware : Bool) (v : BitVec 32) : TrapBank :=
  { b with pxiv := v.getLsbD 12, pie := v.getLsbD 10, ie := v.getLsbD 9, ss := v.getLsbD 8,
           pmode := pmodeWritten b.pmode firmware v }

/-- A gate of R171: it bars a transaction if it writes a register other than x0 to x7; `ok` says that the mode may use
the register. -/
def Sys2Proof.Claims.csrGate' (i : Instr) (n : BitVec 12) (writes ok : Bool) (needs : List Need) (tgts : List Tgt) : Gate :=
  ⟨i, .B, writes && decide (7 < n.toNat), ok, needs, tgts, 0⟩

/-- The modes that may use a register (R280): 0x000 to 0x0FF all, 0x100 to 0x1FF kernel and firmware, the rest firmware. -/
def Sys2Proof.Claims.mayUse (n : BitVec 12) (h : Hart) : Bool :=
  decide (n.toNat < 0x100) || (decide (n.toNat < 0x200) && h.mode != .user) || h.mode == .firmware

/-- `csrr` of a register gives its value, zero-extended or truncated to D. -/
def Sys2Proof.Claims.CsrReads (n : BitVec 12) {w : Nat} (get : State → BitVec w) : Prop :=
  ∀ (d : Byte) (s : State), Ready (csrGate' (.csrr n d) n false (mayUse n s.me) [] [dstTgt .d .D d s.me]) s →
    exec (.csrr n d) s = .next (writeOp .d .D d (get s).toNat
      (advance (csrGate' (.csrr n d) n false (mayUse n s.me) [] [dstTgt .d .D d s.me]) s))

/-- A register that moves with time: it is read after the hart has issued and an amount of time has passed that the
model leaves free (log 5). -/
def Sys2Proof.Claims.CsrTimedReads (n : BitVec 12) {w : Nat} (get : State → BitVec w) : Prop :=
  ∀ (d : Byte) (s : State), Ready (csrGate' (.csrr n d) n false (mayUse n s.me) [] [dstTgt .d .D d s.me]) s →
    ∃ (a b k : Nat), s.time ≤ a ∧ s.cycle ≤ b ∧
      let t := { advance (csrGate' (.csrr n d) n false (mayUse n s.me) [] [dstTgt .d .D d s.me]) s with
        time := a, cycle := b, free := k }
      exec (.csrr n d) s = .next (writeOp .d .D d (get t).toNat t)

/-- `csrw`, `csrs` and `csrc` of a register of width w, with the value that a read gives it: the operand, or its bits
set or cleared in the old value, are put; xi is consumed before (R173). -/
def Sys2Proof.Claims.CsrWrites (n : BitVec 12) {w : Nat} (get : State → BitVec w) (put : BitVec w → State → State) : Prop :=
  ∀ (d : Byte) (s : State),
    let g (i : Instr) : Gate := csrGate' i n true (mayUse n s.me) [srcNeed .d .D d 0 s.me] []
    let v := ext .Z (readOp .d .D d 0 s.me) w
    (Ready (g (.csrw n d)) s → exec (.csrw n d) s = .next (put v (advance (g (.csrw n d)) s))) ∧
    (Ready (g (.csrs n d)) s → exec (.csrs n d) s = .next (put (get s ||| v) (advance (g (.csrs n d)) s))) ∧
    (Ready (g (.csrc n d)) s → exec (.csrc n d) s = .next (put (get s &&& ~~~v) (advance (g (.csrc n d)) s)))

/-- A register that is read and written. -/
def Sys2Proof.Claims.CsrRow (n : BitVec 12) {w : Nat} (get : Hart → BitVec w) (put : BitVec w → Hart → Hart) : Prop :=
  CsrReads n (fun s => get s.me) ∧ CsrWrites n (fun s => get s.me) fun v => modMe (put v)

/-- R171 to R173, R60, R84: the X-bank, HWAITLIM and the read-only registers that every mode may use: what `csrr` gives,
and what `csrw`, `csrs` and `csrc` leave; reserved bits keep 0. -/
def Sys2Proof.Claims.UserRegisters : Prop :=
  let xm (k : Nat) (n : BitVec 12) : Prop := CsrRow (w := 32) n (fun h => h.xm.getD k 0)
    fun v h => { h with xm := h.xm.set k v }
  CsrRow (w := 32) 0 (fun h => h.xw) (fun v h => { h with xw := v &&& 0xFFFFFF }) ∧
  CsrRow (w := 32) 1 (fun h => h.xi) (fun v h => { h with xi := v, xiv := true }) ∧
  CsrRow (w := 32) 2 (fun h => h.xe) (fun v h => { h with xe := v &&& 0x1F }) ∧
  CsrRow (w := 32) 3 (fun h => h.xt) (fun v h => { h with xt := v &&& 0x3FFFFF }) ∧
  xm 0 4 ∧ xm 1 5 ∧ xm 2 6 ∧ xm 3 7 ∧
  CsrRow (w := 32) 0x10 (fun h => h.hwaitlim) (fun v h => { h with hwaitlim := v }) ∧
  CsrReads (w := 32) 0x11 (fun s =>
    let c := s.me.name.toNat / 16 % 32
    if c < 16 then 0x13 else if c = 16 then 0x05 else 0x09) ∧
  CsrWrites (w := 32) 0x11 (fun _ => 0) (fun _ s => s) ∧
  CsrTimedReads (w := 64) 0x12 (fun s => BitVec.ofNat 64 s.cycle) ∧ CsrWrites (w := 64) 0x12 (fun _ => 0) (fun _ s => s) ∧
  CsrTimedReads (w := 64) 0x13 (fun s => BitVec.ofNat 64 s.time) ∧ CsrWrites (w := 64) 0x13 (fun _ => 0) (fun _ s => s)

/-- R281 to R283, R290: the kernel and firmware registers: trap banks, delegation and interrupts: what is read, and what
a write leaves, with read-only and reserved fields kept and the bits of HIP cleared by 1. -/
def Sys2Proof.Claims.KernelAndFirmwareRegisters : Prop :=
  let hip (h : Hart) (time : Nat) : BitVec 32 :=
    (h.hip &&& 0xD#4).setWidth 32 ||| if h.htcmp.toNat ≤ time then 2 else 0
  CsrRow (w := 32) 0x100 (fun h => statusBits h.hb h.mode) (fun v h => { h with hb := statusWritten h.hb false v }) ∧
  CsrRow (w := 32) 0x101 (fun h => h.hb.cause.setWidth 32) (fun v h => { h with hb := { h.hb with cause := v.setWidth 10 } }) ∧
  CsrRow (w := 64) 0x102 (fun h => h.hb.epc.setWidth 64)
    (fun v h => { h with hb := { h.hb with epc := v.setWidth 54 &&& ~~~1#54 } }) ∧
  CsrRow (w := 64) 0x103 (fun h => h.hb.tval) (fun v h => { h with hb := { h.hb with tval := v } }) ∧
  CsrRow (w := 64) 0x104 (fun h => (h.hb.base ++ 0#10 : BitVec 54).setWidth 64)
    (fun v h => { h with hb := { h.hb with base := v.extractLsb' 10 44 } }) ∧
  CsrRow (w := 64) 0x105 (fun h => h.hb.scratch) (fun v h => { h with hb := { h.hb with scratch := v } }) ∧
  CsrRow (w := 32) 0x106 (fun h => h.hie.setWidth 32) (fun v h => { h with hie := v.setWidth 4 }) ∧
  CsrTimedReads (w := 32) 0x107 (fun s => hip s.me s.time) ∧
  CsrWrites (w := 32) 0x107 (fun s => hip s.me s.time)
    (fun v => modMe fun h => { h with hip := h.hip &&& ~~~(v.setWidth 4 &&& 0xD#4) }) ∧
  CsrReads (w := 32) 0x108 (fun s => s.me.hipi) ∧
  CsrRow (w := 64) 0x109 (fun h => h.htcmp) (fun v h => { h with htcmp := v }) ∧
  CsrReads (w := 64) 0x10A (fun s => (getCell (s.me.name.toNat / 16) s).hamvec) ∧
  CsrWrites (w := 64) 0x10A (fun s => (getCell (s.me.name.toNat / 16) s).hamvec) (fun v s =>
    setCell (s.me.name.toNat / 16) { getCell (s.me.name.toNat / 16) s with hamvec := v } s) ∧
  CsrRow (w := 32) 0x200 (fun h => statusBits h.fb h.mode) (fun v h => { h with fb := statusWritten h.fb true v }) ∧
  CsrRow (w := 32) 0x201 (fun h => h.fb.cause.setWidth 32) (fun v h => { h with fb := { h.fb with cause := v.setWidth 10 } }) ∧
  CsrRow (w := 64) 0x202 (fun h => h.fb.epc.setWidth 64)
    (fun v h => { h with fb := { h.fb with epc := v.setWidth 54 &&& ~~~1#54 } }) ∧
  CsrRow (w := 64) 0x203 (fun h => h.fb.tval) (fun v h => { h with fb := { h.fb with tval := v } }) ∧
  CsrRow (w := 64) 0x204 (fun h => (h.fb.base ++ 0#10 : BitVec 54).setWidth 64)
    (fun v h => { h with fb := { h.fb with base := v.extractLsb' 10 44 } }) ∧
  CsrRow (w := 64) 0x205 (fun h => h.fb.scratch) (fun v h => { h with fb := { h.fb with scratch := v } }) ∧
  CsrRow (w := 32) 0x206 (fun h => h.fwdeleg.setWidth 32) (fun v h => { h with fwdeleg := v.setWidth 16 }) ∧
  CsrReads (w := 64) 0x207 (fun s => (getDie (s.me.name.toNat / 2 ^ 16) s).boot) ∧
  CsrWrites (w := 64) 0x207 (fun _ => 0) (fun _ s => s)

/-- R60, R84, R171 to R173, R281 to R283, R290: what reads of the special registers give and what writes leave.
(model's choices: log 5, 23) -/
def Obligations.SpecialRegisters : Prop := UserRegisters ∧ KernelAndFirmwareRegisters

/-- R291, R64, R65: a write of HIPI keeps KIND and NAME; KIND 0 and 2 send an interrupt to the named hart, which counts as
an unacknowledged send, after every access that it has issued; a name outside R7 raises MSG.NAME and a target out of reach
HART.TARGET, and nothing is sent. (model's choices: log 101) -/
def Obligations.InterruptSending : Prop :=
  ∀ (d : Byte) (s : State),
    let g := csrGate' (.csrw 0x108 d) 0x108 true (mayUse 0x108 s.me) [srcNeed .d .D d 0 s.me] []
    let v : BitVec 32 := ext .Z (readOp .d .D d 0 s.me) 32
    let kind := (v.extractLsb' 24 3).toNat
    let name := (v.extractLsb' 0 22).toNat
    let kept : Hart → Hart := fun h => { h with hipi := v &&& 0x073FFFFF }
    Ready g s →
    (kind ≠ 0 → kind ≠ 2 → exec (.csrw 0x108 d) s = .next (modMe kept (advance g s))) ∧
    (kind = 0 ∨ kind = 2 → nameExists name = false → exec (.csrw 0x108 d) s = .next (cause cMsgName name s)) ∧
    (kind = 0 ∨ kind = 2 → nameExists name = true → tileReach s.me (tileOf name) s = false →
      exec (.csrw 0x108 d) s = .next (cause (cHartTarget 3) name s)) ∧
    (kind = 0 ∨ kind = 2 → nameExists name = true → tileReach s.me (tileOf name) s = true →
      ∃ t, exec (.csrw 0x108 d) s = .next t ∧
        t = { modMe (fun h => { kept h with unacked := h.unacked + 1 }) (advance g s) with
          ipis := t.ipis, ids := t.ids, seals := t.seals } ∧
        ∃ m : Ipi, t.ipis = s.ipis ++ [m] ∧ m.src = s.me.name.toNat ∧ m.dst = name ∧ m.bit = kind ∧
          m.via = tileOf s.me.nm ∧ (∀ i ∈ s.me.hist ++ s.me.out, i ∈ m.hist) ∧
          Sealed (tileOf s.me.nm) (some (tileOf name)) (keyFor s.me s) m.stamp s t)

/-- R259, R280, R172: a hart in any mode may read and write its own HWAITLIM with `csrr`, `csrw`, `csrs` and `csrc`, which do
so; a register above the hart's mode raises PRIV.MODE, with the word as its value, for reads and writes alike. -/
def Obligations.RegisterPrivilege : Prop :=
  (∀ h : Hart, mayUse 0x10 h = true) ∧
  CsrRow (w := 32) 0x10 (fun h => h.hwaitlim) (fun v h => { h with hwaitlim := v }) ∧
  ∀ (n : BitVec 12) (d : Byte) (s : State), csrExists n = true → mayUse n s.me = false →
    ∀ i ∈ [Instr.csrr n d, .csrw n d, .csrs n d, .csrc n d],
      exec i s = .next (cause cPrivMode (wordOf (encode i)).toNat s)

/-! ### Traps and system instructions (R122, R144, R145, R279, R280, R284 to R288) -/

/-- A trap bank after an entry (R284). -/
def Sys2Proof.Claims.entered (b : TrapBank) (m : Mode) (code : BitVec 10) (epc : Addr) (tval : Word) (xiv wait : Bool) :
    TrapBank :=
  { b with pmode := m, pie := b.ie, ie := false, pxiv := xiv, pwait := wait, cause := code,
           epc := epc &&& ~~~1#54, tval := tval }

/-- The hart after a trap of a class (R283, R284): the firmware bank receives it in firmware mode or where FWDELEG does
not delegate the class, else the kernel bank. -/
def Sys2Proof.Claims.trapped (cls : Nat) (code : BitVec 10) (epc : Addr) (tval : Word) (wait : Bool) (h : Hart) : Hart :=
  let vector (base : BitVec 44) : Addr := (base ++ 0#10 : BitVec 54) + BitVec.ofNat 54 (64 * cls)
  let h' := { h with xiv := false, stat := .running, woken := false, stepped := false, walked := [], walkFaults := [] }
  if h.mode = .firmware ∨ h.fwdeleg.getLsbD cls = false then
    { h' with fb := entered h.fb h.mode code epc tval h.xiv wait, mode := .firmware, pc := vector h.fb.base }
  else { h' with hb := entered h.hb h.mode code epc tval h.xiv wait, mode := .kernel, pc := vector h.hb.base }

/-- R122, R284 to R286: a synchronous cause outside a transaction traps: the receiving bank takes class and detail, the pc
of the instruction, the value and the status, XIV is cleared, and the hart goes on in the bank's mode at the vector of the
class; nothing else changes. Inside a transaction of its own the hart aborts instead with FAULT: control goes to the abort
target at depth 0, and the status and the code stand in the transaction status word. -/
def Obligations.SynchronousTrapEntry : Prop :=
  ∀ (c : Cause) (v : Nat) (s : State), c.cls < 16 →
    (s.me.txn.depth = 0 → cause c v s = { s with
      me := trapped c.cls (BitVec.ofNat 10 (c.cls * 64 + c.kind * 8 + c.site)) s.me.pc (BitVec.ofNat 64 v) false s.me }) ∧
    (s.me.txn.depth ≠ 0 → s.me.task = none → present s.me = true →
      (cause c v s).me.pc = s.me.txn.abortPc ∧ (cause c v s).me.txn.depth = 0 ∧ (cause c v s).me.txn.status = stFault ∧
      (cause c v s).me.txn.detail = c.cls * 64 + c.kind * 8 + c.site ∧ (cause c v s).me.txn.buf = [] ∧
      (cause c v s).me.mode = s.me.mode ∧ (cause c v s).mem = s.mem)

/-- R288, R61: `ecall` and `ebreak` issue and trap, with their own address and PXIV 0; `ecall` reports its immediate,
extended by xi, and `ebreak` DBG.BREAK; inside a transaction both abort it with UNSAFE. -/
def Sys2Proof.Claims.SystemCallAndBreakpoint : Prop :=
  let g (i : Instr) : Gate := ⟨i, .Y, true, true, [], [], 0⟩
  (∀ (m : BitVec 8) (s : State), Ready (g (.ecall m)) s →
    let v : BitVec 32 := if s.me.xiv then s.me.xi.setWidth 24 ++ m else m.setWidth 32
    exec (.ecall m) s = .next (modMe (trapped 15 (15#4 ++ v.setWidth 6) s.me.pc (v.setWidth 64) false)
      (advance (g (.ecall m)) s))) ∧
  (∀ s : State, Ready (g .ebreak) s →
    exec .ebreak s = .next (modMe (trapped 14 (14#4 ++ 0#6) s.me.pc 0 false) (advance (g .ebreak) s))) ∧
  ∀ (m : BitVec 8) (s : State), s.me.txn.depth ≠ 0 →
    exec (.ecall m) s = .next (abortMe stUnsafe 0 s) ∧ exec .ebreak s = .next (abortMe stUnsafe 0 s)

/-- R288, R280: `tret` gives back mode, IE, XIV and pc from the bank of the mode it runs in; in user mode it raises
PRIV.MODE. -/
def Sys2Proof.Claims.TrapReturn : Prop :=
  let g (b : Bool) : Gate := ⟨.tret, .Y, true, b, [], [], 0⟩
  (∀ s : State, s.me.mode ≠ .user → Ready (g true) s →
    exec .tret s = .next (modMe (fun h =>
      if h.mode = .firmware then
        { h with mode := h.fb.pmode, fb := { h.fb with ie := h.fb.pie }, xiv := h.fb.pxiv, pc := h.fb.epc }
      else { h with mode := h.hb.pmode, hb := { h.hb with ie := h.hb.pie }, xiv := h.hb.pxiv, pc := h.hb.epc })
      (advance (g true) s))) ∧
  ∀ s : State, s.me.mode = .user → exec .tret s = .next (cause cPrivMode 0xF5 s)

/-- R279: an instruction word changes the mode of its hart only by taking a trap, or by `tret`. -/
def Obligations.ModeChangesOnlyByTrapOrReturn : Prop :=
  ∀ (i : Instr) (s t : State), i.isWord = true → i ≠ .tret → exec i s = .next t →
    t.me.mode = s.me.mode ∨
    ∃ (cls : Nat) (code : BitVec 10) (epc : Addr) (v : Word) (x w : Bool), cls < 16 ∧ code.toNat / 64 = cls ∧
      (t.me.mode = .firmware ∧ (s.me.mode = .firmware ∨ s.me.fwdeleg.getLsbD cls = false) ∧
          t.me.fb = entered s.me.fb s.me.mode code epc v x w ∧
          t.me.pc = (s.me.fb.base ++ 0#10 : BitVec 54) + BitVec.ofNat 54 (64 * cls) ∨
        t.me.mode = .kernel ∧ s.me.mode ≠ .firmware ∧ s.me.fwdeleg.getLsbD cls = true ∧
          t.me.hb = entered s.me.hb s.me.mode code epc v x w ∧
          t.me.pc = (s.me.hb.base ++ 0#10 : BitVec 54) + BitVec.ofNat 54 (64 * cls))

/-- R280, R288: `ecall`, `ebreak` and `tret`. -/
def Obligations.SystemInstructions : Prop := SystemCallAndBreakpoint ∧ TrapReturn

/-! ### Capabilities (R36 to R39, R201 to R203) -/

/-- The fields of a capability (R38). -/
structure Sys2Proof.Claims.CapFields where
  otype : BitVec 12
  space : BitVec 2
  tile : BitVec 13
  perm : BitVec 8
  rows : BitVec 16
  cols : BitVec 16
  depth : BitVec 5
  reserved : BitVec 2
  path : BitVec 54

/-- The fields of a capability's 128 bits. -/
def Sys2Proof.Claims.fieldsOf (c : Cap) : CapFields :=
  ⟨c.bits.extractLsb' 116 12, c.bits.extractLsb' 114 2, c.bits.extractLsb' 101 13, c.bits.extractLsb' 93 8,
   c.bits.extractLsb' 77 16, c.bits.extractLsb' 61 16, c.bits.extractLsb' 56 5, c.bits.extractLsb' 54 2,
   c.bits.extractLsb' 0 54⟩

/-- The tagged capability with given fields. -/
def Sys2Proof.Claims.capOf (f : CapFields) : Cap :=
  ⟨f.otype ++ f.space ++ f.tile ++ f.perm ++ f.rows ++ f.cols ++ f.depth ++ f.reserved ++ f.path, true⟩

/-- The row and column of an offset (R26, R27): its odd and its even bits. -/
def Sys2Proof.Claims.rowIn (off : Nat) : Nat := bitsOf 27 fun i => off.testBit (2 * i + 1)
def Sys2Proof.Claims.colIn (off : Nat) : Nat := bitsOf 27 fun i => off.testBit (2 * i)

/-- The rows and columns of a capability's block that it grants (R36): all of them down to depth 10. -/
def Sys2Proof.Claims.rowsOf (f : CapFields) : Nat := if f.depth.toNat ≤ 10 then 2 ^ (27 - f.depth.toNat) else f.rows.toNat + 1
def Sys2Proof.Claims.colsOf (f : CapFields) : Nat := if f.depth.toNat ≤ 10 then 2 ^ (27 - f.depth.toNat) else f.cols.toNat + 1

/-- An address that a capability grants: it lies in the block and inside the extents. -/
def Sys2Proof.Claims.grants (c : Cap) (a : Nat) : Prop :=
  let f := fieldsOf c
  f.path.toNat ≤ a ∧ a - f.path.toNat < 4 ^ (27 - f.depth.toNat) ∧
    rowIn (a - f.path.toNat) < rowsOf f ∧ colIn (a - f.path.toNat) < colsOf f

/-- The source of a capability instruction is tagged and unsealed (R201). -/
def Sys2Proof.Claims.usable (c : Cap) : Prop := c.tag = true ∧ (fieldsOf c).otype = 0

/-- CB may seal (R203): tagged, unsealed, with SEAL. -/
def Sys2Proof.Claims.maySeal (c : Cap) : Prop := usable c ∧ (fieldsOf c).perm.getLsbD 7 = true

/-- A ready capability instruction writes CD, which becomes full and sound. -/
def Sys2Proof.Claims.WritesCap (i : Instr) (needs : List Need) (d : BitVec 4) (v : Cap) (s : State) : Prop :=
  exec i s = .next (modMe (fun h => { h with
    c := h.c.set d.toNat v
    cfull := h.cfull ||| BitVec.twoPow 16 d.toNat
    cbad := h.cbad &&& ~~~BitVec.twoPow 16 d.toNat }) (advance (plainGate i needs [.cap d.toNat]) s))

/-- R202: `cder` derives a capability for a sub-block of CA's: its depth and path come from the block word, its extents
are what is left of CA's; a block outside CA's, or outside its extents, traps with CAP.BOUNDS, an untagged CA with CAP.TAG
and a sealed one with CAP.SEALED. -/
def Sys2Proof.Claims.CapabilityDerivation : Prop :=
  ∀ (x : Byte) (a d : BitVec 4) (s : State),
    let i := Instr.cder x a d
    let needs := [.cap a.toNat, srcNeed .d .B x 0 s.me]
    let ca := s.me.c.getD a.toNat Cap.null
    let f := fieldsOf ca
    let w := (readOp .d .B x 0 s.me).1
    let k := f.depth.toNat
    let j := min (w / 2 ^ 56 % 32) 27
    let p := aligned (w % 2 ^ 54) (54 - 2 * j)
    let inBlock := k ≤ j ∧ p / 2 ^ (54 - 2 * k) = f.path.toNat / 2 ^ (54 - 2 * k)
    let r0 := rowIn (p - f.path.toNat)
    let c0 := colIn (p - f.path.toNat)
    let rows := min (rowsOf f - r0) (2 ^ (27 - j))
    let cols := min (colsOf f - c0) (2 ^ (27 - j))
    Ready (plainGate i needs [.cap d.toNat]) s →
    (ca.tag = false → exec i s = .next (cause cCapTag 0 s)) ∧
    (ca.tag = true → f.otype ≠ 0 → exec i s = .next (cause cCapSealed 0 s)) ∧
    (usable ca → ¬(inBlock ∧ r0 < rowsOf f ∧ c0 < colsOf f) → exec i s = .next (cause cCapBounds w s)) ∧
    (usable ca → inBlock ∧ r0 < rowsOf f ∧ c0 < colsOf f → WritesCap i needs d (capOf { f with
      depth := BitVec.ofNat 5 j
      path := BitVec.ofNat 54 p
      rows := if 11 ≤ j then BitVec.ofNat 16 (rows - 1) else 0xFFFF
      cols := if 11 ≤ j then BitVec.ofNat 16 (cols - 1) else 0xFFFF }) s)

/-- R203: `cbnd` narrows the extents, `cperm` masks the permissions, and `cmov` copies a capability with its tag. -/
def Sys2Proof.Claims.CapabilityNarrowing : Prop :=
  ∀ (x : Byte) (a d : BitVec 4) (s : State),
    let needs := [.cap a.toNat, srcNeed .d .B x 0 s.me]
    let ca := s.me.c.getD a.toNat Cap.null
    let f := fieldsOf ca
    let w : BitVec 64 := ext .Z (readOp .d .B x 0 s.me) 64
    let rows := w.extractLsb' 16 16
    let cols := w.extractLsb' 0 16
    let fits := if f.depth.toNat ≤ 10 then rows = 0xFFFF ∧ cols = 0xFFFF else rows ≤ f.rows ∧ cols ≤ f.cols
    (Ready (plainGate (.cbnd x a d) needs [.cap d.toNat]) s →
      (ca.tag = false → exec (.cbnd x a d) s = .next (cause cCapTag 0 s)) ∧
      (ca.tag = true → f.otype ≠ 0 → exec (.cbnd x a d) s = .next (cause cCapSealed 0 s)) ∧
      (usable ca → ¬fits → exec (.cbnd x a d) s = .next (cause cCapBounds (readOp .d .B x 0 s.me).1 s)) ∧
      (usable ca → fits → f.depth.toNat ≤ 10 → WritesCap (.cbnd x a d) needs d ca s) ∧
      (usable ca → fits → 10 < f.depth.toNat →
        WritesCap (.cbnd x a d) needs d (capOf { f with rows := rows, cols := cols }) s)) ∧
    (Ready (plainGate (.cperm x a d) needs [.cap d.toNat]) s →
      (ca.tag = false → exec (.cperm x a d) s = .next (cause cCapTag 0 s)) ∧
      (ca.tag = true → f.otype ≠ 0 → exec (.cperm x a d) s = .next (cause cCapSealed 0 s)) ∧
      (usable ca → WritesCap (.cperm x a d) needs d (capOf { f with perm := f.perm &&& w.setWidth 8 }) s)) ∧
    (Ready (plainGate (.cmov a d) [.cap a.toNat] [.cap d.toNat]) s → WritesCap (.cmov a d) [.cap a.toNat] d ca s)

/-- R203: `cseal` and `cunseal` set and clear the type of a capability under the authority of CB, whose block and extents
hold the type; their checks come in the order of the rule. -/
def Sys2Proof.Claims.CapabilitySealing : Prop :=
  ∀ (x : Byte) (b a d : BitVec 4) (s : State),
    let needs := [.cap a.toNat, .cap b.toNat, srcNeed .d .B x 0 s.me]
    let i := Instr.cseal x b a d
    let j := Instr.cunseal b a d
    let ca := s.me.c.getD a.toNat Cap.null
    let cb := s.me.c.getD b.toNat Cap.null
    let f := fieldsOf ca
    let t := (readOp .d .B x 0 s.me).1
    (Ready (plainGate i needs [.cap d.toNat]) s →
      (ca.tag = false → exec i s = .next (cause cCapTag 0 s)) ∧
      (ca.tag = true → f.otype ≠ 0 → exec i s = .next (cause cCapSealed 0 s)) ∧
      (usable ca → ¬maySeal cb → exec i s = .next (cause cCapPerm 0 s)) ∧
      (usable ca → maySeal cb → ¬(1 ≤ t ∧ t ≤ 4095 ∧ grants cb t) → exec i s = .next (cause cCapType t s)) ∧
      (usable ca → maySeal cb → 1 ≤ t → t ≤ 4095 → grants cb t →
        WritesCap i needs d (capOf { f with otype := BitVec.ofNat 12 t }) s)) ∧
    (Ready (plainGate j [.cap a.toNat, .cap b.toNat] [.cap d.toNat]) s →
      (ca.tag = false → exec j s = .next (cause cCapTag 0 s)) ∧
      (ca.tag = true → ¬maySeal cb → exec j s = .next (cause cCapPerm 0 s)) ∧
      (ca.tag = true → maySeal cb → ¬(f.otype ≠ 0 ∧ grants cb f.otype.toNat) →
        exec j s = .next (cause cCapType f.otype.toNat s)) ∧
      (ca.tag = true → maySeal cb → f.otype ≠ 0 → grants cb f.otype.toNat →
        WritesCap j [.cap a.toNat, .cap b.toNat] d (capOf { f with otype := 0 }) s))

/-- R203: `cget` writes the field that its selector names to a scalar operand, of any capability. -/
def Sys2Proof.Claims.CapabilityFields : Prop :=
  ∀ (x : Byte) (l a : BitVec 4) (s : State),
    let g := plainGate (.cget x l a) [.cap a.toNat] [dstTgt .d .B x s.me]
    let c := s.me.c.getD a.toNat Cap.null
    let f := fieldsOf c
    let v : Nat := match l.toNat with
      | 0 => c.tag.toNat
      | 1 => f.otype.toNat
      | 2 => f.space.toNat
      | 3 => f.tile.toNat
      | 4 => f.perm.toNat
      | 5 => f.rows.toNat
      | 6 => f.cols.toNat
      | 7 => f.depth.toNat
      | 8 => f.path.toNat
      | 9 => c.bits.toNat % 2 ^ 64
      | _ => c.bits.toNat / 2 ^ 64
    Ready g s → exec (.cget x l a) s = .next (writeOp .d .B x v (advance g s))

/-- R203: no capability instruction enlarges an extent or a permission: whatever `cder`, `cbnd`, `cperm` and `cmov`
leave in CD grants no address and no permission that CA does not, and only a tagged CA gives a tagged result. -/
def Obligations.CapabilitiesOnlyNarrow : Prop :=
  ∀ (x : Byte) (a d : BitVec 4) (s t : State),
    let ca := s.me.c.getD a.toNat Cap.null
    let cd := t.me.c.getD d.toNat Cap.null
    (fieldsOf ca).path.toNat % 4 ^ (27 - (fieldsOf ca).depth.toNat) = 0 → s.me.c.length = 16 →
    ∀ i ∈ [Instr.cder x a d, .cbnd x a d, .cperm x a d, .cmov a d], exec i s = .next t →
      t.me.c = s.me.c ∨
      ((cd.tag = true → ca.tag = true) ∧
        (∀ k < 8, (fieldsOf cd).perm.getLsbD k = true → (fieldsOf ca).perm.getLsbD k = true) ∧
        (∀ v, grants cd v → grants ca v) ∧
        (fieldsOf cd).otype = (fieldsOf ca).otype ∧ (fieldsOf cd).space = (fieldsOf ca).space ∧
        (fieldsOf cd).tile = (fieldsOf ca).tile)

/-- What no outcome of an instruction changes, be it an issue, a trap, a wait, an abort or a migration: memory, the slice
file, the vector registers, the X-bank but for XIV, and the registers of R281 but for the trap banks. -/
def Sys2Proof.Claims.KeepsRegisters (s t : State) : Prop :=
  t.mem = s.mem ∧ t.me.name = s.me.name ∧ t.me.slices = s.me.slices ∧ t.me.gfull = s.me.gfull ∧
  t.me.gbad = s.me.gbad ∧ t.me.v = s.me.v ∧ t.me.vfull = s.me.vfull ∧ t.me.vbad = s.me.vbad ∧
  t.me.xw = s.me.xw ∧ t.me.xi = s.me.xi ∧ t.me.xe = s.me.xe ∧ t.me.xt = s.me.xt ∧ t.me.xm = s.me.xm ∧
  t.me.rx = s.me.rx ∧ t.me.hwaitlim = s.me.hwaitlim ∧ t.me.fwdeleg = s.me.fwdeleg ∧ t.me.hie = s.me.hie ∧
  t.me.hip = s.me.hip ∧ t.me.hipi = s.me.hipi ∧ t.me.htcmp = s.me.htcmp

/-- R201: the frame of the capability instructions, for every outcome: they change no register outside the trap banks but
CD, `cget` no capability register at all, and none changes memory. -/
def Obligations.CapabilityFrame : Prop :=
  ∀ (x : Byte) (l b a d : BitVec 4) (s t : State),
    (∀ i ∈ [Instr.cder x a d, .cbnd x a d, .cperm x a d, .cseal x b a d, .cunseal b a d, .cmov a d],
      exec i s = .next t → KeepsRegisters s t ∧
      ∀ k < 16, k ≠ d.toNat → t.me.c[k]? = s.me.c[k]? ∧ t.me.cfull.getLsbD k = s.me.cfull.getLsbD k ∧
        t.me.cbad.getLsbD k = s.me.cbad.getLsbD k) ∧
    (exec (.cget x l a) s = .next t →
      t.mem = s.mem ∧ t.me.c = s.me.c ∧ t.me.cfull = s.me.cfull ∧ t.me.cbad = s.me.cbad ∧
      (Ready (plainGate (.cget x l a) [.cap a.toNat] [dstTgt .d .B x s.me]) s →
        OnlyOperand [.cap a.toNat] .d .B x s t))

/-- R201 to R203: `cder`, `cbnd`, `cperm` and `cmov`. -/
def Obligations.CapabilityDerivationAndNarrowing : Prop := CapabilityDerivation ∧ CapabilityNarrowing

/-- R39, R201, R203: `cseal`, `cunseal` and `cget`. -/
def Obligations.CapabilitySealingAndFields : Prop := CapabilitySealing ∧ CapabilityFields

/-! ### Memory instructions (R40, R46, R59, R143, R174 to R183) -/

/-- An access passes: its instruction is ready, the checks of R40 locate it, it needs no migration (R46), and no storage
that it reads has failed (R287, R337). -/
def Sys2Proof.Claims.Passes (g : Gate) (c : Cap) (off perm : Nat) (write stays : Bool) (bits : Nat) (k : Kind) (a : Acc)
    (s : State) : Prop :=
  Ready g s ∧ locate s.me c off perm write k s = .ok a ∧ migrates s.me a stays = none ∧
    (bits ≠ 0 → readFault s.me (accWords a bits) s = none)

/-- What sending requests leaves as it is: memory, the other harts, and every register value of this one. -/
def Sys2Proof.Claims.KeepsValues (s t : State) : Prop :=
  t.mem = s.mem ∧ t.accs = s.accs ∧ t.harts = s.harts ∧ t.logs = s.logs ∧ t.pendw = s.pendw ∧
  t.me = { s.me with
    pc := t.me.pc, xiv := t.me.xiv, rxFull := t.me.rxFull, streams := t.me.streams, stepped := t.me.stepped,
    gfull := t.me.gfull, vfull := t.me.vfull, cfull := t.me.cfull, stat := t.me.stat, unacked := t.me.unacked,
    walked := t.me.walked, walkFaults := t.me.walkFaults, out := t.me.out, hist := t.me.hist, work := t.me.work }

/-- An instruction sends the requests of a list, each under the hart's name, mode, key and transaction. With a reply to
come, its destination becomes empty, and the hart is held until it lands if the form says so. What leaves the tile is sealed
(R334). `moves` says that the pc
goes on at once, `counted` that each request is unacknowledged until it is applied. -/
def Sys2Proof.Claims.Sends (i : Instr) (ops : List HomeOp) (reply : Option (Dest × Shape × Nat))
    (moves holds counted : Bool) (s : State) : Prop :=
  ∃ (t : State) (new : List Req), exec i s = .next t ∧ KeepsValues s t ∧
    t.reqs = s.reqs ++ new ∧ new.map Req.op = ops ∧
    (∀ r ∈ new, r.src = s.me.name.toNat ∧ r.fw = (s.me.mode == .firmware) ∧ r.key = keyFor s.me s ∧ r.counted = counted ∧
      (r.stamp = none ↔ lineTile r.line = some (s.me.name.toNat / 2 ^ 9)) ∧
      r.txn = if s.me.txn.depth = 0 then none else some (s.me.txn.id, s.me.txn.gen)) ∧
    t.me.unacked = s.me.unacked + (if counted then new.length else 0) ∧
    t.me.pc = (if moves then s.me.pc + BitVec.ofNat 54 (encode i).length else s.me.pc) ∧
    (moves = true → t.me.xiv = false) ∧
    match reply with
    | none => t.pends = s.pends ∧ t.me.gfull = s.me.gfull ∧ t.me.vfull = s.me.vfull ∧ t.me.cfull = s.me.cfull ∧
        t.me.stat = s.me.stat ∧ ∀ r ∈ new, r.pend = none
    | some (d, sh, n) => ∃ p : Pend, t.pends = s.pends ++ [p] ∧ p.dest = d ∧ p.shape = sh ∧
        p.parts = List.replicate n none ∧ p.route = s.me.name.toNat ∧ (∀ r ∈ new, r.pend = some p.id) ∧
        t.me.stat = (if holds then .held p.id else s.me.stat) ∧
        p.next = (if moves then none else some (s.me.pc + BitVec.ofNat 54 (encode i).length)) ∧
        (match d with
          | .slices a m => t.me.gfull = s.me.gfull &&& ~~~granules a m ∧ t.me.vfull = s.me.vfull ∧ t.me.cfull = s.me.cfull
          | .cap k => t.me.cfull = s.me.cfull &&& ~~~BitVec.twoPow 16 k ∧ t.me.gfull = s.me.gfull ∧ t.me.vfull = s.me.vfull
          | .vec k => t.me.vfull = s.me.vfull &&& ~~~BitVec.twoPow 16 k ∧ t.me.gfull = s.me.gfull ∧ t.me.cfull = s.me.cfull
          | _ => t.me.gfull = s.me.gfull ∧ t.me.vfull = s.me.vfull ∧ t.me.cfull = s.me.cfull)

/-- The first bit of a located run (R29). -/
def Sys2Proof.Claims.bitOf (a : Acc) : Nat := 8 * frameOf a.place + a.u * containerBits a.fmt

/-- The requests that read a run within a word (R30, R32, R309): one word, or the top k planes of its group, or the host. -/
def Sys2Proof.Claims.loadOps (a : Acc) : List HomeOp :=
  match hostOf a.place, planesOf a.fmt with
  | some m, _ => [.hostRead m.pasid (hostByte m a.u)]
  | none, some k => (List.range k).map fun i => .read (planeWord a.place a.u (7 - i))
  | none, none => [.read (bitOf a / 64)]

/-- The change of one word that puts a value of so many bits at a bit address. -/
def Sys2Proof.Claims.putBits (b bits v : Nat) : MOp :=
  .word (b / 64) (BitVec.ofNat 64 (v % 2 ^ bits * 2 ^ (b % 64))) (BitVec.ofNat 64 ((2 ^ bits - 1) * 2 ^ (b % 64)))

/-- The requests that write a run within a word: 6-bit containers keep their top two bits 0 (R29). -/
def Sys2Proof.Claims.storeOps (a : Acc) (bits v : Nat) : List HomeOp :=
  match hostOf a.place, planesOf a.fmt with
  | some m, _ => [.hostWrite m.pasid (hostByte m a.u) (BitVec.ofNat 512 (v % 2 ^ bits)) (BitVec.ofNat 512 (2 ^ bits - 1))]
  | none, some k => (planeWrites a.place a.u a.n k v).map fun o => .write [o]
  | none, none => [.write [putBits (bitOf a) bits (storeVal a.fmt v (bits / 8))]]

/-- An operand byte or a granule (R137) in a memory form. -/
def Sys2Proof.Claims.landsIn (o : Opd) (h : Hart) : Dest :=
  match o with
  | .byte sc x => destOf sc .A x h
  | .gran g => .slices (8 * g.toNat) 8

/-- R176, R143, R59: a load that passes sends the reads of its run, marks its destination empty and goes on; the reply
will land in the destination. -/
def Sys2Proof.Claims.LoadsSendTheirReads : Prop :=
  let load (i : Instr) (o d : Opd) (c : Nat) : Prop := ∀ (s : State) (a : Acc),
    let bits := opdBits d
    let g := tagged (plainGate i (memNeeds o 0 c s.me) [opdTgt .A d s.me]) (readParts a)
    Passes g (s.me.c.getD c Cap.null) (readOpd .B o 0 s.me).1 pR false false bits (.run bits) a s →
    Sends i (loadOps a) (some (landsIn d s.me, readShape a bits, (loadOps a).length)) true false false s
  (∀ (o x : Byte) (c : BitVec 4), load (.ldN o x c) (.byte .n o) (.byte .n x) c.toNat ∧
    load (.ldD o x c) (.byte .d o) (.byte .d x) c.toNat) ∧
  ∀ (k : BitVec 1) (h g : BitVec 5), load (.ldC k h g) (.gran h) (.gran g) (1 + k.toNat)

/-- R177, R178, R143, R46, R48: a store that passes sends the writes of its run, of the width of its data operand, which
for a stream register is that of its element, unacknowledged until they are applied, and goes on; `stc` outside a
transaction is held until they have been. -/
def Sys2Proof.Claims.StoresSendTheirWrites : Prop :=
  let store (i : Instr) (hold : Bool) (o x : Opd) (c : Nat) : Prop := ∀ (s : State) (a : Acc),
    let bits := (readOpd .A x 0 s.me).2
    let g := plainGate i (opdNeed .A x 0 s.me :: memNeeds o (sameStrm x o) c s.me) []
    let ops := storeOps a bits (readOpd .A x 0 s.me).1
    Passes g (s.me.c.getD c Cap.null) (readOpd .B o (sameStrm x o) s.me).1 pW true true 0 (.run bits) a s →
    Sends i ops (if hold = true ∧ s.me.txn.depth = 0 then some (.none, .scalar 0 0 false, ops.length) else none)
      true true true s
  (∀ (o x : Byte) (c : BitVec 4),
    store (.stN o x c) false (.byte .n o) (.byte .n x) c.toNat ∧ store (.stD o x c) false (.byte .d o) (.byte .d x) c.toNat ∧
    store (.stcN o x c) true (.byte .n o) (.byte .n x) c.toNat ∧
    store (.stcD o x c) true (.byte .d o) (.byte .d x) c.toNat) ∧
  ∀ (k : BitVec 1) (h g : BitVec 5), store (.stC k h g) false (.gran h) (.gran g) (1 + k.toNat)

/-- R179, R180: a full/empty form that passes sends one request to its word and is held; its pc and its special sources
stand until the request has been performed. (model's choices: log 7, 49) -/
def Obligations.FullEmptyFormsAreHeld : Prop :=
  let ld (i : Instr) (take : Bool) (sc : Scale) (o x : Byte) (c : Nat) : Prop := ∀ (s : State) (a : Acc),
    let bits := opBits sc x
    let g := tagged (plainGate i (memNeeds (.byte sc o) 0 c s.me) [dstTgt sc .A x s.me]) 1
    Passes g (s.me.c.getD c Cap.null) (readOp sc .B o 0 s.me).1 (pR + pSync) false false bits (.single bits) a s →
    Sends i [.loadFull (bitOf a / 64) take] (some (destOf sc .A x s.me, readShape a bits, 1)) false true false s
  let st (i : Instr) (toEmpty : Bool) (sc : Scale) (o x : Byte) (c : Nat) : Prop := ∀ (s : State) (a : Acc),
    let bits := (readOp sc .A x 0 s.me).2
    let g := plainGate i (srcNeed sc .A x 0 s.me :: memNeeds (.byte sc o) (sameStream x o) c s.me) []
    let v := storeVal a.fmt (readOp sc .A x 0 s.me).1 (bits / 8)
    Passes g (s.me.c.getD c Cap.null) (readOp sc .B o (sameStream x o) s.me).1 (pW + pSync) true false bits (.single bits)
      a s →
    Sends i [.storeFull (bitOf a / 64) (BitVec.ofNat 64 (v % 2 ^ bits * 2 ^ (bitOf a % 64)))
      (BitVec.ofNat 64 ((2 ^ bits - 1) * 2 ^ (bitOf a % 64))) toEmpty] (some (.none, .scalar 0 0 false, 1)) false true false s
  ∀ (o x : Byte) (c : BitVec 4),
    ld (.ldfeN o x c) true .n o x c.toNat ∧ ld (.ldfeD o x c) true .d o x c.toNat ∧
    ld (.ldffN o x c) false .n o x c.toNat ∧ ld (.ldffD o x c) false .d o x c.toNat ∧
    st (.stefN o x c) true .n o x c.toNat ∧ st (.stefD o x c) true .d o x c.toNat ∧
    st (.stffN o x c) false .n o x c.toNat ∧ st (.stffD o x c) false .d o x c.toNat

/-- R181, R183: `spill` sends the slices of its run as bytes, piece by piece of the mappings that hold it, and `fill` reads
bytes into slices; `ldcap` reads a pair
of words with their tags where the capability has LCAP, and `stcap` writes one, with its tag only under SCAP. (model's
choices: log 49, 75, 76) -/
def Obligations.SpillFillAndCapabilityAccesses : Prop :=
  (∀ (l f : Byte) (c : BitVec 4) (s : State) (a : Acc),
    let n := l.toNat + 1
    let bytes := (n + 1) / 2
    let cap := s.me.c.getD c.toNat Cap.null
    (Passes (plainGate (.spill l f c) [.cap c.toNat, .slices 1 0 f.toNat n] []) cap 0 pW true true 0 (.bytes bytes) a s →
      Sends (.spill l f c)
        ((pieceWrites (8 * bytes) (readSlices s.me.slices f.toNat n) (farPan s.me a.place).isSome
          (piecesOf s.me cap a true s a.n)).map ReqSpec.op)
        none true false true s) ∧
    (Passes (tagged (plainGate (.fill l f c) [.cap c.toNat] [.slices f.toNat n]) 1) cap 0 pR false false 0
        (.bytes bytes) a s →
      let at_ := piecesOf s.me cap a false s a.n
      readFault s.me (pieceWords (8 * bytes) at_) s = none →
      Sends (.fill l f c) ((pieceReads (8 * bytes) 0 0 at_).map ReqSpec.op)
        (some (.slices f.toNat n, .bytes (pieceShape (8 * bytes) at_) n, (pieceReads (8 * bytes) 0 0 at_).length))
        true false false s)) ∧
  ∀ (o : Byte) (k c : BitVec 4) (s : State) (a : Acc),
    let cap := s.me.c.getD c.toNat Cap.null
    let v := s.me.c.getD k.toNat Cap.null
    (Passes (tagged (plainGate (.ldcap o k c) [.cap c.toNat, srcNeed .d .B o 0 s.me] [.cap k.toNat]) 1) cap
        (readOp .d .B o 0 s.me).1 pR false false 128 (.pair false) a s →
      Sends (.ldcap o k c)
        (match hostOf a.place with
          | none => [.readPair (bitOf a / 64) ((fieldsOf cap).perm.getLsbD 5)]
          | some m => [.hostRead m.pasid (hostByte m a.u)])
        (some (.cap k.toNat, if hostOf a.place = none then .pair else .scalar 0 128 false, 1)) true false false s) ∧
    (Passes (plainGate (.stcap o k c) [.cap k.toNat, .cap c.toNat, srcNeed .d .B o 0 s.me] []) cap
        (readOp .d .B o 0 s.me).1 (if v.tag then pW + pScap else pW) true true 0 (.pair v.tag) a s →
      Sends (.stcap o k c)
        (match hostOf a.place with
          | none => [.write [.pair (bitOf a / 64) v.bits v.tag]]
          | some m => [.hostWrite m.pasid (hostByte m a.u) (BitVec.ofNat 512 v.bits.toNat)
              (BitVec.ofNat 512 (2 ^ 128 - 1))])
        none true false true s)

/-- R182, R69: `cmst` joins its cell's queue of stores to the commons, and the event applies the oldest of a cell in
service (log 90); `cmld` first applies the queue in order as far as the last of the hart's own stores, and reads the
commons then; a failed slice raises ERR.REG. -/
def Obligations.CellCommons : Prop :=
  let cell (s : State) : Nat := s.me.name.toNat / 16
  (∀ (sc : Scale) (o x : Byte) (s : State), ∀ i ∈ [Instr.cmstN o x, .cmstD o x], (sc = .n ↔ i = .cmstN o x) →
    let g := plainGate i [srcNeed sc .A x 0 s.me, srcNeed sc .B o (sameStream x o) s.me] []
    Ready g s → exec i s = .next (setCell (cell s) { getCell (cell s) s with
      stq := (getCell (cell s) s).stq ++ [⟨(readOp sc .B o (sameStream x o) s.me).1 % 256,
        (readOp sc .A x 0 s.me).2 / 4, BitVec.ofNat 64 (readOp sc .A x 0 s.me).1, s.me.name.toNat⟩] } (advance g s))) ∧
  (∀ (c : BitVec 18) (s : State) (x : CommonsStore) (l : List CommonsStore), (getCell c.toNat s).stq = x :: l →
    c.toNat / 32 ∉ s.fenced →
    ∃ t, exec (.commonsApply c) s = .next t ∧ t = applyCommons c.toNat s ∧ t.mem = s.mem ∧ t.me.slices = s.me.slices ∧
      (getCell c.toNat t).stq = l ∧
      (x.n ≤ 64 → ∀ i < 4 * x.n, (getCell c.toNat t).commons.getLsbD ((4 * (x.off % 256) + i) % 1024) = x.val.getLsbD i) ∧
      ∀ j < 1024, (∀ i < 4 * x.n, (4 * (x.off % 256) + i) % 1024 ≠ j) →
        (getCell c.toNat t).commons.getLsbD j = (getCell c.toNat s).commons.getLsbD j) ∧
  ∀ (sc : Scale) (o d : Byte) (s : State) (mine rest : List CommonsStore), ∀ i ∈ [Instr.cmldN o d, .cmldD o d],
    (sc = .n ↔ i = .cmldN o d) →
    (getCell (cell s) s).stq = mine ++ rest → (∀ x ∈ rest, x.src ≠ s.me.name.toNat) →
    (∀ x, mine.getLast? = some x → x.src = s.me.name.toNat) →
    let g := plainGate i [srcNeed sc .B o 0 s.me] [dstTgt sc .A d s.me]
    let off := (readOp sc .B o 0 s.me).1 % 256
    let u := mine.foldl (fun s _ => applyCommons (cell s) s) s
    Ready g s →
    (commonsBad (getCell (cell s) u) off (sliceCount sc d) = false →
      exec i s = .next (writeOp sc .A d (readSlices (getCell (cell s) u).commons off (sliceCount sc d)) (advance g u))) ∧
    (commonsBad (getCell (cell s) u) off (sliceCount sc d) = true →
      exec i s = .next (cause (cErrReg 2) (wordOf (encode i)).toNat u))

/-- R184 to R188: an atomic that passes sends one request with its operation and operands; a returning one marks A
empty for the old value, a posted one is unacknowledged until it is applied; both go on at once; a stream element of a width
that a posted one does not admit raises ILLEGAL. (model's choices: log 49, 92) -/
def Obligations.AtomicsSendTheirRequest : Prop :=
  let word (a : Acc) : Nat := bitOf a / 64
  let op (k : AmoOp) (bits x e : Nat) (a : Acc) : HomeOp :=
    .amo k (word a) (bitOf a % 64) bits (BitVec.ofNat 64 x) (BitVec.ofNat 64 e)
  let addend (f16 : Bool) (bits v : Nat) : FAdd := faddOf (floatVal (if bits = 32 then fp32 else if f16 then fp16 else bf16) v)
  let fmt (f16 : Bool) (bits : Nat) : Nat := if bits = 32 then 0 else if f16 then 2 else 1
  let ret (i : Instr) (k : Nat → Kind) (srcs : State → List Need) (f : State → Acc → HomeOp) (o x : Byte) (c : Nat) : Prop :=
    ∀ (s : State) (a : Acc), let bits := opBits .d x
      Passes (tagged (plainGate i (srcs s ++ memNeeds (.byte .d o) 0 c s.me) [dstTgt .d .A x s.me]) 1)
        (s.me.c.getD c Cap.null) (readOp .d .B o 0 s.me).1 (pR + pW + pAtom) true false bits (k bits) a s →
      Sends i [f s a] (some (destOf .d .A x s.me, .scalar 0 bits false, 1)) true false false s
  let post (i : Instr) (fits : Nat → Prop) (k : Nat → Kind) (width : Nat → Nat) (f : Nat → State → Acc → HomeOp)
      (o x : Byte) (c : Nat) : Prop :=
    ∀ (s : State) (a : Acc), let bits := (readOp .d .A x 0 s.me).2
      (fits bits →
        Passes (plainGate i (srcNeed .d .A x 0 s.me :: memNeeds (.byte .d o) (sameStream x o) c s.me) [])
          (s.me.c.getD c Cap.null) (readOp .d .B o (sameStream x o) s.me).1 (pR + pW + pAtom) true false
          (match a.place with
            | .pan _ => width bits
            | .map _ => 0) (k bits) a s →
        Sends i [f bits s a] none true false true s) ∧
      (¬fits bits → Ready (plainGate i [srcNeed .d .A x 0 s.me] []) s →
        exec i s = .next (cause (cIllegal 2 0) (wordOf (encode i)).toNat s))
  ∀ (o x : Byte) (c : BitVec 4),
    let v (s : State) : Nat := (readOp .d .A x 0 s.me).1
    let bits := opBits .d x
    let n := opSlices .d x
    let one (s : State) : List Need := [srcNeed .d .A x 0 s.me]
    let int (i : Instr) (k : AmoOp) : Prop := ret i .atomic one (fun s => op k bits (v s) 0) o x c.toNat
    let intPost (i : Instr) (k : AmoOp) : Prop :=
      post i (fun b => b = 32 ∨ b = 64) .atomic id (fun b s => op k b (v s) 0) o x c.toNat
    int (.amoAdd o x c) .add ∧ int (.amoAnd o x c) .and ∧ int (.amoOr o x c) .or ∧ int (.amoXor o x c) .xor ∧
    int (.amoMin o x c) .min ∧ int (.amoMax o x c) .max ∧ int (.amoSwap o x c) .swap ∧
    intPost (.amoAddPost o x c) .add ∧ intPost (.amoAndPost o x c) .and ∧ intPost (.amoOrPost o x c) .or ∧
    intPost (.amoXorPost o x c) .xor ∧ intPost (.amoMinPost o x c) .min ∧ intPost (.amoMaxPost o x c) .max ∧
    intPost (.amoSwapPost o x c) .swap ∧
    ret (.amaxRst o x c) .atomic (fun _ => []) (fun _ => op .maxrst bits 0 0) o x c.toNat ∧
    ret (.amoCas o x c) .atomic
      (fun s => let f := opFirst .A x s.me; [.slices 1 0 f n, .slices 1 0 (f + n) n])
      (fun s => op .cas bits (readSlices s.me.slices (opFirst .A x s.me) n)
        (readSlices s.me.slices (opFirst .A x s.me + n) n)) o x c.toNat ∧
    ∀ f16, let i := if f16 then Instr.amoFaddF16 o x c else .amoFadd o x c
      let j := if f16 then Instr.amoFaddF16Post o x c else .amoFaddPost o x c
      ret i (fun _ => .fadd) one (fun s a => .fadd (bitOf a / 32) (addend f16 bits (v s)) (fmt f16 bits)) o x c.toNat ∧
      post j (fun b => b = 16 ∨ b = 32 ∧ f16 = false) (fun _ => .fadd) (fun _ => 32)
        (fun b s a => .fadd (bitOf a / 32) (addend f16 b (v s)) (fmt f16 b)) o x c.toNat

/-- R189, R190: `lapp` sends its update to the log of its target, where the log has room or a transaction holds the entry,
and else waits; a width that the page does not log raises ILLEGAL; `lmerge` sends one request for its block and is held
until the merge. (model's choices: log 43, 44) -/
def Obligations.LogInstructions : Prop :=
  (∀ (o x : Byte) (c : BitVec 4) (s : State) (a : Acc), let bits := (readOp .d .A x 0 s.me).2
    let i := Instr.lapp o x c
    let g := plainGate i (srcNeed .d .A x 0 s.me :: memNeeds (.byte .d o) (sameStream x o) c.toNat s.me) []
    Passes g (s.me.c.getD c.toNat Cap.null) (readOp .d .B o (sameStream x o) s.me).1 (pW + pAtom) true false 0 (.log bits)
      a s →
    let full := s.me.txn.depth = 0 ∧ 2 ^ 20 ≤ (s.logs.filter fun e => sameHome (e.loc / 64) (bitOf a / 512) s).length
    (∀ k, logKindOf a.fmt bits = some k → ¬full →
      Sends i [.lapp ⟨bitOf a / 8, k, BitVec.ofNat 64 (readOp .d .A x 0 s.me).1, s.me.name.toNat, 0,
        (spaceOf s.me a s).1, (spaceOf s.me a s).2, a.addr, []⟩] none true false true s) ∧
    (logKindOf a.fmt bits ≠ none → full → exec i s = .next (waitOn [.logs] (tlbTouch s.me a.addr s))) ∧
    (logKindOf a.fmt bits = none →
      exec i s = .next (cause (cIllegal 2 0) (wordOf (encode i)).toNat (tlbTouch s.me a.addr s)))) ∧
  ∀ (d : Byte) (c : BitVec 4) (s : State) (a : Acc),
    let cap := s.me.c.getD c.toNat Cap.null
    Passes { plainGate (.lmerge d c) [.cap c.toNat] [dstTgt .d .A d s.me] with bars := true, tags := 1 } cap 0
      (pR + pW + pAtom) true false 0 .first a s →
    Sends (.lmerge d c) [.lmerge (spaceOf s.me a s).1 (spaceOf s.me a s).2 (capDepth cap) (capPath cap)]
      (some (destOf .d .A d s.me, .scalar 0 (opBits .d d) false, 1)) false true false s

/-- R40, R44: the checks of an access to a pan, in the order of the rule: tag, seal, permission, block, extents,
alignment; an access that passes them all reaches the unit of its offset in the pan that the capability names. (model's
choices: log 58) -/
def Obligations.PanAccessChecks : Prop :=
  ∀ (h : Hart) (c : Cap) (off perm bits : Nat) (write : Bool) (s : State),
    let f := fieldsOf c
    let a := f.path.toNat + off
    let n := max 1 (bits / 8)
    let tile := if f.space = 1 then h.name.toNat / 2 ^ 9 else f.tile.toNat
    (f.space = 1 ∨ f.space = 2) → 8 ≤ bits →
    locate h c off perm write (.run bits) s =
      if c.tag = false then .trap cCapTag a
      else if f.otype ≠ 0 then .trap cCapSealed a
      else if f.perm.toNat &&& perm ≠ perm then .trap cCapPerm a
      else if 4 ^ (27 - f.depth.toNat) ≤ off ∨ 2 ^ 20 ≤ a then .trap cCapBounds a
      else if ¬∀ i < n, off + i < 4 ^ (27 - f.depth.toNat) ∧ rowIn (off + i) < rowsOf f ∧ colIn (off + i) < colsOf f then
        .trap cCapBounds a
      else if a / 8 ≠ (a + n - 1) / 8 then .trap cMemAlign a
      else .ok ⟨.pan tile, 0, a, n, a⟩

/-- What an instruction of the hart with the turn leaves of every other hart: all of it, but that a hart may be woken, and
that a task whose parent rolls back loses its slot (R122, R125). -/
def Sys2Proof.Claims.OtherHartsKept (s t : State) : Prop :=
  t.harts.length = s.harts.length ∧
  ∀ (k : Nat) (x y : Hart), s.harts[k]? = some x → t.harts[k]? = some y → x.name ≠ s.me.name →
    y = { x with stat := y.stat, woken := y.woken, txn := y.txn, task := y.task }

/-- A state, or it after a read of a line that stays uncorrectable has counted toward the failure of its channel (R348). -/
def Sys2Proof.Claims.Counted (s u : State) : Prop := u = s ∨ ∃ l, u = countFailing l s

/-- R105, R146: no outcome of a memory, atomic or commons instruction changes memory or another hart's registers: memory
changes where a request is performed. A load that meets a line that stays uncorrectable first counts it, which writes nothing
but the manager's page (R348). -/
def Obligations.MemoryInstructionFrame : Prop :=
  (∀ (l : Nat) (s : State), ∀ w ≥ 2048, rawWord (countFailing l s).mem w = rawWord s.mem w) ∧
  ∀ (o a : Byte) (k c : BitVec 4) (q : BitVec 1) (h g : BitVec 5) (s₀ t : State),
    (∀ i ∈ [Instr.ldN o a c, .ldD o a c, .ldfeN o a c, .ldfeD o a c, .ldffN o a c, .ldffD o a c, .stN o a c, .stD o a c,
        .stefN o a c, .stefD o a c, .stffN o a c, .stffD o a c, .stcN o a c, .stcD o a c, .ldcap o k c, .stcap o k c,
        .spill o a c, .fill o a c, .ldC q h g, .stC q h g, .cmstN o a, .cmstD o a,
        .amoAdd o a c, .amoAnd o a c, .amoOr o a c, .amoXor o a c, .amoMin o a c, .amoMax o a c, .amoSwap o a c,
        .amoCas o a c, .amoFadd o a c, .amoFaddF16 o a c, .amaxRst o a c, .amoAddPost o a c, .amoAndPost o a c,
        .amoOrPost o a c, .amoXorPost o a c, .amoMinPost o a c, .amoMaxPost o a c, .amoSwapPost o a c, .amoFaddPost o a c,
        .amoFaddF16Post o a c, .lapp o a c, .lmerge a c],
      exec i s₀ = .next t → ∃ s, Counted s₀ s ∧
        t.mem = s.mem ∧ t.accs = s.accs ∧ t.logs = s.logs ∧ t.me.slices = s.me.slices ∧
        t.me.v = s.me.v ∧ t.me.c = s.me.c ∧ t.me.xw = s.me.xw ∧ t.me.xi = s.me.xi ∧ t.me.xe = s.me.xe ∧
        t.me.xt = s.me.xt ∧ t.me.xm = s.me.xm ∧ t.me.rx = s.me.rx ∧ t.me.hwaitlim = s.me.hwaitlim ∧
        t.me.fwdeleg = s.me.fwdeleg ∧ t.me.hie = s.me.hie ∧ t.me.hip = s.me.hip ∧ t.me.htcmp = s.me.htcmp ∧
        OtherHartsKept s t) ∧
    (∀ i ∈ [Instr.cmldN o a, .cmldD o a], exec i s₀ = .next t →
      t.mem = s₀.mem ∧ t.me.v = s₀.me.v ∧ t.me.c = s₀.me.c ∧ OtherHartsKept s₀ t)

/-- R46, R59, R143, R176 to R178: loads and stores. -/
def Obligations.LoadsAndStoresSendTheirRequests : Prop := LoadsSendTheirReads ∧ StoresSendTheirWrites


/-! ### Requests at their homes, replies and acknowledgements (R41, R42, R59, R102, R105, R108, R110, R179 to R190) -/

/-- The tile of a hart name is in service (R315). -/
def Sys2Proof.Claims.inService (n : Nat) (s : State) : Prop := n / 2 ^ 9 ∉ s.fenced

/-- A request that no transaction made may be performed now. -/
def Sys2Proof.Claims.Due (r : Req) (s : State) : Prop :=
  reqById r.id s = some r ∧ r.txn = none ∧ reqReady r s = true

/-- Storage that a request may read: no word of a pan has failed, and each line passes its check under its key; the page of
the partition manager answers any. -/
def Sys2Proof.Claims.Sound (r : Req) (ws : List Nat) (s : State) : Prop :=
  ∀ w ∈ ws, 2048 ≤ w → if isPanWord w then wordBad w s = false else lineReads (w / 8) r.key s = true

/-- What a request reads of a word: only firmware reads the page of the partition manager (R311). -/
def Sys2Proof.Claims.seen (r : Req) (w : Nat) (s : State) : Nat :=
  if w < 2048 ∧ r.fw = false then 0 else viewVal (viewOf w s)

/-- The replies after a value has arrived for a request. -/
def Sys2Proof.Claims.arrived (r : Req) (v : Nat) (hist : List Nat) (l : List Pend) : List Pend :=
  l.map fun p => if r.pend = some p.id then
    { p with
      parts := setNth p.parts r.part (some (BitVec.ofNat 520 v))
      hist := (p.hist ++ hist).eraseDups
      done := p.done ++ [(r.line, hist)] }
  else p

/-- The state with the histories as they are once a request has been performed: what it read precedes all that follows
it, and those in flight that precede it keep its line in mind. -/
def Sys2Proof.Claims.learned (r : Req) (s : State) : State :=
  spreadHist r.id (readHist r s) (markPassed r (r.hist ++ readHist r s) s)

/-- A performed read: the request is gone, its value has arrived, completions that the host waits for are sent, and harts
that wait for completions look again. -/
def Sys2Proof.Claims.answered (r : Req) (v : Nat) (s : State) : State :=
  let u := learned r s
  signalAll .completion (settleInvals
    { u with reqs := u.reqs.filter (fun q => q.id != r.id), pends := arrived r v (readHist r s) u.pends })

/-- The same with the reply sealed at the request's home (R334). -/
def Sys2Proof.Claims.replied (r : Req) (v : Nat) (s : State) : State := sealReply (homeIface r s) r (answered r v s)

/-- R105, R106, R108, R320, R32, R311: a load performed at its home reads the word, or the line, as it stands, with
what the writes it reads follow; loads of one word that a switch has combined are performed together, with one sealed reply;
a HOST read gives a value of the host's. (model's choices: log 11, 12, 15) -/
def Obligations.ReadsArePerformed : Prop :=
  (∀ (r : Req) (w : Nat) (s : State), Due r s → r.remote = false → r.op = .read w → Sound r [w] s →
    exec (.accessPerform r.id []) s = .next (replied r (seen r w s) s)) ∧
  (∀ (r : Req) (l : Nat) (s : State), Due r s → r.remote = false → r.op = .readLine l →
    Sound r ((List.range 8).map fun i => 8 * l + i) s →
    exec (.accessPerform r.id []) s = .next (replied r
      ((List.range 8).map fun i => seen r (8 * l + i) s * 2 ^ (64 * i)).sum s)) ∧
  (∀ (r : Req) (w : Nat) (lcap : Bool) (s : State), Due r s → r.remote = false → r.op = .readPair w lcap →
    2048 ≤ w → Sound r [w, w + 1] s →
    exec (.accessPerform r.id []) s = .next (replied r
      (viewVal (viewOf w s) + viewVal (viewOf (w + 1) s) * 2 ^ 64 +
        flag ((viewOf w s).tag = true ∧ (viewOf (w + 1) s).tag = true ∧ lcap = true) * 2 ^ 128) s)) ∧
  (∀ (r q : Req) (w : Nat) (s : State), let t := replied r (seen r w s) s
    Due r s → Due q s → Due q t → r.remote = false → q.remote = false → r.op = .read w → q.op = .read w →
    r.key = q.key → r.id ≠ q.id → Sound r [w] s →
    exec (.accessPerform r.id [q.id]) s = .next (answered q (seen q w s) t)) ∧
  ∀ (r : Req) (pasid addr : Nat) (s : State), Due r s → r.remote = false → r.op = .hostRead pasid addr →
    exec (.accessPerform r.id []) s =
      .next (replied r (Config.hostWord s.free).toNat { s with free := s.free + 1 })

/-- Memory outside some words is as it was: every byte, the full/empty and tag bits, and the exact accumulators. -/
def Sys2Proof.Claims.OthersKept (ws : List Nat) (s t : State) : Prop :=
  (∀ a, a / 8 ∉ ws → readByte t.mem a = readByte s.mem a) ∧
  (∀ w, w ∉ ws → (viewOf w t).fe = (viewOf w s).fe ∧ (viewOf w t).tag = (viewOf w s).tag) ∧
  ∀ a, a / 2 ∉ ws → lookupNat a t.accs = lookupNat a s.accs

/-- A hart but for what memory's changes do to it: wakes, conflicts, what its task sees of memory, and what it follows. -/
def Sys2Proof.Claims.bare (h : Hart) : Hart := { h with woken := false, txn := Txn.none, task := none, hist := [] }

/-- What a performed request leaves beside memory: it is gone, its reply has arrived, a counted one is acknowledged, and
no hart's registers have changed. -/
def Sys2Proof.Claims.Done (r : Req) (v : Nat) (s t : State) : Prop :=
  let u := learned r s
  t.reqs = u.reqs.filter (fun q => q.id != r.id) ∧ t.pends = arrived r v (readHist r s) u.pends ∧
  t.acks = s.acks ++ (if r.counted then [r.src] else []) ∧ t.msgs = u.msgs ∧ t.logs = u.logs ∧
  bare t.me = bare s.me ∧ t.harts.map bare = s.harts.map bare

/-- A word has been written at the bits of a mask: as readers see it, the other bits are as they were (an exact
accumulator that the write ends has its reading); the word is full and untagged, and the lines of the wake table that it
lies in have fired. -/
def Sys2Proof.Claims.Wrote (w : Nat) (v m : Word) (s t : State) : Prop :=
  (∀ k < 64, (viewVal (viewOf w t)).testBit k =
    if m.getLsbD k then v.getLsbD k else (viewVal (viewOf w s)).testBit k) ∧
  (viewOf w t).fe = true ∧ (viewOf w t).tag = false ∧ OthersKept [w] s t ∧
  t.wake = s.wake.filter (fun e => e.line != w / 8) ∧
  ∀ l, s.me.stat = .waiting l → .line (w / 8) ∈ l → ⟨w / 8, s.me.name.toNat, s.me.epoch⟩ ∈ s.wake → t.me.woken = true

/-- R41, R42, R47, R102, R105, R114, R183: a store is applied at its home in one step: it replaces the bits that it
writes and no others, the words become full and untagged (a stored capability's pair takes its tag), harts registered
for the line are woken, and the store is acknowledged; a store to another tile's pan is applied the same way and leaves
an entry of its bank's trace ring. (model's choices: log 11, 12, 44) -/
def Obligations.StoresAreApplied : Prop :=
  (∀ (r : Req) (w : Nat) (v m : Word) (s : State), memoryOk s → Due r s → r.op = .write [.word w v m] → 2048 ≤ w →
    Sound r [w] s → ∃ t, exec (if r.remote then .remoteStoreApply r.id else .accessPerform r.id []) s = .next t ∧
      Done r 0 s t ∧ Wrote w v m s t ∧
      (r.remote = true → isPanWord w = true → ∃ e ring, e.src = r.src ∧ e.remote = true ∧ e.word = panAddr w / 8 ∧
        lookupNat (panBank w) (getTile (panTile w) t).rings = some ring ∧ ring.entries.getLast? = some e ∧
        w ∈ ring.last)) ∧
  (∀ (r : Req) (w : Nat) (v : BitVec 128) (tag : Bool) (s : State), memoryOk s → Due r s → r.remote = false →
    r.op = .write [.pair w v tag] → 2048 ≤ w → Sound r [w, w + 1] s →
    ∃ t, exec (.accessPerform r.id []) s = .next t ∧ Done r 0 s t ∧ OthersKept [w, w + 1] s t ∧
      viewVal (viewOf w t) = v.toNat % 2 ^ 64 ∧ viewVal (viewOf (w + 1) t) = v.toNat / 2 ^ 64 ∧
      ∀ x ∈ [w, w + 1], (viewOf x t).tag = tag ∧ (viewOf x t).fe = true) ∧
  (∀ (r : Req) (e : LogEntry) (s : State), Due r s → r.remote = false → r.op = .lapp e →
    ∃ t, exec (.accessPerform r.id []) s = .next t ∧ t.mem = s.mem ∧
      t.logs = s.logs ++ [{ e with seq := s.ids, hist := e.hist ++ r.hist }] ∧
      t.acks = s.acks ++ (if r.counted then [r.src] else [])) ∧
  (∀ (r : Req) (pan : Bool) (ctx depth path : Nat) (s : State), Due r s → r.remote = false →
    r.op = .lmerge pan ctx depth path →
    let mine (e : LogEntry) : Bool := e.pan == pan && e.ctx == ctx && inBlock e.va depth path
    (∀ e ∈ s.logs, mine e = true → 2048 ≤ e.loc / 8 → failCause r.key (e.loc / 8) s = none) →
    ∃ t hist, exec (.accessPerform r.id []) s = .next t ∧
      (∀ e ∈ s.logs, mine e = true → (∀ i ∈ e.hist, unended i s = true → i ∈ hist) ∧
        ∀ i ∈ wordHist (e.loc / 8) (2 ^ 64 - 1) s, i ∈ hist) ∧
      t.logs = (spreadHist r.id hist s).logs.filter (fun e => !mine e) ∧
      t.pends = arrived r (s.logs.filter mine).length hist (spreadHist r.id hist s).pends ∧
      ∀ e, memoryOk s → s.logs.filter mine = [e] → e.kind = .int32 → e.loc % 4 = 0 → 2048 ≤ e.loc / 8 →
        viewVal (viewOf (e.loc / 8) t) / 2 ^ (8 * (e.loc % 8)) % 2 ^ 32 =
          (viewVal (viewOf (e.loc / 8) s) / 2 ^ (8 * (e.loc % 8)) + e.val.toNat) % 2 ^ 32 ∧
        OthersKept [e.loc / 8] s t) ∧
  ∀ (r : Req) (pasid addr : Nat) (v m : Line) (s : State), Due r s → r.remote = false →
    r.op = .hostWrite pasid addr v m →
    ∃ t, exec (.accessPerform r.id []) s = .next t ∧ t.mem = s.mem ∧ Done r 0 s t ∧
      t.host.sent = s.host.sent ++ [(pasid, addr, v, m)]

/-- The new value of a location under an atomic of R184, R185 and R187; none where nothing is written. -/
def Sys2Proof.Claims.amoResult (op : AmoOp) (w : Nat) (m x : BitVec w) (e : Nat) : Option (BitVec w) :=
  match op with
  | .add => some (m + x)
  | .and => some (m &&& x)
  | .or => some (m ||| x)
  | .xor => some (m ^^^ x)
  | .min => some (if m.slt x then m else x)
  | .max => some (if m.slt x then x else m)
  | .swap => some x
  | .cas => if m.toNat = e then some x else none
  | .maxrst => some 0

/-- An exact addition into an accumulator (R102). -/
def Sys2Proof.Claims.added (z : FAdd) (x : Accum) : Accum :=
  match z with
  | .num k => { x with a := x.a + BitVec.ofInt 448 k }
  | .pinf => { x with pinf := true }
  | .ninf => { x with ninf := true }
  | .nan => { x with nan := true }

/-- R105, R106, R184 to R188, R102, R129, R321: an atomic performed at its home replies the old value and writes the
new one, in one step, and leaves the other bits as they are; a compare that fails writes nothing; an exact addition
replies the rounded content, rounded again for a 16-bit destination, and adds into the accumulator of its location; a merge
station performs combined atomics in the order of source names. (model's choices: log 11, 12) -/
def Obligations.AtomicsArePerformed : Prop :=
  (∀ (r : Req) (op : AmoOp) (w off n : Nat) (x e : Word) (s : State), memoryOk s → Due r s → r.remote = false →
    r.op = .amo op w off n x e → 2048 ≤ w → 0 < n → off + n ≤ 64 → x.toNat < 2 ^ n → Sound r [w] s →
    let old : BitVec n := BitVec.ofNat n (viewVal (viewOf w s) / 2 ^ off)
    ∃ t, exec (.accessPerform r.id []) s = .next t ∧ Done r old.toNat s t ∧
      match amoResult op n old (BitVec.ofNat n x.toNat) e.toNat with
      | none => t.mem = s.mem ∧ t.accs = s.accs
      | some v => Wrote w (BitVec.ofNat 64 (v.toNat * 2 ^ off)) (BitVec.ofNat 64 ((2 ^ n - 1) * 2 ^ off)) s t) ∧
  (∀ (r : Req) (a : Nat) (z : FAdd) (ret : Nat) (s : State), memoryOk s → Due r s → r.remote = false →
    r.op = .fadd a z ret → 4096 ≤ a → Sound r [a / 2] s →
    let content := rawWord s.mem (a / 2) / 2 ^ (32 * (a % 2)) % 2 ^ 32
    let old := (lookupNat a s.accs).getD (accumOf content)
    let x := roundFloat fp32 0 0 (accumVal old)
    ∃ t, exec (.accessPerform r.id []) s = .next t ∧
      Done r (if ret = 1 then roundFloat bf16 0 0 (floatVal fp32 x)
        else if ret = 2 then roundFloat fp16 0 0 (floatVal fp32 x) else x) s t ∧
      (∀ b, readByte t.mem b = readByte s.mem b) ∧ OthersKept [a / 2] s t ∧
      (viewOf (a / 2) t).fe = true ∧ (viewOf (a / 2) t).tag = false ∧
      lookupNat a t.accs = some (added z old)) ∧
  (∀ (r : Req) (s : State), Due r s → r.remote = false →
    ∃ t, exec (.mergeStationRelease [r.id]) s = .next t ∧ exec (.accessPerform r.id []) s = .next t) ∧
  ∀ (a b : Req) (s u : State), Due a s → exec (.accessPerform a.id []) s = .next u → Due b s → Due b u →
    a.remote = false → b.remote = false → merges a b = true → a.line = b.line → a.src < b.src →
    (∀ x ∈ s.seals, x.2 + 4 < 2 ^ 64) → ∀ l, l = [a.id, b.id] ∨ l = [b.id, a.id] →
    ∃ t v, exec (.mergeStationRelease l) s = .next t ∧ exec (.accessPerform b.id []) u = .next v ∧
      { t with seals := [] } = { v with seals := [] }

/-- R179, R180: a full/empty form that finds its word in the state it needs is performed: a load replies the word's
bits and leaves it empty or full, a store writes its bits and leaves it full; one that does not has no effect at all:
outside a transaction its hart, back at the instruction with its destination full again, waits on the line, and follows what
the state that it found follows (R106). (model's
choices: log 7, 17) -/
def Obligations.FullEmptyFormsArePerformed : Prop :=
  (∀ (r : Req) (w : Nat) (take : Bool) (s : State), memoryOk s → Due r s → r.remote = false → r.counted = false →
    r.op = .loadFull w take → 2048 ≤ w → Sound r [w] s →
    (viewOf w s).fe = true →
    ∃ t, exec (.accessPerform r.id []) s = .next t ∧ Done r (viewVal (viewOf w s)) s t ∧
      OthersKept [w] s t ∧ (viewOf w t).fe = !take ∧ viewVal (viewOf w t) = viewVal (viewOf w s) ∧
      (viewOf w t).tag = (viewOf w s).tag) ∧
  (∀ (r : Req) (w : Nat) (v m : Word) (toEmpty : Bool) (s : State), memoryOk s → Due r s → r.remote = false →
    r.counted = false → r.op = .storeFull w v m toEmpty → 2048 ≤ w → Sound r [w] s →
    (viewOf w s).fe = !toEmpty →
    ∃ t, exec (.accessPerform r.id []) s = .next t ∧ Done r 0 s t ∧ Wrote w v m s t) ∧
  ∀ (r : Req) (p : Pend) (w : Nat) (s : State), Due r s → r.remote = false → 2048 ≤ w → Sound r [w] s →
    (∃ take, r.op = .loadFull w take ∧ (viewOf w s).fe = false) ∨
      (∃ v m toEmpty, r.op = .storeFull w v m toEmpty ∧ (viewOf w s).fe = toEmpty) →
    pendOf r s = some p → (∀ k, p.dest ≠ .vec k ∧ p.dest ≠ .cap k) → p.route = s.me.name.toNat → present s.me = true →
      s.me.txn.depth = 0 →
    ∃ t, exec (.accessPerform r.id []) s = .next t ∧ t.mem = s.mem ∧ t.accs = s.accs ∧
      t.reqs = (markPassed r (r.hist ++ readHist r s) s).reqs.filter (fun q => q.id != r.id) ∧
      t.pends = s.pends.filter (fun q => q.id != p.id) ∧
      t.me = { s.me with
        gfull := match p.dest with
          | .slices a n => s.me.gfull ||| granules a n
          | _ => s.me.gfull
        stat := .waiting [.line (w / 8)], woken := false, epoch := s.me.epoch + 1
        hist := (s.me.hist ++ readHist r s).eraseDups } ∧
      ⟨w / 8, s.me.name.toNat, s.me.epoch + 1⟩ ∈ t.wake

/-- R29, R32, R59, R181, R223: the value of a whole reply, by its shape: bits of a word (two top bits of 6-bit containers
read 0), elements of bit planes with their sign, the bytes of a run, the lanes of a gather, each by its own page, or a pair
with its tag. -/
def Sys2Proof.Claims.ReplyValues : Prop :=
  ∀ p : Pend, let part (i : Nat) : Nat := ((p.parts.getD i none).map BitVec.toNat).getD 0
    (∀ off w six, p.shape = .scalar off w six → (six = true → w % 8 = 0) → ∀ k < w, (replyVal p).testBit k =
      ((part 0).testBit (off + k) && !(six && decide (6 ≤ k % 8)))) ∧
    (∀ first n k, p.shape = .planes first n k → 0 < k → k ≤ 8 → ∀ j < n, ∀ b < 8,
      (replyVal p).testBit (8 * j + b) = (part (k - 1 - min b (k - 1))).testBit (first + j)) ∧
    (∀ l n, p.shape = .bytes l n → ∀ before after m off w, l = before ++ (m, off, w) :: after → ∀ k < w,
      let from_ := (before.map fun x => x.2.2).sum
      let line := (before.map fun x => x.1).sum
      from_ + k < 4 * n → (off + k) / 512 < m →
      (replyVal p).testBit (from_ + k) = (part (line + (off + k) / 512)).testBit ((off + k) % 512)) ∧
    (∀ e l, p.shape = .lanes e l → ∀ j o, l[j]? = some o → ∀ b < e, (replyVal p).testBit (e * j + b) = match o with
      | none => false
      | some (i, off, k, six) =>
        if k = 0 then (part i).testBit (off + b) && !(six && decide (e % 8 = 0) && decide (6 ≤ b % 8))
        else decide (b < 8) && (part (i + (k - 1 - min b (k - 1)))).testBit off) ∧
    (p.shape = .pair → replyVal p = part 0)

/-- R59, R63, R64, R74, R81, R110, R180: a whole reply lands in its destination in the hart where it is due, the tags
it held are free, and a hart that was held goes on, past its instruction where that form waited to be performed; the
oldest queued message lands once rx is empty; and an acknowledgement lowers the count of its hart; all in a tile in service.
(model's choices: log 11, 90) -/
def Obligations.RepliesLand : Prop :=
  ReplyValues ∧
  (∀ (p : Pend) (s : State), s.pends.find? (fun q => q.id == p.id) = some p → replyWhole p = true →
    p.route = s.me.name.toNat → present s.me = true → inService p.route s → (∀ w, p.dest = .rx w → s.me.rxFull = false) →
      p.eats = [] →
    ∃ t, exec (.deposit false p.id) s = .next t ∧ t.mem = s.mem ∧ t.reqs = s.reqs ∧
      t.pends = s.pends.filter (fun q => q.id != p.id) ∧
      let v := replyVal p
      let h := { t.me with woken := false }
      let k := { s.me with
        woken := false
        stat := if s.me.stat = .held p.id then .running else s.me.stat
        pc := p.next.getD s.me.pc
        xiv := if p.next = none then s.me.xiv else false
        stepped := if p.next = none then s.me.stepped else stepNow s.me
        walked := if p.next = none then s.me.walked else []
        walkFaults := if p.next = none then s.me.walkFaults else []
        hist := h.hist
        work := s.me.work.filter fun i => i != p.id }
      (∀ x ∈ p.hist ++ s.me.hist, x ∈ h.hist) ∧
      match p.dest with
      | .slices a n => h = { k with slices := h.slices, gfull := s.me.gfull ||| granules a n,
                                    gbad := s.me.gbad &&& ~~~wholeGranules a n } ∧
          (n ≤ 256 → (∀ i < 4 * n, h.slices.getLsbD ((4 * (a % 256) + i) % 1024) = v.testBit i) ∧
            ∀ j < 1024, (∀ i < 4 * n, (4 * (a % 256) + i) % 1024 ≠ j) → h.slices.getLsbD j = s.me.slices.getLsbD j)
      | .vec i => h = { k with v := setNth s.me.v i (BitVec.ofNat 512 v), vfull := s.me.vfull ||| bit16 i,
                               vbad := s.me.vbad &&& ~~~bit16 i }
      | .cap i => h = { k with c := setNth s.me.c i ⟨BitVec.ofNat 128 v, v.testBit 128⟩, cfull := s.me.cfull ||| bit16 i,
                               cbad := s.me.cbad &&& ~~~bit16 i }
      | .rx w => h = { k with rx := BitVec.ofNat 64 (v % 2 ^ w), rxFull := true }
      | .tx w dst => h = { k with unacked := s.me.unacked + 1 } ∧
          ∃ m, t.msgs = s.msgs ++ [m] ∧ m.src = p.route ∧ m.dst = dst ∧ m.val = BitVec.ofNat 64 (v % 2 ^ w)
      | .none => h = k) ∧
  (∀ (p : Pend) (s : State), s.pends.find? (fun q => q.id == p.id) = some p → replyWhole p = true →
    hartAt p.route s = none → inService p.route s → arriving p.route s = false →
    ∃ t, exec (.deposit false p.id) s = .next t ∧ t.mem = s.mem ∧ t.pends = s.pends.filter (fun q => q.id != p.id) ∧
      { t.me with woken := false } = { s.me with woken := false }) ∧
  (∀ (v : Word) (l : List Word) (s : State), s.me.rxq = v :: l → s.me.rxFull = false → present s.me = true →
    inService s.me.nm s →
    ∃ t, exec (.deposit true s.me.name.toNat) s = .next t ∧ t.mem = s.mem ∧
      { t.me with woken := false } = { s.me with woken := false, rx := v, rxFull := true, rxq := l }) ∧
  ∀ s : State, s.me.name.toNat ∈ s.acks → present s.me = true → inService s.me.nm s →
    ∃ t, exec (.acknowledgement s.me.name) s = .next t ∧ t.mem = s.mem ∧ t.acks = s.acks.erase s.me.name.toNat ∧
      { t.me with woken := false } = { s.me with woken := false, unacked := s.me.unacked - 1 }


/-! ### Transactions (R116 to R123, R191, R192) -/

/-- The transaction of the hart has ended without effect: control at the abort target, depth 0, nothing held; only
CONFLICT hands the begin time on; memory, logs and tasks are as they were. -/
def Sys2Proof.Claims.Aborted (status detail : Nat) (s t : State) : Prop :=
  t.mem = s.mem ∧ t.accs = s.accs ∧ t.logs = s.logs ∧ t.enqs = s.enqs ∧ t.reqs = s.reqs ∧ t.harts.length = s.harts.length ∧
  t.me = { s.me with
    pc := s.me.txn.abortPc, stat := .running, woken := false, walked := [], walkFaults := [], hb := t.me.hb,
    xiv := t.me.xiv, stepped := t.me.stepped
    txn := { s.me.txn with
      depth := 0, status := status, detail := detail, reads := [], stale := [], buf := [], alt := none, woken := false
      doom := none, reuse := decide (status = 1) } }

/-- R116, R117, R119, R120, R123, R191, R192, R143: what each transaction instruction does. (model's choices: log 5,
53) -/
def Obligations.TransactionInstructions : Prop :=
  let on (i : Instr) (s : State) (f : State → Prop) : Prop := ∃ t, exec i s = .next t ∧ f t
  let g (i : Instr) : Gate := plainGate i [] []
  let txn (f : Txn → Txn) : State → State := modMe fun h => { h with txn := f h.txn }
  (∀ (o : BitVec 16) (s : State), let i := Instr.tbegin o
    Ready (g i) s →
    (s.me.txn.depth = 0 → on i s fun t =>
      t = { s with me := t.me, time := s.time + Config.elapsed s.free, cycle := s.cycle + Config.elapsed (s.free + 1),
                   free := s.free + 2, ids := s.ids + 1 } ∧
      t.me = { (advance (g i) s).me with
        epoch := s.me.epoch + 1
        txn := { Txn.none with
          id := s.ids, depth := 1, abortPc := targetOf s.me o.toInt, beginPc := s.me.pc, gen := 1
          beginTime := if s.me.txn.reuse then s.me.txn.beginTime else t.time } }) ∧
    (0 < s.me.txn.depth → s.me.txn.depth < 15 →
      exec i s = .next (txn (fun x => { x with depth := x.depth + 1 }) (advance (g i) s))) ∧
    (15 ≤ s.me.txn.depth → s.me.task = none → present s.me = true → on i s (Aborted 6 0 s))) ∧
  (∀ (o : BitVec 16) (s : State), let i := Instr.orelse o
    (s.me.txn.depth = 0 → exec i s = .next (cause cTxnState 0 s)) ∧
    (Ready (g i) s → s.me.txn.depth ≠ 0 → exec i s = .next (txn (fun x => { x with
      alt := some (targetOf s.me o.toInt), mark := x.gen, gen := x.gen + 1 }) (advance (g i) s)))) ∧
  (∀ (s : State), ∀ i ∈ [Instr.tend, .tendC],
    (s.me.txn.depth = 0 → exec i s = .next (cause cTxnState 0 s)) ∧
    (Ready (g i) s → s.me.txn.depth = 1 → s.me.task = none →
      exec i s = .next (modMe (fun h => { h with stat := .committing }) (advance (g i) s))) ∧
    (Ready (g i) s → 1 < s.me.txn.depth →
      exec i s = .next (txn (fun x => { x with depth := x.depth - 1 }) (advance (g i) s)))) ∧
  (∀ (s : State), ∀ i ∈ [Instr.retry, .retryC],
    (s.me.txn.depth = 0 → exec i s = .next (cause cTxnState 0 s)) ∧
    (Ready (g i) s → s.me.txn.depth ≠ 0 → present s.me = true → on i s fun t =>
      t.mem = s.mem ∧ t.accs = s.accs ∧ t.me.slices = s.me.slices ∧ t.me.v = s.me.v ∧ t.me.c = s.me.c ∧
      (∀ a, s.me.txn.alt = some a → t.me.pc = a ∧ t.me.stat = .running ∧ t.me.txn = { s.me.txn with
        alt := none
        gen := s.me.txn.gen + 1
        buf := s.me.txn.buf.filter fun o => decide (o.1 ≤ s.me.txn.mark)
        reads := s.me.txn.reads.filter fun r => decide (r.2 ≤ s.me.txn.mark)
        stale := s.me.txn.stale ++
          (s.me.txn.reads.filter fun r => decide (s.me.txn.mark < r.2)).map fun r => r.1 }) ∧
      (s.me.txn.alt = none → s.me.task = none →
        t.me.pc = s.me.txn.beginPc ∧ t.me.txn.depth = 0 ∧ t.me.txn.status = 0 ∧ t.me.txn.buf = [] ∧
        (s.me.txn.woken = true → t.me.stat = .running) ∧
        (s.me.txn.woken = false → ∃ l, t.me.stat = .waiting l ∧
          ∀ x ∈ readLines s.me.txn ++ s.me.txn.stale, .line x ∈ l ∧
            ⟨x, s.me.name.toNat, s.me.epoch + 1⟩ ∈ t.wake)))) ∧
  (∀ (c : BitVec 8) (s : State), let i := Instr.tabort c
    Ready (g i) s →
    (s.me.txn.depth = 0 → exec i s = .next (advance (g i) s)) ∧
    (s.me.txn.depth ≠ 0 → s.me.task = none → present s.me = true → on i s (Aborted 3 c.toNat s))) ∧
  ∀ d, Writes (.tstat d) (gate0 (.tstat d) .d d) .d .D d fun h =>
    (BitVec.ofNat 10 h.txn.detail ++ BitVec.ofNat 4 h.txn.depth ++ BitVec.ofBool h.txn.woken ++
      BitVec.ofBool h.txn.alt.isSome ++ 0#12 ++ BitVec.ofNat 4 h.txn.status : BitVec 32).toNat

/-- What one held change makes of a word: bits replaced, a pair with its tag, a word emptied, an exact addition at one of its
two locations; any other word is as before (R42, R102, R179, R183). -/
def Sys2Proof.Claims.changes (o : MOp) (w : Nat) (a b : WordView) : Prop :=
  let one (v m : Word) (tag : Bool) : Prop :=
    (∀ k < 64, (viewVal b).testBit k = if m.getLsbD k then v.getLsbD k else (viewVal a).testBit k) ∧
    b.fe = true ∧ b.tag = tag ∧
    b.lo = (if m.setWidth 32 = 0#32 then a.lo else none) ∧
    b.hi = (if m.extractLsb' 32 32 = 0#32 then a.hi else none)
  match o with
  | .word x v m => if x = w then one v m false else b = a
  | .pair x v tag =>
    if x = w then one (v.setWidth 64) (BitVec.allOnes 64) tag
    else if x + 1 = w then one (v.extractLsb' 64 64) (BitVec.allOnes 64) tag
    else b = a
  | .empty x => b = { a with fe := a.fe && decide (x ≠ w) }
  | .fadd c z =>
    if c / 2 = w then b = { a with
      lo := if c % 2 = 0 then some (added z (a.lo.getD (accumOf (a.val % 2 ^ 32)))) else a.lo
      hi := if c % 2 = 1 then some (added z (a.hi.getD (accumOf (a.val / 2 ^ 32 % 2 ^ 32)))) else a.hi
      fe := true
      tag := false }
    else b = a
  | _ => b = a

/-- The changes that a hart's transaction holds may all be applied: they touch no word of the manager's page and no failed
storage, and their homes have room for their additions and entries (R103, R189, R287, R337). -/
def Sys2Proof.Claims.MayApply (s : State) : Prop :=
  memoryOk s ∧ roomFor (heldOps s.me) s = true ∧
  ∀ o ∈ s.me.txn.buf, ∀ w ∈ opWords o.2.2, 2048 ≤ w ∧
    if isPanWord w then wordBad w s = false else lineReads (w / 8) (keyFor s.me s) s = true

/-- What a hart's transaction held has been applied, in the order in which it was made: each word but a semaphore that holds
increments back is as those changes leave it, one after another; its log entries come last in the logs, its tasks have been
sent by the hart as it then is named, and its host stores have left. -/
def Sys2Proof.Claims.Applied (s t : State) : Prop :=
  let ops := s.me.txn.buf.map fun o => o.2.2
  let entry (e : LogEntry) : LogEntry := { e with seq := 0, hist := [] }
  let sent (e : TaskEnq) : TaskEnq := { e with inh := [], hist := [], wakeOn := none }
  (∀ w, 2048 ≤ w → (8 * w < semBase ∨ ∀ v ∈ (getTile (semTile w) s).semHeld, v.w ≠ w) →
    ∃ l : List WordView, l.length = ops.length + 1 ∧ l.head? = some (viewOf w s) ∧ l.getLast? = some (viewOf w t) ∧
      ∀ k o a b, ops[k]? = some o → l[k]? = some a → l[k + 1]? = some b → changes o w a b) ∧
  t.logs.map entry = s.logs.map entry ++ ops.filterMap (fun o => match o with
    | .log e => some (entry e)
    | _ => none) ∧
  ((t.logs.drop s.logs.length).map fun e => e.seq).Pairwise (· < ·) ∧
  (t.enqs.map fun e => sent e.2) = (s.enqs.map fun e => sent e.2) ++ ops.filterMap (fun o => match o with
    | .task e => some (sent { e with src := s.me.name.toNat })
    | _ => none) ∧
  t.host.sent = s.host.sent ++ ops.filterMap fun o => match o with
    | .host pasid addr v m => some (pasid, addr, v, m)
    | _ => none

/-- R108, R116, R118, R121, R122: the commit applies all that a transaction holds, in one step, and ends it with status 0;
while a home has no room for it, or what its writes follow has not been performed there, it waits; an abort that has been
decided discards all of it. (model's choices: log 12, 93) -/
def Obligations.CommitsAndAborts : Prop :=
  (∀ s : State, present s.me = true → s.me.stat = .committing → s.me.txn.doom = none →
    txnBusy s.me.txn.id s = false →
    (roomFor (heldOps s.me) s = true → commitWaits s.me s = false → ∃ t, exec (.txnCommitPoint s.me.name) s = .next t ∧
      t.me.txn.depth = 0 ∧ t.me.txn.status = 0 ∧ t.me.txn.detail = 0 ∧ t.me.txn.buf = [] ∧ t.me.stat = .running ∧
      t.me.pc = s.me.pc ∧ t.me.slices = s.me.slices ∧ t.me.v = s.me.v ∧ t.me.c = s.me.c ∧
      (s.me.txn.buf = [] → t.mem = s.mem ∧ t.accs = s.accs) ∧
      (MayApply s → Applied s t)) ∧
    (roomFor (heldOps s.me) s = false ∨ commitWaits s.me s = true → exec (.txnCommitPoint s.me.name) s = .next s)) ∧
  ∀ (s : State) (status detail : Nat), present s.me = true → s.me.txn.depth ≠ 0 → s.me.task = none →
    (∀ p, s.me.stat ≠ .held p) → s.me.txn.doom = some (status, detail) →
    ∃ t, exec (.txnAbort s.me.name) s = .next t ∧ Aborted status detail s t

/-- R116, R117: no access that a transaction makes changes memory while the transaction is open or after it has ended: its
changes are held (only the care of failing lines writes the manager's page); and a store outside any transaction to a line
that an open transaction has read or written decides that one's abort, with CONFLICT. -/
def Obligations.TransactionsAreIsolated : Prop :=
  (∀ (r : Req) (s t : State), memoryOk s → reqById r.id s = some r → r.txn ≠ none →
    (match r.op with
      | .read _ | .readLine _ | .readPair _ _ | .loadFull _ _ | .write _ | .storeFull _ _ _ _ | .amo _ _ _ _ _ _
      | .fadd _ _ _ | .lapp _ => True
      | _ => False) →
    exec (.accessPerform r.id []) s = .next t ∨ exec (.remoteStoreApply r.id) s = .next t →
    (∀ w, 2048 ≤ w → viewOf w t = viewOf w s) ∧ (∀ a, 4096 ≤ a → lookupNat a t.accs = lookupNat a s.accs) ∧
    (t.logs.map fun e => { e with hist := [] }) = (s.logs.map fun e => { e with hist := [] }) ∧
    (t.pendw.map fun p => { p with hist := [] }) = (s.pendw.map fun p => { p with hist := [] }) ∧
    (readFails r s = none → repairFor r s = none → t.mem = s.mem)) ∧
  (∀ (r : Req) (w g : Nat) (v m : Word) (s : State), reqById r.id s = some r → reqReady r s = true →
    r.remote = false → r.op = .write [.word w v m] → present s.me = true → s.me.txn.depth ≠ 0 →
    r.txn = some (s.me.txn.id, g) → g ≠ 0 → s.me.txn.doom = none → s.migs = [] → (∀ h ∈ s.harts, h.txn.depth = 0) →
    countDistinct (writeLines s.me.txn ++ [w / 8]) ≤ 32 →
    ∃ t, exec (.accessPerform r.id []) s = .next t ∧ t.me.txn.doom = none ∧
      t.me.txn.buf = s.me.txn.buf ++ [(g, r.id, .word w v m)] ∧
      seenWord t.me w t = viewWrite v.toNat m.toNat (seenWord s.me w s)) ∧
  ∀ (r : Req) (w : Nat) (v m : Word) (s : State), Due r s → r.remote = false → r.op = .write [.word w v m] → 2048 ≤ w →
    Sound r [w] s → present s.me = true → s.me.txn.depth ≠ 0 → s.me.txn.doom = none →
    w / 8 ∈ readLines s.me.txn ∨ w / 8 ∈ writeLines s.me.txn →
    ∃ t, exec (.accessPerform r.id []) s = .next t ∧ t.me.txn.doom = some (1, 0)


/-! ### Harts, tasks, active messages, spans and streams (R73, R74, R79, R124, R193 to R200) -/

/-- R73, R194: `hspawn` claims the slot that its target names, puts there a hart in its start state, at the given
address, with the argument in granules 0 and 1, and its maker's capabilities, mode, reach registers and vector bases, and
returns the new name; an odd address and a target out of reach trap; with no slot free it waits. -/
def Sys2Proof.Claims.HartsAreCreated : Prop :=
  ∀ (b a d : Byte) (s : State), let i := Instr.hspawn b a d
    let v := (readOp .d .A a 0 s.me).1
    let pc := (readOp .d .B b (sameStream a b) s.me).1 % 2 ^ 54
    let arg := (readOp .d .D d 0 s.me).1
    let g : Gate := { plainGate i
      [srcNeed .d .A a 0 s.me, srcNeed .d .B b (sameStream a b) s.me, srcNeed .d .D d 0 s.me] [dstTgt .d .D d s.me]
      with bars := true, tags := 1 }
    Ready g s →
    (badTarget s.me v 2 s = true → exec i s = .next (cause (cHartTarget 1) v s)) ∧
    (badTarget s.me v 2 s = false → pc % 2 = 1 → exec i s = .next (cause (cInstAlign 2) pc s)) ∧
    (badTarget s.me v 2 s = false → pc % 2 = 0 → claimSlot s.me v s = none →
      exec i s = .next (waitOn [targetOcc v] s)) ∧
    ∀ n, badTarget s.me v 2 s = false → pc % 2 = 0 → claimSlot s.me v s = some n →
      ∃ t k p, exec i s = .next t ∧ t.mem = s.mem ∧ k ∈ t.harts ∧ k.name = BitVec.ofNat 22 n ∧
        k = { Hart.blank (BitVec.ofNat 22 n) (BitVec.ofNat 54 pc) s.me.mode with
          slices := BitVec.ofNat 1024 arg, c := s.me.c, cbad := s.me.cbad, hwaitlim := s.me.hwaitlim
          hb := { TrapBank.init s.me.hb.base with ie := s.me.hb.ie }
          fb := { TrapBank.init s.me.fb.base with ie := s.me.fb.ie }
          fwdeleg := s.me.fwdeleg, hie := s.me.hie, hist := k.hist } ∧
        (∀ x ∈ s.me.hist ++ s.me.out, x ∈ k.hist) ∧
        (∀ q ∈ s.pends, q.route = s.me.name.toNat → ∀ x ∈ q.hist, x ∈ k.hist) ∧
        t.pends = s.pends ++ [p] ∧ p.dest = destOf .d .D d s.me ∧ p.tags.length = 1 ∧ replyWhole p = true ∧
        (n < 2 ^ 64 → replyVal p = n) ∧ t.me.stat = .held p.id ∧ t.me.pc = s.me.pc + 4

/-- R74, R125, R195, R196, R80, R143: `hexit` retires its hart, which gives up its streams; ends the body of a task; or
ends a handler, whose granules 0 and 1 return to the sender. `mig` completes at once within its target and else leaves for
it. -/
def Sys2Proof.Claims.HartsLeave : Prop :=
  (∀ (s : State), ∀ i ∈ [Instr.hexit, .hexitC],
    (s.me.task = none → s.me.handles = none → Ready { plainGate i [] [] with bars := true } s →
      exec i s = .next (modMe (fun h => { h with streams := [], stat := .retired }) (advance (plainGate i [] []) s))) ∧
    (s.me.handles = none → Ready (plainGate i [] []) s → s.me.txn.depth = 1 →
      ∀ k, s.me.task = some k → exec i s = .next (modMe (fun h => { h with
        stat := .taskDone, task := some { k with ended := true } }) (advance (plainGate i [] []) s))) ∧
    (∀ n p, s.me.task = none → s.me.handles = some (n, p) →
      let g : Gate := { plainGate i [.slices 7 31 0 16] [] with bars := true }
      Ready g s → ∃ t, exec i s = .next t ∧ t.me.stat = .retired ∧ t.me.streams = [] ∧ t.mem = s.mem ∧
        t.pends = s.pends.map fun q => if q.id = p then
          { q with parts := setNth q.parts 0 (some (BitVec.ofNat 520 (s.me.slices.toNat % 2 ^ 64))) } else q)) ∧
  ∀ (a : Byte) (s : State), let i := Instr.mig a
    let v := (readOp .d .A a 0 s.me).1
    let g := plainGate i [srcNeed .d .A a 0 s.me] []
    let name := v % 2 ^ 22
    Ready g s →
    (badTarget s.me v 1 s = true → exec i s = .next (cause (cHartTarget 1) v s)) ∧
    (badTarget s.me v 1 s = false → v / 2 ^ 22 % 4 = 0 →
      exec i s = .next (if name / 16 = s.me.name.toNat / 16 then advance g s
        else beginMove (.cell (name / 16)) (name / 512) s)) ∧
    (badTarget s.me v 1 s = false → v / 2 ^ 22 % 4 ≠ 0 →
      exec i s = .next (if name / 512 = s.me.name.toNat / 512 then advance g s
        else beginMove (.tile (name / 512)) (name / 512) s))

/-- R124, R197: outside transactions `tenq` sends its task, with the key of its timestamp, to the task unit of its tile;
an odd address traps. -/
def Sys2Proof.Claims.TasksAreSent : Prop :=
  ∀ (b a : Byte) (d : BitVec 6) (s : State), let i := Instr.tenq b a d
    let time := (readOp .d .A a 0 s.me).1 % 2 ^ 32
    let pc := (readOp .d .B b (sameStream a b) s.me).1 % 2 ^ 54
    let f := (s.me.xw.toNat % 256 + d.toNat) % 256
    let g := plainGate i [srcNeed .d .A a 0 s.me, srcNeed .d .B b (sameStream a b) s.me, .slices 3 2 f 24] []
    Ready g s →
    (pc % 2 = 1 → exec i s = .next (cause (cInstAlign 2) pc s)) ∧
    (pc % 2 = 0 → s.me.task = none → s.me.txn.depth = 0 → present s.me = true →
      ∃ t e, exec i s = .next t ∧ t.mem = s.mem ∧ t.enqs = s.enqs ++ [(s.ids, e)] ∧
        e.key = .node time (.root s.me.name.toNat) s.me.nenq ∧ e.tile = s.me.name.toNat / 512 ∧
        e.src = s.me.name.toNat ∧ e.pc = BitVec.ofNat 54 pc ∧ e.mode = s.me.mode ∧ e.caps = s.me.c ∧ e.cbad = s.me.cbad ∧
        e.a0.toNat = readSlices s.me.slices f 8 ∧ e.a1.toNat = readSlices s.me.slices (f + 8) 8 ∧
        e.a2.toNat = readSlices s.me.slices (f + 16) 8 ∧
        t.me = { (advance g s).me with nenq := s.me.nenq + 1, unacked := s.me.unacked + 1 })

/-- A claim goes on: its request stands for what it awaits next. -/
def Sys2Proof.Claims.onward (r : Req) (op : HomeOp) (s : State) : State :=
  let u := learned r s
  sealReply (homeIface r s) r (signalAll .completion (settleInvals
    { u with reqs := u.reqs.map fun q => if q.id = r.id then { q with op := op } else q }))

/-- R198, R199, R329, R330, R200: `amsg` queues its message at the cell of the bank that it names and waits for the handler;
`spnext` asks the leader, which hands out the next indices of an open counter, once the replica, if there is one, has
acknowledged them, or all ones once it is used up; `sbind` binds a
stream register to a free tag, and `sbind.off` gives it up. -/
def Sys2Proof.Claims.MessagesSpansAndStreams : Prop :=
  (∀ (o a : Byte) (c h : BitVec 4) (s : State) (u : Nat), let i := Instr.amsg o a c h
    let cap := s.me.c.getD c.toNat Cap.null
    let g : Gate := { plainGate i (srcNeed .d .A a 0 s.me :: memNeeds (.byte .d o) 0 c.toNat s.me)
      [dstTgt .d .A a s.me] with bars := true, tags := 1 }
    Ready g s →
    (s.me.handles ≠ none → exec i s = .next (cause cAmsgNest 0 s)) ∧
    ∀ tile n ad, s.me.handles = none → capFault cap (pR + pW) = none → (fieldsOf cap).space ≠ 0 →
      locate s.me cap (readOp .d .B o 0 s.me).1 (pR + pW) true (.bytes 1) s = .ok ⟨.pan tile, 0, u, n, ad⟩ →
      let cell := tile * 32 + u / 2 ^ 16
      ∃ t m p, exec i s = .next t ∧ t.mem = s.mem ∧ (getCell cell t).amq = (getCell cell s).amq ++ [m] ∧
        m.sender = s.me.name.toNat ∧ m.sub = h.toNat ∧ m.arg = BitVec.ofNat 64 (readOp .d .A a 0 s.me).1 ∧ m.addr = u ∧
        m.mode = s.me.mode ∧ m.cap.tag = cap.tag ∧ (fieldsOf m.cap).space = 1 ∧ (fieldsOf m.cap).tile = 0 ∧
        t.pends = s.pends ++ [p] ∧ m.pend = p.id ∧ p.dest = destOf .d .A a s.me ∧
        replyWhole p = false ∧ t.me.stat = .held p.id ∧ t.me.pc = s.me.pc + 4) ∧
  (∀ (b a d : Byte) (s : State), let i := Instr.spnext b a d
    let k := (readOp .d .A a 0 s.me).1
    let n := (readOp .d .B b (sameStream a b) s.me).1
    let g : Gate := { plainGate i [srcNeed .d .A a 0 s.me, srcNeed .d .B b (sameStream a b) s.me] [dstTgt .d .D d s.me]
      with bars := true, tags := 1 }
    Ready g s →
    (spanOpen s.me k s = false → exec i s = .next (cause cSpanId k s)) ∧
    (spanOpen s.me k s = true → Sends i [.spnext k n (opBits .d d)]
      (some (destOf .d .D d s.me, .scalar 0 (opBits .d d) false, 1)) true false false s)) ∧
  (∀ (r : Req) (k n w : Nat) (c : Span) (s : State), Due r s → r.remote = false → r.op = .spnext k n w →
    s.spans.find? (fun c => c.id == k) = some c →
    let claims : State := { s with spans := s.spans.map fun x =>
      if x.id = k then { x with next := min (c.next + n) c.limit } else x }
    (c.limit ≤ c.next → exec (.accessPerform r.id []) s = .next (replied r (2 ^ w - 1) s)) ∧
    (c.next < c.limit → hasReplica c s = false →
      exec (.accessPerform r.id []) s = .next (replied r (c.next % 2 ^ w) claims)) ∧
    (c.next < c.limit → hasReplica c s = true →
      exec (.accessPerform r.id []) s = .next (onward r (.spanAck k n w c.next (min n (c.limit - c.next))) claims))) ∧
  (∀ (r : Req) (k n w base got : Nat) (s : State), Due r s → r.remote = false →
    (r.op = .spanAck k n w base got →
      exec (.accessPerform r.id []) s = .next (onward r (.spanReply k n w base) { s with spans := s.spans.map fun x =>
        if x.id = k then { x with copy := max x.copy (base + got) } else x })) ∧
    (r.op = .spanReply k n w base → exec (.accessPerform r.id []) s = .next (replied r (base % 2 ^ w) s))) ∧
  (∀ (k : BitVec 2) (a : Byte) (s : State), let i := Instr.sbind k a
    let tag := (readOp .d .A a 0 s.me).1 % 256
    let g : Gate := { plainGate i [srcNeed .d .A a 0 s.me] [] with bars := true }
    Ready g s →
    (streamOf k.toNat s.me ≠ none ∨ tagHeld tag s = true → exec i s = .next (cause cStrmBusy tag s)) ∧
    (streamOf k.toNat s.me = none → tagHeld tag s = false → ∃ t, exec i s = .next t ∧
      t = { s with me := t.me } ∧ t.me = { (advance g s).me with streams := t.me.streams } ∧
      streamOf k.toNat t.me = some ⟨tag, []⟩ ∧
      ∀ j, j ≠ k.toNat → streamOf j t.me = streamOf j (advance g s).me)) ∧
  ∀ (k : BitVec 2) (s : State), let i := Instr.sbindOff k
    let g : Gate := { plainGate i [] [] with bars := true }
    Ready g s → ∃ t, exec i s = .next t ∧ t = { s with me := t.me } ∧
      t.me = { (advance g s).me with streams := t.me.streams } ∧ streamOf k.toNat t.me = none ∧
      ∀ j, j ≠ k.toNat → streamOf j t.me = streamOf j s.me

/-- R73, R74, R79, R124, R193 to R200, R330: the instructions on harts, tasks, active messages, spans and streams. (model's
choices: log 50, 51, 52, 61, 108) -/
def Obligations.HartInstructions : Prop := HartsAreCreated ∧ HartsLeave ∧ TasksAreSent ∧ MessagesSpansAndStreams


/-! ### Steps, wakes, limits, interrupts, messages and moves (R63, R64, R74, R79, R80, R84, R113 to R115, R289 to R292) -/

/-- The interrupts that are pending and enabled: HIP with TIMER set while TIME is at least HTCMP, masked by HIE (R290). -/
def Sys2Proof.Claims.enabledInterrupts (h : Hart) (time : Nat) : BitVec 4 :=
  (h.hip &&& 0xD#4 ||| if h.htcmp.toNat ≤ time then 2#4 else 0#4) &&& h.hie

/-- R84, R114, R122, R144, R289 to R292: outside transactions, a stepped hart traps with DBG.STEP before its next issue, a
woken hart presents its instruction again, a wait beyond HWAITLIM ends with WAIT.LIMIT, and the pending enabled interrupt
of highest bit is taken where its bank is open to the hart; TIME reaches HTCMP; a software interrupt or a pre-emption
request leaves for its target; and a word that is no instruction raises ILLEGAL. The harts of a tile out of service do
nothing of this. (model's choices: log 5, 79, 90, 101) -/
def Obligations.HartEvents : Prop :=
  (∀ s : State, present s.me = true → inService s.me.nm s → s.me.txn.depth = 0 →
    let n := s.me.name
    let gone (k : Hart) (t : State) : Prop := t.mem = s.mem ∧ t.me = k ∧ t.wake = s.wake.filter fun e => e.hart != n.toNat
    (s.me.stepped = true → s.me.stat = .running → ∃ t, exec (.dbgStep n) s = .next t ∧
      gone (trapped 14 (BitVec.ofNat 10 (14 * 64 + 15)) s.me.pc 0 false s.me) t) ∧
    (s.me.hwaitlim ≠ 0 → offRotation s.me.stat = true → ∃ t, exec (.waitLimit n) s = .next t ∧
      gone (trapped 4 (BitVec.ofNat 10 (4 * 64 + 15)) s.me.pc 0 true s.me) t) ∧
    ∀ b < 4, let e := enabledInterrupts s.me s.time
      e.getLsbD b = true → (∀ j < 4, b < j → e.getLsbD j = false) → s.me.task = none → s.me.stepped = false →
      s.me.stat = .running ∨ offRotation s.me.stat = true →
      (s.me.mode = .user ∨
        s.me.mode = .kernel ∧ (s.me.fwdeleg.getLsbD 12 = false ∨ s.me.hb.ie = true) ∨
        s.me.mode = .firmware ∧ s.me.fwdeleg.getLsbD 12 = false ∧ s.me.fb.ie = true) →
      ∃ t, exec (.interruptTake n) s = .next t ∧
        gone (trapped 12 (BitVec.ofNat 10 (12 * 64 + 8 * b + 7)) s.me.pc
          (if b = 1 then BitVec.ofNat 64 s.time else s.me.hipVal.getD b 0) (decide (s.me.stat ≠ .running)) s.me) t) ∧
  (∀ (s : State) (l : List Loc), present s.me = true → inService s.me.nm s → s.me.stat = .waiting l → s.me.woken = true →
    ∃ t, exec (.wake s.me.name) s = .next t ∧ t.mem = s.mem ∧ t.me = { s.me with stat := .running, woken := false } ∧
      t.wake = s.wake.filter fun e => e.hart != s.me.name.toNat) ∧
  (∀ s : State, present s.me = true →
    exec (.timer s.me.name) s = .next { s with time := max s.time s.me.htcmp.toNat }) ∧
  (∀ (s : State) (target : Name), present s.me = true → nameExists target.toNat = true →
    tileReach s.me (tileOf target.toNat) s = true →
    ∀ k, (k = 0 ∨ k = 2) → ∃ t m, exec (if k = 0 then .hipiSoft s.me.name target else .hipiPreempt s.me.name target) s =
        .next t ∧
      t.mem = s.mem ∧ t.ipis = s.ipis ++ [m] ∧ m.src = s.me.name.toNat ∧ m.dst = target.toNat ∧ m.bit = k ∧
      m.via = tileOf s.me.nm ∧ (∀ i ∈ s.me.hist ++ s.me.out, i ∈ m.hist) ∧
      t.me = { s.me with hipi := BitVec.ofNat 32 (k * 2 ^ 24 + target.toNat), unacked := s.me.unacked + 1 } ∧
      Sealed (tileOf s.me.name.toNat) (some (tileOf target.toNat)) (keyFor s.me s) m.stamp s t) ∧
  ∀ (word : BitVec 32) (kind site : BitVec 3) (s : State),
    exec (.illegal word kind site) s = .next (cause ⟨0, kind.toNat, site.toNat⟩ word.toNat s)

/-- No message or interrupt that a tile sent to a destination tile before an access number is still on its way (R319). -/
def Sys2Proof.Claims.FirstOf (i via tile : Nat) (s : State) : Prop :=
  (∀ x ∈ s.msgs, x.id < i → x.held = false → x.via = via → x.dst / 512 ≠ tile) ∧
  ∀ x ∈ s.ipis, x.id < i → x.via = via → x.dst / 512 ≠ tile

/-- A message that lets another come first: one sent before it from its tile to its destination's, one of its sender to its
destination, one to the same cell that happens before it, or one held before it at its destination (R64, R108, R319). -/
def Sys2Proof.Claims.LetsOthersPass (m : Msg) (s : State) : Prop :=
  (m.held = false ∧ ¬FirstOf m.id m.via (m.dst / 512) s) ∨
  (∃ x ∈ s.msgs, x.id ≠ m.id ∧
    (x.id < m.id ∧ x.src = m.src ∧ x.dst = m.dst ∨ x.id ∈ m.hist ∧ x.dst / 16 = m.dst / 16)) ∨
  (m.held = true ∧ (s.msgs.find? fun x => x.held && x.dst == m.dst).map (fun x => x.id) ≠ some m.id)

/-- R63, R64, R81, R291, R319: an interrupt sent to a present hart sets its bit of HIP and the value that its trap reports; a
message lands in an empty mailbox, else among the four that wait, else it is held at its destination, behind those held there
before it; messages and interrupts of one tile to another arrive in the order sent, and a message waits for those to the same
cell that happen before it; what is addressed to a slot that nobody holds or moves to is discarded; a tile out of service
delivers nothing; a waypoint passes a message on to its next leg. Each that has ended is acknowledged. -/
def Sys2Proof.Claims.SendsArrive : Prop :=
  (∀ (m : Ipi) (s : State), s.ipis.find? (fun x => x.id == m.id) = some m → m.dst = s.me.name.toNat →
    present s.me = true → inService m.dst s → FirstOf m.id m.via (m.dst / 512) s →
    ∃ t, exec (.ipiDelivery m.id) s = .next t ∧ t.mem = s.mem ∧
      t.ipis = s.ipis.filter (fun x => x.id != m.id) ∧ t.acks = s.acks ++ [m.src] ∧
      t.me = { s.me with
        hip := s.me.hip ||| BitVec.ofNat 4 (2 ^ m.bit), hipVal := setNth s.me.hipVal m.bit (BitVec.ofNat 64 m.src)
        hist := t.me.hist }) ∧
  (∀ (m : Ipi) (s : State), s.ipis.find? (fun x => x.id == m.id) = some m → hartAt m.dst s = none →
    inService m.dst s → FirstOf m.id m.via (m.dst / 512) s → arriving m.dst s = false → forwardTo m.dst s = none →
    ∃ t, exec (.ipiDelivery m.id) s = .next t ∧
      t = { s with ipis := s.ipis.filter (fun x => x.id != m.id), acks := s.acks ++ [m.src], seals := t.seals }) ∧
  (∀ (m : Ipi) (s : State), s.ipis.find? (fun x => x.id == m.id) = some m →
    ¬(inService m.dst s ∧ FirstOf m.id m.via (m.dst / 512) s) → exec (.ipiDelivery m.id) s = .next s) ∧
  (∀ (m : Msg) (s : State), s.msgs.find? (fun x => x.id == m.id) = some m → inService m.dst s → ¬LetsOthersPass m s →
    m.at_ = m.dst / 512 →
    let gone (t : State) : Prop :=
      t.mem = s.mem ∧ t.msgs = s.msgs.filter (fun x => x.id != m.id) ∧ t.acks = s.acks ++ [m.src]
    let queues : Prop := m.held = false ∧ ∃ x ∈ s.msgs, x.held = true ∧ x.dst = m.dst
    (m.dst = s.me.name.toNat → present s.me = true →
      (¬queues → s.me.rxFull = false → s.me.rxq = [] → ∃ t, exec (.messageLand m.id) s = .next t ∧ gone t ∧
        t.me = { s.me with rx := m.val, rxFull := true, hist := t.me.hist, woken := t.me.woken }) ∧
      (¬queues → (s.me.rxFull = true ∨ s.me.rxq ≠ []) → s.me.rxq.length < 4 →
        ∃ t, exec (.messageLand m.id) s = .next t ∧ gone t ∧
          t.me = { s.me with rxq := s.me.rxq ++ [m.val], hist := t.me.hist, woken := t.me.woken }) ∧
      (queues ∨ 4 ≤ s.me.rxq.length → exec (.messageLand m.id) s = .next (if m.held then s else
        { s with msgs := s.msgs.filter (fun x => x.id != m.id) ++ [{ m with held := true }] }))) ∧
    (hartAt m.dst s = none → arriving m.dst s = false → forwardTo m.dst s = none →
      ∃ t, exec (.messageLand m.id) s = .next t ∧ gone t ∧ { t.me with woken := false } = { s.me with woken := false })) ∧
  (∀ (m : Msg) (s : State), s.msgs.find? (fun x => x.id == m.id) = some m → ¬inService m.dst s ∨ LetsOthersPass m s →
    exec (.messageLand m.id) s = .next s) ∧
  ∀ (m : Msg) (s : State), s.msgs = [m] → m.at_ ≠ m.dst / 512 → m.at_ ∉ s.fenced →
    exec (.waypointReinject m.id) s =
      .next { s with msgs := [{ m with
        at_ := (nextLeg m.at_ (m.dst / 512) s).1, turns := (nextLeg m.at_ (m.dst / 512) s).2 }] }

/-- R74, R79 to R82: a hart with no store unacknowledged leaves for the slot that its move finds, with its context and the
replies that it awaits, which its old cell forwards, and what it does there follows every access that it has issued; while
the forwarding table is full it keeps the slot reserved; it arrives and runs; and the slot of a retired hart becomes free
once its stores and sends are acknowledged. -/
def Sys2Proof.Claims.HartsMove : Prop :=
  (∀ (d : MigTo) (s : State), present s.me = true → s.me.stat = .departing d →
    s.me.unacked ≠ 0 ∨ moveSlot d s = none → exec (.migrationDepart s.me.name) s = .next s) ∧
  (∀ (n : Nat) (s : State), present s.me = true → inService s.me.nm s → s.me.unacked = 0 →
    (∃ d, s.me.stat = .departing d ∧ moveSlot d s = some n) ∨ s.me.stat = .leaving n →
    let due := ∃ p ∈ s.pends, p.route = s.me.name.toNat
    ((getCell (cellOf s.me.nm) s).fwd.length < 16 ∨ ¬due →
      ∃ t hist, exec (.migrationDepart s.me.name) s = .next t ∧ t.mem = s.mem ∧ t.me.stat = .free ∧
        t.migs = s.migs ++ [{ s.me with name := BitVec.ofNat 22 n, hist := hist }] ∧
        (∀ x ∈ s.me.hist ++ s.me.out, x ∈ hist) ∧
        (∀ q ∈ s.pends, q.route = s.me.name.toNat → ∀ x ∈ q.hist, x ∈ hist) ∧
        t.pends = s.pends.map fun p => if p.route = s.me.name.toNat then { p with route := n } else p) ∧
    (16 ≤ (getCell (cellOf s.me.nm) s).fwd.length → due →
      ∃ t, exec (.migrationDepart s.me.name) s = .next t ∧ t.me = { s.me with stat := .leaving n } ∧
        slotFree n t = false ∧ t.mem = s.mem ∧ t.migs = s.migs ∧ t.pends = s.pends)) ∧
  (∀ (h : Hart) (s : State), s.migs.find? (fun x => x.name == h.name) = some h → inService h.nm s →
    ∃ t, exec (.migrationArrive h.name) s = .next t ∧ t.mem = s.mem ∧ t.me = s.me ∧
      t.migs = s.migs.filter (fun x => x.name != h.name) ∧
      { h with stat := .running, woken := false, walked := [], walkFaults := [] } ∈ t.harts) ∧
  ∀ s : State, s.me.stat = .retired →
    (s.me.unacked ≠ 0 → exec (.slotRelease s.me.name) s = .next s) ∧
    (s.me.unacked = 0 → inService s.me.nm s → ∃ t, exec (.slotRelease s.me.name) s = .next t ∧ t.mem = s.mem ∧
      t.me.stat = .free ∧
      ∀ e ∈ t.wake, e.hart ≠ s.me.name.toNat)

/-- An access to a bank of another tile's pan: the handler of an active message traps, as does a hart with a stream bound;
any other hart leaves the rotation for the cell that owns the bank, its pc unmoved, to present its instruction again there
(R46, R49, R198). -/
def Sys2Proof.Claims.GoesFar (i : Instr) (tile bank : Nat) (s : State) : Prop :=
  (s.me.handles ≠ none → exec i s = .next (cause cAmsgMigrate 0 s)) ∧
  (s.me.handles = none → s.me.streams ≠ [] → exec i s = .next (cause cStrmMigrate 0 s)) ∧
  (s.me.handles = none → s.me.streams = [] → exec i s = .next { s with me := { s.me with
    stat := .departing (.bank (32 * tile + bank)), woken := false, epoch := s.me.epoch + 1 } })

/-- R44, R46, R49, R198: a hart migrates to the tile that owns a pan before a load, a `fill`, an `ldcap`, a full/empty
form, an atomic or a log instruction there, and inside a transaction before a store too; a gather goes where its first
lane with a pan of another tile lies, and so does a scatter in a transaction. -/
def Sys2Proof.Claims.FarAccessesMigrate : Prop :=
  let cap (c : Nat) (s : State) : Cap := s.me.c.getD c Cap.null
  let goes (i : Instr) (g : Gate) (c off perm : Nat) (write stays : Bool) (k : Kind) (s : State) : Prop :=
    ∀ (a : Acc) (t : Nat), Ready g s → locate s.me (cap c s) off perm write k s = .ok a → a.place = .pan t →
      t ≠ s.me.name.toNat / 512 → (stays = true → s.me.txn.depth ≠ 0) → GoesFar i t (a.u / 2 ^ 16) s
  let load (i : Instr) (o d : Opd) (c : Nat) (s : State) : Prop :=
    goes i (plainGate i (memNeeds o 0 c s.me) [opdTgt .A d s.me]) c (readOpd .B o 0 s.me).1 pR false false
      (.run (opdBits d)) s
  let ldf (i : Instr) (sc : Scale) (o d : Byte) (c : Nat) (s : State) : Prop :=
    goes i (plainGate i (memNeeds (.byte sc o) 0 c s.me) [dstTgt sc .A d s.me]) c (readOp sc .B o 0 s.me).1 (pR + pSync)
      false false (.single (opBits sc d)) s
  let store (i : Instr) (o x : Opd) (c : Nat) (s : State) : Prop :=
    goes i (plainGate i (opdNeed .A x 0 s.me :: memNeeds o (sameStrm x o) c s.me) []) c
      (readOpd .B o (sameStrm x o) s.me).1 pW true true (.run (readOpd .A x 0 s.me).2) s
  let stf (i : Instr) (sc : Scale) (o x : Byte) (c : Nat) (s : State) : Prop :=
    goes i (plainGate i (srcNeed sc .A x 0 s.me :: memNeeds (.byte sc o) (sameStream x o) c s.me) []) c
      (readOp sc .B o (sameStream x o) s.me).1 (pW + pSync) true false (.single (readOp sc .A x 0 s.me).2) s
  let amo (i : Instr) (k : Kind) (srcs : List Need) (o x : Byte) (c : Nat) (s : State) : Prop :=
    goes i (plainGate i (srcs ++ memNeeds (.byte .d o) 0 c s.me) [dstTgt .d .A x s.me]) c (readOp .d .B o 0 s.me).1
      (pR + pW + pAtom) true false k s
  let post (i : Instr) (k : Nat → Kind) (perm : Nat) (fits : Nat → Prop) (o x : Byte) (c : Nat) (s : State) : Prop :=
    fits (readOp .d .A x 0 s.me).2 →
      goes i (plainGate i (srcNeed .d .A x 0 s.me :: memNeeds (.byte .d o) (sameStream x o) c s.me) []) c
        (readOp .d .B o (sameStream x o) s.me).1 perm true false (k (readOp .d .A x 0 s.me).2) s
  let lanes (i : Instr) (g : Gate) (c perm : Nat) (write : Bool) (e : Nat) (idx : List (Option Nat)) (s : State) : Prop :=
    ∀ (first rest : List (Option Acc)) (a : Acc) (t : Nat), Ready g s →
      locateLanes s.me (cap c s) perm write e s idx = .ok (first ++ some a :: rest) → a.place = .pan t →
        t ≠ s.me.name.toNat / 512 →
      (∀ x, some x ∈ first → ∀ t', x.place = .pan t' → t' = s.me.name.toNat / 512) → (write = true → s.me.txn.depth ≠ 0) →
      GoesFar i t (a.u / 2 ^ 16) s
  ∀ (o x : Byte) (k c : BitVec 4) (q : BitVec 1) (h g : BitVec 5) (s : State),
    let n := c.toNat
    let bits := opBits .d x
    let one : List Need := [srcNeed .d .A x 0 s.me]
    let f := opFirst .A x s.me
    let m := opSlices .d x
    let wide (b : Nat) : Prop := b = 32 ∨ b = 64
    load (.ldN o x c) (.byte .n o) (.byte .n x) n s ∧ load (.ldD o x c) (.byte .d o) (.byte .d x) n s ∧
    load (.ldC q h g) (.gran h) (.gran g) (1 + q.toNat) s ∧
    ldf (.ldfeN o x c) .n o x n s ∧ ldf (.ldfeD o x c) .d o x n s ∧ ldf (.ldffN o x c) .n o x n s ∧
    ldf (.ldffD o x c) .d o x n s ∧
    store (.stN o x c) (.byte .n o) (.byte .n x) n s ∧ store (.stD o x c) (.byte .d o) (.byte .d x) n s ∧
    store (.stcN o x c) (.byte .n o) (.byte .n x) n s ∧ store (.stcD o x c) (.byte .d o) (.byte .d x) n s ∧
    store (.stC q h g) (.gran h) (.gran g) (1 + q.toNat) s ∧
    stf (.stefN o x c) .n o x n s ∧ stf (.stefD o x c) .d o x n s ∧ stf (.stffN o x c) .n o x n s ∧
    stf (.stffD o x c) .d o x n s ∧
    (∀ l : Byte, let w := l.toNat + 1
      goes (.spill l o c) (plainGate (.spill l o c) [.cap n, .slices 1 0 o.toNat w] []) n 0 pW true true
        (.bytes ((w + 1) / 2)) s ∧
      goes (.fill l o c) (plainGate (.fill l o c) [.cap n] [.slices o.toNat w]) n 0 pR false false
        (.bytes ((w + 1) / 2)) s) ∧
    goes (.ldcap o k c) (plainGate (.ldcap o k c) [.cap n, srcNeed .d .B o 0 s.me] [.cap k.toNat]) n
      (readOp .d .B o 0 s.me).1 pR false false (.pair false) s ∧
    goes (.stcap o k c) (plainGate (.stcap o k c) [.cap k.toNat, .cap n, srcNeed .d .B o 0 s.me] []) n
      (readOp .d .B o 0 s.me).1 (if (cap k.toNat s).tag then pW + pScap else pW) true true (.pair (cap k.toNat s).tag) s ∧
    (∀ i ∈ [Instr.amoAdd o x c, .amoAnd o x c, .amoOr o x c, .amoXor o x c, .amoMin o x c, .amoMax o x c, .amoSwap o x c],
      amo i (.atomic bits) one o x n s) ∧
    amo (.amaxRst o x c) (.atomic bits) [] o x n s ∧
    amo (.amoCas o x c) (.atomic bits) [.slices 1 0 f m, .slices 1 0 (f + m) m] o x n s ∧
    amo (.amoFadd o x c) .fadd one o x n s ∧ amo (.amoFaddF16 o x c) .fadd one o x n s ∧
    (∀ i ∈ [Instr.amoAddPost o x c, .amoAndPost o x c, .amoOrPost o x c, .amoXorPost o x c, .amoMinPost o x c,
        .amoMaxPost o x c, .amoSwapPost o x c], post i .atomic (pR + pW + pAtom) wide o x n s) ∧
    post (.amoFaddPost o x c) (fun _ => .fadd) (pR + pW + pAtom) (fun b => b = 16 ∨ b = 32) o x n s ∧
    post (.amoFaddF16Post o x c) (fun _ => .fadd) (pR + pW + pAtom) (fun b => b = 16) o x n s ∧
    post (.lapp o x c) .log (pW + pAtom) (fun _ => True) o x n s ∧
    goes (.lmerge x c) { plainGate (.lmerge x c) [.cap n] [dstTgt .d .A x s.me] with bars := true } n 0
      (pR + pW + pAtom) true false .first s ∧
    goes (.vld o x c) (vGate (.vld o x c) (memNeeds (.byte .d o) 0 n s.me) [.vec (x.toNat % 16)]) n
      (readOp .d .B o 0 s.me).1 pR false false (if opMod x = 1 then .block (vEw x) else .line) s ∧
    goes (.vst o x c) (vGate (.vst o x c) (vecNeed .A (x.toNat % 16) :: memNeeds (.byte .d o) 0 n s.me) []) n
      (readOp .d .B o 0 s.me).1 pW true true (if opMod x = 1 then .block (vEw x) else .line) s ∧
    lanes (.vgat o x c) (vGate (.vgat o x c) [.cap n, vecNeed .B (o.toNat % 16)] [.vec (x.toNat % 16)]) n pR false (vEw x)
      (laneIndices (vEw x) (vEw o) (s.me.v.getD (o.toNat % 16) 0).toNat) s ∧
    lanes (.vsct o x c) (vGate (.vsct o x c) [vecNeed .A (x.toNat % 16), .cap n, vecNeed .B (o.toNat % 16)] []) n pW true
      (vEw x) (laneIndices (vEw x) (vEw o) (s.me.v.getD (o.toNat % 16) 0).toNat) s

/-- R63, R64, R74, R79 to R81, R291, R318: messages, interrupts and migrations on their way. (model's choices: log 11, 44,
69, 84, 90, 111) -/
def Obligations.MessagesAndMoves : Prop := SendsArrive ∧ HartsMove ∧ FarAccessesMigrate

/-- R76, R118, R124 to R126, R197, R198, R327, R328: a task reaches its unit; the unit starts its task of least key,
spilled tasks among them as room frees, on a free slot, with its arguments and timestamp in granules 0 to 3; the frontier
is the least key that is not committed; a task whose body has ended and whose key is the frontier commits and leaves its
slot; a task that must roll back is queued again with its key, in the unit, the spill area or the mesh; and slot 15 starts
the handler of the oldest message. (model's choices: log 25, 50, 95) -/
def Obligations.TaskEvents : Prop :=
  (∀ (i : Nat) (e : TaskEnq) (s : State), lookupNat i s.enqs = some e → runnerOf (parentKey e.key) s = none →
    ∃ t, exec (.taskArrive i) s = .next t ∧ t.mem = s.mem ∧ t.me = s.me ∧
      ((getTile e.tile s).tasks.length < 256 → t.enqs = s.enqs.filter (fun x => x.1 != i) ∧
        t.acks = s.acks ++ (if e.acked then [] else [e.src]) ∧
        getTile e.tile t = { getTile e.tile s with
          tasks := (getTile e.tile s).tasks ++ [{ e with acked := true }] }) ∧
      (256 ≤ (getTile e.tile s).tasks.length → spillShare e.tile s ≤ (getTile e.tile s).spill.length → t = s)) ∧
  (∀ (tile : BitVec 13) (e : TaskEnq) (n : Nat) (s : State), let u := getTile tile.toNat s
    let queued := u.tasks ++ if u.tasks.length < 256 then (leastTask u.spill).toList else []
    leastTask (queued.filter fun e => e.wakeOn.isNone) = some e → freeInTile tile.toNat s = some n →
    tasksRunning tile.toNat s < 64 →
    ∃ t k, exec (.taskStart tile) s = .next t ∧ t.mem = s.mem ∧ t.me = s.me ∧ k ∈ t.harts ∧
      k.name = BitVec.ofNat 22 n ∧ k.pc = e.pc ∧ k.mode = e.mode ∧ k.c = e.caps ∧ k.cbad = e.cbad ∧ k.stat = .running ∧
      k.txn.depth = 1 ∧ (k.task.map fun x => x.key) = some e.key ∧
      readSlices k.slices 0 8 = e.a0.toNat ∧ readSlices k.slices 8 8 = e.a1.toNat ∧ readSlices k.slices 16 8 = e.a2.toNat ∧
      (∀ stamp key m, e.key = .node stamp key m → readSlices k.slices 24 8 = stamp % 2 ^ 32) ∧
      (u.spill = [] → (getTile tile.toNat t).tasks = u.tasks.filter fun x => x.key != e.key)) ∧
  (∀ (n : BitVec 4) (p : Partition) (s : State), s.parts = [p] → p.n = n.toNat →
    ∃ k, exec (.frontierReport n) s = .next { s with parts := [{ p with frontier := k }] } ∧
      (k = none ↔ uncommitted p s = []) ∧
      ∀ x, k = some x → (∃ e ∈ uncommitted p s, e.key = x) ∧ ∀ e ∈ uncommitted p s, keyLt e.key x = false) ∧
  (∀ (k : TaskRun) (p : Partition) (s : State), s.me.stat = .taskDone → s.me.task = some k → s.me.txn.doom = none →
    s.me.unacked = 0 → partitionOf k.enq.tile s = some p → p.frontier = some k.key → txnBusy s.me.txn.id s = false →
    roomFor (heldOps s.me) s = true → commitWaits s.me s = false →
    ∃ t, exec (.taskCommit s.me.name) s = .next t ∧
      ((∀ o ∈ s.me.txn.buf, ∀ e, o.2.2 ≠ .task e) → t.me.stat = .free) ∧
      (s.me.txn.buf = [] → t.mem = s.mem ∧ t.accs = s.accs) ∧ (MayApply s → Applied s t)) ∧
  (∀ (k : TaskRun) (status detail : Nat) (s : State), present s.me = true → (∀ p, s.me.stat ≠ .held p) →
    s.me.task = some k → s.me.txn.depth ≠ 0 → s.me.unacked = 0 → s.me.txn.doom = some (status, detail) →
    ∃ t, exec (.taskRollback s.me.name) s = .next t ∧ t.mem = s.mem ∧ t.accs = s.accs ∧ t.logs = s.logs ∧
      t.me.stat = .free ∧ let again := { k.enq with wakeOn := none }
      ((getTile k.enq.tile s).tasks.length < 256 → again ∈ (getTile k.enq.tile t).tasks) ∧
      (again ∈ (getTile k.enq.tile t).tasks ++ (getTile k.enq.tile t).spill ++ t.enqs.map fun e => e.2) ∧
      ∀ e ∈ (getTile k.enq.tile t).tasks, descends k.key e.key = false ∨ e = again) ∧
  ∀ (cell : BitVec 18) (m : AmReq) (l : List AmReq) (s : State), (getCell cell.toNat s).amq = m :: l →
    slotFree (cell.toNat * 16 + 15) s = true → cell.toNat / 32 ∉ s.fenced →
    ∃ t k, exec (.amsgHandlerStart cell) s = .next t ∧ t.mem = s.mem ∧ t.me = s.me ∧ (getCell cell.toNat t).amq = l ∧
      k ∈ t.harts ∧ k.name = BitVec.ofNat 22 (cell.toNat * 16 + 15) ∧ k.mode = m.mode ∧ k.stat = .running ∧
      k.pc = BitVec.ofNat 54 (aligned ((getCell cell.toNat s).hamvec.toNat + 64 * m.sub) 1) ∧
      readSlices k.slices 0 16 = m.arg.toNat ∧ k.c = m.cap :: List.replicate 15 Cap.null ∧
      k.handles = some (m.sender, m.pend)


/-! ### Vectors (R205 to R225) -/

/-- Lane j of width e of a register that an operand byte names (R133, R205). -/
def Sys2Proof.Claims.laneOf (h : Hart) (x : Byte) (e j : Nat) : BitVec e :=
  (h.v.getD (x.toNat % 16) 0).extractLsb' (e * j) e

/-- The width that an operand byte names (R205). -/
def Sys2Proof.Claims.widthOf (x : Byte) : Nat := 8 * 2 ^ (x.toNat / 64)

/-- A ready instruction writes n lanes of width e to D, which is then full and sound, and clears the bits above them. -/
def Sys2Proof.Claims.WritesLanes (i : Instr) (needs : Hart → List Need) (d : Byte) (e n : Nat)
    (val : Hart → Nat → Nat) : Prop :=
  WellFormed i → ∀ s : State, let g : Gate := vGate i (needs s.me) [.vec (d.toNat % 16)]
    Ready g s → ∃ r : Line,
      exec i s = .next (modMe (fun h => { h with
        v := setNth h.v (d.toNat % 16) r, vfull := h.vfull ||| BitVec.twoPow 16 (d.toNat % 16)
        vbad := h.vbad &&& ~~~BitVec.twoPow 16 (d.toNat % 16) }) (advance g s)) ∧
      (∀ j < n, (r.extractLsb' (e * j) e).toNat = val s.me j % 2 ^ e) ∧ ∀ k < 512, e * n ≤ k → r.getLsbD k = false

/-- Lane by lane over A and B, in D's width. -/
def Sys2Proof.Claims.LanesOfTwo (mk : Byte → Byte → Byte → Instr)
    (f : (b a d : Byte) → (x y : BitVec (widthOf d)) → Nat) : Prop :=
  ∀ b a d : Byte, WritesLanes (mk b a d) (fun _ => needsAB a b) d (widthOf d) (512 / widthOf d) fun h j =>
    f b a d (laneOf h a (widthOf d) j) (laneOf h b (widthOf d) j)

/-- Lane by lane over A, in D's width. -/
def Sys2Proof.Claims.LanesOfOne (mk : Byte → Byte → Instr) (f : (d : Byte) → (x : BitVec (widthOf d)) → Nat) : Prop :=
  ∀ a d : Byte, WritesLanes (mk a d) (fun _ => [vecNeed .A (a.toNat % 16)]) d (widthOf d) (512 / widthOf d) fun h j =>
    f d (laneOf h a (widthOf d) j)

/-- A lane as the integer of an integer type: signed for MOD 0, unsigned for MOD 1 (R206). -/
def Sys2Proof.Claims.laneInt (d : Byte) {e : Nat} (x : BitVec e) : Int := if opMod d = 0 then x.toInt else x.toNat

/-- The greatest and the least integer of an integer type of a width. -/
def Sys2Proof.Claims.typeMax (d : Byte) (e : Nat) : Int := if opMod d = 0 then 2 ^ (e - 1) - 1 else 2 ^ e - 1
def Sys2Proof.Claims.typeMin (d : Byte) (e : Nat) : Int := if opMod d = 0 then -2 ^ (e - 1) else 0

/-- The float format that a type byte names (R206). -/
def Sys2Proof.Claims.floatOf (d : Byte) : FloatFmt :=
  match d.toNat / 64, opMod d with
  | 0, 2 => e4m3
  | 0, _ => e5m2
  | 1, 2 => fp16
  | 1, _ => bf16
  | _, _ => fp32

/-- The exact value of a lane of a type. -/
def Sys2Proof.Claims.laneVal (d : Byte) {e : Nat} (x : BitVec e) : FVal :=
  if opMod d ≤ 1 then ofInt (laneInt d x) else floatVal (floatOf d) x.toNat

/-- R208 to R210: add, subtract, multiply and fused multiply-add: an integer lane takes the exact result, which wraps, or
is clamped where B's MOD asks; a float lane is rounded once, in the mode of the MODs, with the lane's random bits where the
mode is stochastic. -/
def Sys2Proof.Claims.VectorArithmetic : Prop :=
  let arith (mk : Byte → Byte → Byte → Instr) (fma : Bool) (fi : Int → Int → Int → Int) (ff : FVal → FVal → FVal → FVal) :
      Prop := ∀ b a d : Byte, let e := widthOf d
    let random := decide (2 ≤ opMod d) && vrm a b == 4
    let next := (d.toNat % 16 + 1) % 16
    WritesLanes (mk b a d)
      (fun _ => needsAB a b ++ (if fma then [vecNeed .D (d.toNat % 16)] else []) ++
        (if random then [.vec 3 4 next] else []))
      d e (512 / e) fun h j =>
        let x := laneOf h a e j
        let y := laneOf h b e j
        let z := laneOf h d e j
        if opMod d ≤ 1 then
          let r := fi (laneInt d x) (laneInt d y) (laneInt d z)
          (BitVec.ofInt e (if opMod b % 2 = 1 then max (typeMin d e) (min (typeMax d e) r) else r)).toNat
        else roundFloat (floatOf d) (vrm a b) ((h.v.getD next 0).extractLsb' (16 * j) 16).toNat
          (ff (laneVal d x) (laneVal d y) (laneVal d z))
  arith .vadd false (fun x y _ => x + y) (fun x y _ => addF x y) ∧
  arith .vsub false (fun x y _ => x - y) (fun x y _ => addF x (negF y)) ∧
  arith .vmul false (fun x y _ => x * y) (fun x y _ => mulF x y) ∧
  arith .vfma true (fun x y z => x * y + z) (fun x y z => addF (mulF x y) z)

/-- R209 to R213: minimum and maximum, magnitude, negation, counts, bitwise operations, shifts and compares. -/
def Sys2Proof.Claims.VectorLaneOperations : Prop :=
  let pick (greater : Bool) (d : Byte) (x y : BitVec (widthOf d)) : Nat :=
    if opMod d ≤ 1 then (if (laneInt d y < laneInt d x) ↔ greater = true then x else y).toNat
    else if laneVal d x = .nan ∨ laneVal d y = .nan then canonicalNan (floatOf d)
    else (if ltZero (laneVal d y) (laneVal d x) = greater then x else y).toNat
  let sign (d : Byte) : Nat := widthOf d - 1
  let truth (d : Byte) (p : Bool) : Nat := if p then (BitVec.allOnes (widthOf d)).toNat else 0
  LanesOfTwo .vmin (fun _ _ d x y => pick false d x y) ∧ LanesOfTwo .vmax (fun _ _ d x y => pick true d x y) ∧
  LanesOfOne .vabs (fun d x => if opMod d = 1 then x.toNat else if opMod d = 0 then x.toInt.natAbs
    else if laneVal d x = .nan then canonicalNan (floatOf d) else (x &&& ~~~BitVec.twoPow (widthOf d) (sign d)).toNat) ∧
  LanesOfOne .vneg (fun d x => if opMod d ≤ 1 then (-x).toNat
    else if laneVal d x = .nan then canonicalNan (floatOf d) else (x ^^^ BitVec.twoPow (widthOf d) (sign d)).toNat) ∧
  LanesOfOne .vpopc (fun d x => ((List.range (widthOf d)).filter fun i => x.getLsbD i).length) ∧
  LanesOfTwo .vand (fun _ _ _ x y => (x &&& y).toNat) ∧ LanesOfTwo .vor (fun _ _ _ x y => (x ||| y).toNat) ∧
  LanesOfTwo .vxor (fun _ _ _ x y => (x ^^^ y).toNat) ∧
    LanesOfTwo .vshl (fun _ _ d x y => if widthOf d ≤ y.toNat then 0 else (x <<< y.toNat).toNat) ∧
  LanesOfTwo .vshr (fun _ _ d x y => (if opMod d = 0 then x.sshiftRight y.toNat else x >>> y.toNat).toNat) ∧
  LanesOfTwo .vcmp (fun b a d x y =>
    if opMod d ≤ 1 then
      let x := laneInt d x
      let y := laneInt d y
      truth d (match vcc a b with
        | 0 => decide (x = y)
        | 1 => decide (x ≠ y)
        | 2 => decide (x < y)
        | 3 => decide (y ≤ x)
        | 4 => decide (x ≤ y)
        | _ => decide (y < x))
    else
      let x := laneVal d x
      let y := laneVal d y
      truth d (match vcc a b with
        | 0 => eqF x y
        | 1 => !eqF x y
        | 2 => ltF x y
        | 3 => ltF y x || eqF x y
        | 4 => ltF x y || eqF x y
        | _ => ltF y x))

/-- R205 to R213: the lane by lane results of the vector instructions. -/
def Obligations.VectorLaneResults : Prop := VectorArithmetic ∧ VectorLaneOperations

/-- A node of the tree over the lanes (R101): level 0 is the lanes, and each level combines neighbours. -/
def Sys2Proof.Claims.treeNode (f : Nat → Nat → Nat) (leaf : Nat → Nat) : Nat → Nat → Nat
  | 0, i => leaf i
  | k + 1, i => f (treeNode f leaf k (2 * i)) (treeNode f leaf k (2 * i + 1))

/-- R101, R205, R214 to R221: select, broadcast, permute, pack and spread, convert, reduce in the fixed tree, grouped dot
products, and the intersection of two bitmaps, which also writes the register after D. -/
def Obligations.VectorWholeRegisterResults : Prop :=
  let selected (h : Hart) (b : Byte) (e n : Nat) : List Nat := (List.range n).filter fun i => laneOf h b e i != 0
  let bits (h : Hart) (x : Byte) : Line := h.v.getD (x.toNat % 16) 0
  (∀ b a d : Byte, let e := widthOf d
    WritesLanes (.vsel b a d) (fun _ => needsAB a b ++ [vecNeed .D (d.toNat % 16)]) d e (512 / e) fun h j =>
      (if laneOf h d e j = 0 then laneOf h b e j else laneOf h a e j).toNat) ∧
  (∀ x d : Byte, let e := widthOf d
    WritesLanes (.vbcast x d) (fun h => [srcNeed .d .A x 0 h]) d e (512 / e) fun h _ =>
      (ext (if opMod d = 0 then .S else .Z) (readOp .d .A x 0 h) e).toNat) ∧
  (∀ b a d : Byte, let e := widthOf d
    WritesLanes (.vperm b a d) (fun _ => needsAB a b) d e (512 / e) fun h j =>
      (laneOf h a e ((laneOf h b e j).toNat % (512 / e))).toNat) ∧
  (∀ b a d : Byte, let e := widthOf d
    WritesLanes (.vcomp b a d) (fun _ => needsAB a b) d e (512 / e) fun h j =>
      (((selected h b e (512 / e)).map fun i => (laneOf h a e i).toNat)[j]?).getD 0) ∧
  (∀ b a d : Byte, let e := widthOf d
    WritesLanes (.vexp b a d) (fun _ => needsAB a b) d e (512 / e) fun h j =>
      if laneOf h b e j = 0 then 0 else (laneOf h a e (selected h b e j).length).toNat) ∧
  (∀ (r : BitVec 3) (q : BitVec 4) (a d : Byte), let e := max (widthOf d) (widthOf a)
    let next := (q.toNat + 1) % 16
    WritesLanes (.vcvt r q a d) (fun _ => vecNeed .A (a.toNat % 16) ::
        (if r = 4 then [.vec 2 4 q.toNat, .vec 2 4 next] else [])) d (widthOf d) (512 / e) fun h j =>
      let rho := ((h.v.getD (if j < 32 then q.toNat else next) 0).extractLsb' (16 * (j % 32)) 16).toNat
      let x := laneVal a (laneOf h a (widthOf a) j)
      if opMod d ≤ 1 then
        (BitVec.ofInt (widthOf d) (roundInt (typeMin d (widthOf d)) (typeMax d (widthOf d)) r.toNat rho x)).toNat
      else roundFloat (floatOf d) r.toNat rho x) ∧
  (∀ (o : BitVec 2) (a d : Byte), let e := widthOf d
    let step (m n : Nat) : Nat :=
      let x := BitVec.ofNat e m
      let y := BitVec.ofNat e n
      match o.toNat with
      | 0 => if opMod d ≤ 1 then (x + y).toNat else roundFloat (floatOf d) 0 0 (addF (laneVal d x) (laneVal d y))
      | k =>
        if opMod d ≤ 1 then (if (laneInt d y < laneInt d x) ↔ k = 2 then x else y).toNat
        else if laneVal d x = .nan ∨ laneVal d y = .nan then canonicalNan (floatOf d)
        else (if ltZero (laneVal d y) (laneVal d x) = decide (k = 2) then x else y).toNat
    WritesLanes (.vred o a d) (fun _ => [vecNeed .A (a.toNat % 16)]) d e 1 fun h _ =>
      treeNode step (fun j => (laneOf h a e j).toNat) (log2 (512 / e)) 0) ∧
  (∀ b a d : Byte, let e := widthOf a
    let n := 32 / e
    WritesLanes (.vdot b a d) (fun _ => needsAB a b ++ [vecNeed .D (d.toNat % 16)]) d 32 16 fun h j =>
      let at_ (k : Nat) : Nat := n * j + k
      if opMod d ≤ 1 then (BitVec.ofInt 32 (((List.range n).map fun k =>
        laneInt a (laneOf h a e (at_ k)) * laneInt b (laneOf h b e (at_ k))).sum + laneInt d (laneOf h d 32 j))).toNat
      else roundFloat fp32 0 0 (((List.range n).map fun k =>
        mulF (laneVal a (laneOf h a e (at_ k))) (laneVal b (laneOf h b e (at_ k)))).foldl addF (laneVal d (laneOf h d 32 j)))) ∧
  ∀ (b a d : Byte) (s : State), let k := opMod a * 4 + opMod b
    let x := bits s.me a
    let y := bits s.me b
    let next := (d.toNat % 16 + 1) % 16
    let g := vGate (.visect b a d) (needsAB a b) [.vec (d.toNat % 16), .vec next]
    let common := (List.range 32).filter fun i => x.getLsbD (32 * k + i) && y.getLsbD (32 * k + i)
    let rank (z : Line) (j : Nat) : Nat := match common[j]? with
      | some p => ((List.range (32 * k + p)).filter fun i => z.getLsbD i).length
      | none => 0xFFFF
    Ready g s → ∃ t, exec (.visect b a d) s = .next t ∧
      t = { s with me := { (advance g s).me with
        v := t.me.v
        vfull := s.me.vfull ||| BitVec.twoPow 16 (d.toNat % 16) ||| BitVec.twoPow 16 next
        vbad := s.me.vbad &&& ~~~BitVec.twoPow 16 (d.toNat % 16) &&& ~~~BitVec.twoPow 16 next } } ∧
      (s.me.v.length = 16 → ∀ j < 32, laneOf t.me d 16 j = BitVec.ofNat 16 (rank x j) ∧
        (t.me.v.getD next 0).extractLsb' (16 * j) 16 = BitVec.ofNat 16 (rank y j))

/-- The located lanes of a gather or a scatter reach memory: all checks pass, no lane needs a migration, and none that is
read has failed. -/
def Sys2Proof.Claims.LanesPass (g : Gate) (c : Cap) (perm : Nat) (write : Bool) (e : Nat) (idx : List (Option Nat))
    (l : List (Option Acc)) (s : State) : Prop :=
  Ready g s ∧ locateLanes s.me c perm write e s idx = .ok l ∧ (∀ a, some a ∈ l → migrates s.me a write = none) ∧
    (write = false → lanesFault s.me e l s = none)

/-- R205, R222 to R225, R181, R360: `vld` reads and `vst` writes the line, or the eight plane rows, of its run, with a
block's units in Z-order; `vgat` reads and `vsct` writes one element for each lane whose index is not all ones, and a
gather without an active lane writes zeros at once, and one with some reads each lane as the page that it reaches says.
(model's choices: log 49, 55, 76) -/
def Obligations.VectorMemory : Prop :=
  (∀ (o d : Byte) (c : BitVec 4) (s : State) (a : Acc), let i := Instr.vld o d c
    let g := tagged (vGate i (memNeeds (.byte .d o) 0 c.toNat s.me) [.vec (d.toNat % 16)]) (readParts a)
    let blk := if opMod d = 1 then widthOf d else 0
    let ops := match planesOf a.fmt with
      | some _ => loadOps a
      | none => (runReads a 512 0).map ReqSpec.op
    Passes g (s.me.c.getD c.toNat Cap.null) (readOp .d .B o 0 s.me).1 pR false false 512
      (if opMod d = 1 then .block (widthOf d) else .line) a s →
    Sends i ops (some (.vec (d.toNat % 16), (match planesOf a.fmt with
      | some k => .planesLine k blk
      | none => .line (sixBit a.fmt) blk), ops.length)) true false false s) ∧
  (∀ (o d : Byte) (c : BitVec 4) (s : State) (a : Acc), let i := Instr.vst o d c
    let g := vGate i (vecNeed .A (d.toNat % 16) :: memNeeds (.byte .d o) 0 c.toNat s.me) []
    let v := (s.me.v.getD (d.toNat % 16) 0).toNat
    let v := if opMod d = 1 then unblockLanes (widthOf d) v else v
    let ops := match planesOf a.fmt with
      | some k => (planeWrites a.place a.u 64 k v).map fun o => .write [o]
      | none => (runWrites a 512 (storeVal a.fmt v 64) (farPan s.me a.place).isSome).map ReqSpec.op
    Passes g (s.me.c.getD c.toNat Cap.null) (readOp .d .B o 0 s.me).1 pW true true 0
      (if opMod d = 1 then .block (widthOf d) else .line) a s →
    Sends i ops none true false true s) ∧
  (∀ (x d : Byte) (c : BitVec 4) (s : State) (l : List (Option Acc)), let i := Instr.vgat x d c
    let e := widthOf d
    let g := tagged (vGate i [.cap c.toNat, vecNeed .B (x.toNat % 16)] [.vec (d.toNat % 16)]) (lanesParts l)
    LanesPass g (s.me.c.getD c.toNat Cap.null) pR false e
      (laneIndices e (widthOf x) (s.me.v.getD (x.toNat % 16) 0).toNat) l s →
    ((∀ o ∈ l, o = none) → ∃ t, exec i s = .next t ∧ t.reqs = s.reqs ∧ t.mem = s.mem ∧
      t.me = { (advance g s).me with v := setNth s.me.v (d.toNat % 16) 0
                                     vfull := s.me.vfull ||| BitVec.twoPow 16 (d.toNat % 16)
                                     vbad := s.me.vbad &&& ~~~BitVec.twoPow 16 (d.toNat % 16) }) ∧
    (0 < lanesParts l → Sends i ((lanesReads 0 0 l).map ReqSpec.op)
      (some (.vec (d.toNat % 16), .lanes e (lanesAt 0 l),
        lanesParts l)) true false false s)) ∧
  ∀ (x d : Byte) (c : BitVec 4) (s : State) (l : List (Option Acc)), let i := Instr.vsct x d c
    let e := widthOf d
    let g := vGate i [vecNeed .A (d.toNat % 16), .cap c.toNat, vecNeed .B (x.toNat % 16)] []
    LanesPass g (s.me.c.getD c.toNat Cap.null) pW true e
      (laneIndices e (widthOf x) (s.me.v.getD (x.toNat % 16) 0).toNat) l s →
    Sends i ((List.range l.length).flatMap fun j => match l.getD j none with
      | some a => storeOps a e (laneOf s.me d e j).toNat
      | none => []) none true false true s

/-! ### Operand memory, the matrix unit and semaphores (R98 to R100, R227 to R244, R361) -/

/-- What a stage or matrix instruction reads and writes: it may not stand in a transaction (R121). -/
def Sys2Proof.Claims.unitOf (i : Instr) (e : ExtSet) (needs : List Need) (tgts : List Tgt) : Gate :=
  { plainGate i needs tgts with set := e, bars := true }

/-- The tile of the hart with the turn, its units, and a slot of it. -/
def Sys2Proof.Claims.ownTile (s : State) : Nat := s.me.name.toNat / 512
def Sys2Proof.Claims.slotAt (k : Nat) (s : State) : Slot := (getTile (ownTile s) s).slots.getD k Slot.init

/-- One slot of a tile replaced. -/
def Sys2Proof.Claims.putSlot (tile k : Nat) (v : Slot) (s : State) : State :=
  setTile tile { getTile tile s with slots := (getTile tile s).slots.set k v } s

/-- A slot that a stage instruction may name: CLAIMED and unpinned. -/
def Sys2Proof.Claims.open_ (v : Slot) : Prop := v.state = .claimed ∧ v.pins = 0

/-- An issued fill: it joins its tile and the work of its hart, what the hart does later follows it, and the fill count of
its slot rises by one. -/
def Sys2Proof.Claims.StartsFill (i : Instr) (g : Gate) (k : Nat) (f : Fill) (s : State) : Prop :=
  let t := getTile (ownTile s) s
  let v := slotAt k s
  f.id = s.ids ∧ f.slot = k ∧ f.key = keyFor s.me s ∧ f.after = s.me.hist ++ s.me.out ∧
  exec i s = .next (modMe (fun h => { h with work := h.work ++ [f.id], hist := h.hist ++ [f.id] })
    (setTile (ownTile s) { t with fills := t.fills ++ [f], slots := t.slots.set k { v with fills := v.fills + 1 } }
      { advance g s with ids := s.ids + 1 }))

/-- The units of a source lie in its capability's block, and, in global space, on pages of one format that passes a test,
whose translations walks have found; those of a pan are decoded in a format that passes it. -/
def Sys2Proof.Claims.SourceReady (c : Cap) (off n fmt : Nat) (ok : Nat → Prop) (maps : List Mapping) (s : State) : Prop :=
  capFault c pR = none ∧ (capSpace c ≤ 1 ∨ capSpace c = 2 ∧ capTile c = ownTile s) ∧
  (∀ z < n, unitInBlock c fmt (off + z) = true) ∧
  if capSpace c = 0 then
    coverUnits s.me (capPath c + off) n s = ⟨maps, none, none⟩ ∧
    ∃ F, ok F ∧ ∀ z < n, ∃ m, mapAt maps (capPath c + off + z) = some m ∧ m.fmt = F ∧ m.src ≠ 3
  else maps = [] ∧ ok fmt

/-- R232 to R236, R361: `mclaim` takes the lowest free slot, with no element present and every scale 1, or waits;
`mrel` frees an open slot, at its last fill if some are in flight; `mfill` and `mscale` start a fill of an open slot
once their checks pass, in the order of the checks. (model's choices: log 29, 58, 70) -/
def Obligations.StageInstructions : Prop :=
  (∀ (f : BitVec 6) (d : Byte) (s : State), let i := Instr.mclaim f d
    let g := unitOf i .S [] [dstTgt .d .D d s.me]
    Ready g s →
    ((∀ v ∈ (getTile (ownTile s) s).slots, v.state ≠ .free) → (getTile (ownTile s) s).slots.length = 16 →
      exec i s = .next (waitOn [.opm (ownTile s)] s)) ∧
    ∀ k < 16, (getTile (ownTile s) s).slots.length = 16 → (slotAt k s).state = .free →
      (∀ j < k, (slotAt j s).state ≠ .free) →
      ∃ v, exec i s = .next (writeOp .d .D d k (putSlot (ownTile s) k v (advance g s))) ∧
        v.state = .claimed ∧ v.fmt = f.toNat ∧ v.fills = (slotAt k s).fills ∧ v.pins = (slotAt k s).pins ∧
        ∀ x q, slotElem v x q = none ∧ slotScale v x q = 0x7F) ∧
  (∀ (a : Byte) (s : State), let i := Instr.mrel a
    let k := (readOp .d .A a 0 s.me).1
    let v := slotAt k s
    let g := unitOf i .S [srcNeed .d .A a 0 s.me] []
    Ready g s →
    (¬(k < 16 ∧ open_ v) → exec i s = .next (cause cMtxSlot k s)) ∧
    (k < 16 → open_ v → v.fills = 0 → exec i s =
      .next (signalAll (.opm (ownTile s)) (putSlot (ownTile s) k { v with state := .free, bad := [], found := false } (advance g s)))) ∧
    (k < 16 → open_ v → v.fills ≠ 0 → exec i s = .next (modMe
      (fun h => { h with rels := h.rels ++ ((getTile (ownTile s) s).fills.filter fun f => f.slot == k).map Fill.id })
      (putSlot (ownTile s) k { v with state := .releasing } (advance g s))))) ∧
  (∀ (b a : Byte) (s : State) (maps : List Mapping), let i := Instr.mfill b a
    let xm := (s.me.xm.getD 0 0).toNat
    let pl := (readOp .d .A a 0 s.me).1
    let off := (readOp .d .B b (sameStream a b) s.me).1
    let c := s.me.c.getD (xm % 16) Cap.null
    let k := pl % 16
    let side := 32 * 2 ^ (xm / 2 ^ 10 % 4)
    let x0 := pl / 2 ^ 6 % 2 ^ 7
    let k0 := pl / 2 ^ 13 % 2 ^ 10
    let fmt := xm / 2 ^ 4 % 2 ^ 6
    let fits := x0 % 32 = 0 ∧ k0 % 32 = 0 ∧ x0 + side ≤ 128 ∧ k0 + side ≤ slotK (slotAt k s).fmt ∧ xm / 2 ^ 10 % 4 ≠ 3
    let g := unitOf i .S [srcNeed .d .A a 0 s.me, srcNeed .d .B b (sameStream a b) s.me, .cap (xm % 16)] []
    Ready g s →
    (¬open_ (slotAt k s) → exec i s = .next (cause cMtxSlot k s)) ∧
    (open_ (slotAt k s) → ¬fits → exec i s = .next (cause (cMtxRange 1) pl s)) ∧
    (open_ (slotAt k s) → fits → ∀ e, capFault c pR = some e → exec i s = .next (cause e (capPath c + off) s)) ∧
    (open_ (slotAt k s) → fits → SourceReady c off (side * side) fmt (fun F => 32 ≤ F) maps s →
      ∃ f, StartsFill i g k f s ∧ f.op = .square (pl.testBit 4) x0 k0 side ∧ f.off = off ∧ f.cap = c ∧ f.fmt = fmt ∧
        f.maps = maps ∧ f.pan = if capSpace c = 0 then none else some (ownTile s))) ∧
  ∀ (b a : Byte) (s : State) (maps : List Mapping), let i := Instr.mscale b a
    let xm := (s.me.xm.getD 0 0).toNat
    let pl := (readOp .d .A a 0 s.me).1
    let bv := (readOp .d .B b (sameStream a b) s.me).1
    let c := s.me.c.getD (xm % 16) Cap.null
    let k := pl % 16
    let v := slotAt k s
    let g := unitOf i .S ([srcNeed .d .A a 0 s.me, srcNeed .d .B b (sameStream a b) s.me] ++
      if pl.testBit 4 then [.cap (xm % 16)] else []) []
    Ready g s →
    (¬open_ v → exec i s = .next (cause cMtxSlot k s)) ∧
    (open_ v → hasStrip v.fmt = false → exec i s = .next (cause cMtxFormat k s)) ∧
    (open_ v → hasStrip v.fmt = true → pl.testBit 4 = false →
      ∃ f, StartsFill i g k f s ∧ f.op = .uniform (BitVec.ofNat 8 bv)) ∧
    (open_ v → hasStrip v.fmt = true → pl.testBit 4 = true → SourceReady c bv (4 * slotK v.fmt) 0 (fun F => F = 0) maps s →
      ∃ f, StartsFill i g k f s ∧ f.op = .scales ∧ f.off = bv ∧ f.cap = c ∧ f.maps = maps ∧
        f.pan = if capSpace c = 0 then none else some (ownTile s))

/-- The words that a unit of a fill's source is read from, with the byte of its scale. -/
def Sys2Proof.Claims.unitReads (F frame u : Nat) (strip : Option Nat) : List Nat :=
  unitWords frame F u ++ strip.toList.map fun p => scaleByte p F u / 8

/-- No line of some words must be rebuilt and written back before it is read (R348). -/
def Sys2Proof.Claims.NoRepair (ws : List Nat) (s : State) : Prop :=
  ∀ w ∈ ws, eccFails (w / 8) s = true → rebuilds (w / 8) s = false

/-- R235, R95, R96, R361: a square of source format F fills its elements: unit z goes to row X0 + r and column K0 + q, or
transposed; a unit outside the extents, or one that could not be read, is absent; codes pass unchanged between equal
formats without a scale to convert, and else the value is divided by the scale of its group and rounded; the scales of an
aligned scaled square come with it; nothing else of the slot changes. -/
def Sys2Proof.Claims.SquaresFill : Prop :=
  ∀ (tile : BitVec 13) (f : Fill) (s : State) (tr : Bool) (x0 k0 side F : Nat) (at_ : Nat → Nat × Nat)
    (strip : Nat → Option Nat),
    let t := getTile tile.toNat s
    let v := t.slots.getD f.slot Slot.init
    t.fills.find? (fun g => g.id == f.id) = some f → t.fills.find? (fun g => g.slot == f.slot) = some f →
    f.op = .square tr x0 k0 side → (∀ j ∈ f.after, inFlight j s = false) → f.slot < t.slots.length →
    (side = 32 ∨ side = 64 ∨ side = 128) → k0 % 32 = 0 → k0 + side ≤ 1024 →
    (∀ z < side * side, fillUnit f z = some ((at_ z).1, F, (at_ z).2, strip z)) → NoRepair (fillWords f) s →
    let inside (z : Nat) : Bool := unitInside f.cap (if f.pan.isSome then f.fmt else 0) (f.off + z)
    let sound (z : Nat) : Bool := (badWord (unitReads F (at_ z).1 (at_ z).2 (strip z)) f.key s).isNone
    let copies : Prop := F = v.fmt ∧ (hasStrip F = false ∨ f.pan ≠ none ∨
      (capPath f.cap + f.off) % 1024 = 0 ∧ (squareScale F = true ∨ tr = false))
    let code (z : Nat) : Nat := unitCode f.key (at_ z).1 F (at_ z).2 s
    let value (z : Nat) : FVal := match strip z with
      | some p => scaled (codeVal F (code z)) (scaleAt f.key p F (at_ z).2 s)
      | none => codeVal F (code z)
    ∃ t' w, exec (.fillEnd tile f.id) s = .next t' ∧
      ((∀ z < side * side, inside z = true → sound z = true) → t'.mem = s.mem) ∧
      (∀ x ≥ 2048, rawWord t'.mem x = rawWord s.mem x) ∧
      (getTile tile.toNat t').slots.getD f.slot Slot.init = w ∧
      ((getTile tile.toNat t').fills.map fun g => { g with after := [] }) =
        ((t.fills.filter fun g => g.id != f.id).map fun g => { g with after := [] }) ∧
      w.fmt = v.fmt ∧ w.pins = v.pins ∧ w.fills = v.fills - 1 ∧
      w.state = (if v.state = .releasing ∧ v.fills ≤ 1 then .free else v.state) ∧
      (∀ z < side * side, let x := x0 + if tr then colOf z else rowOf z
        let k := k0 + if tr then rowOf z else colOf z
        (inside z = false ∨ sound z = false → slotElem w x k = none) ∧
        (inside z = true → sound z = true → copies → slotElem w x k = some (code z % 2 ^ 32)) ∧
        (inside z = true → sound z = true → ¬copies → slotElem w x k = some (codeOf v.fmt 0 0
          (if slotScale v x (k / 32) = 255 then .nan else scaleF (value z) (127 - slotScale v x (k / 32))) % 2 ^ 32))) ∧
      (∀ x k, k < 1024 → (∀ z < side * side, ¬(x = x0 + (if tr then colOf z else rowOf z) ∧
        k = k0 + if tr then rowOf z else colOf z)) → slotElem w x k = slotElem v x k) ∧
      ((¬copies ∨ ∀ z < side * side, strip z = none) → ∀ x q, slotScale w x q = slotScale v x q) ∧
      (copies → f.pan = none → (∀ z < side * side, inside z = true ∧ sound z = true) → (∃ frame p u0, u0 % 1024 = 0 ∧
          ∀ z < side * side, at_ z = (frame, u0 + z) ∧ strip z = some p) →
        ∀ z < side * side, slotScale w (x0 + if tr then colOf z else rowOf z)
          ((k0 + if tr then rowOf z else colOf z) / 32) = scaleAt f.key ((strip z).getD 0) F (at_ z).2 s)

/-- R236: an `mscale` sets every scale of its slot, to one byte or to the bytes of its source, and no element; a byte that
cannot be read leaves its scale. -/
def Sys2Proof.Claims.ScalesFill : Prop :=
  ∀ (tile : BitVec 13) (f : Fill) (s : State),
    let t := getTile tile.toNat s
    let v := t.slots.getD f.slot Slot.init
    t.fills.find? (fun g => g.id == f.id) = some f → t.fills.find? (fun g => g.slot == f.slot) = some f →
    (∀ j ∈ f.after, inFlight j s = false) → f.slot < t.slots.length → NoRepair (fillWords f) s →
    (∀ x, f.op = .uniform x → ∃ t' w, exec (.fillEnd tile f.id) s = .next t' ∧
      (getTile tile.toNat t').slots.getD f.slot Slot.init = w ∧
      w.elems = v.elems ∧ w.fills = v.fills - 1 ∧ ∀ x' q, slotScale w x' q = x.toNat) ∧
    (f.op = .scales → 32 ≤ slotK v.fmt → ∀ at_ : Nat → Nat × Nat,
      (∀ i < 4 * slotK v.fmt, fillUnit f i = some ((at_ i).1, 0, (at_ i).2, none)) →
      let sound (i : Nat) : Bool := (badWord (unitWords (at_ i).1 0 (at_ i).2) f.key s).isNone
      ∃ t' w, exec (.fillEnd tile f.id) s = .next t' ∧ ((∀ i < 4 * slotK v.fmt, sound i = true) → t'.mem = s.mem) ∧
        (getTile tile.toNat t').slots.getD f.slot Slot.init = w ∧
        w.elems = v.elems ∧ w.fills = v.fills - 1 ∧
        ∀ x < 128, ∀ q < slotK v.fmt / 32, let i := x * (slotK v.fmt / 32) + q
          slotScale w x q = if sound i then memBits f.key (8 * ((at_ i).1 + (at_ i).2)) 8 s else slotScale v x q)

/-- R348: a fill first has its lines that ECC cannot correct and parity rebuilds written back, one by one. -/
def Sys2Proof.Claims.FillsRepairFirst : Prop :=
  ∀ (tile : BitVec 13) (f : Fill) (l : Nat) (s : State), let t := getTile tile.toNat s
    t.fills.find? (fun g => g.id == f.id) = some f → t.fills.find? (fun g => g.slot == f.slot) = some f →
    (∀ j ∈ f.after, inFlight j s = false) →
    ((fillWords f).map fun w => w / 8).find? (fun l => eccFails l s && rebuilds l s) = some l →
    exec (.fillEnd tile f.id) s = .next (repairLine l s)

/-- R233, R235, R236: fills end in the order of issue, with what they wrote. (model's choices: log 62, 112) -/
def Obligations.FillsEnd : Prop := SquaresFill ∧ ScalesFill ∧ FillsRepairFirst

/-- R237, R238, R116: `msem.p` sends one request to its semaphore and is held until it has been performed; at a count above
0 it takes one, at 0 its hart waits; `msem.v` is posted, and is applied once the work before it has ended; at the greatest
count it is held, and the next `msem.p` applies it at once. -/
def Sys2Proof.Claims.Semaphores : Prop :=
  (∀ (k : BitVec 3) (s : State), let i := Instr.msemP k
    Ready (plainGate i [] []) s →
    Sends i [.semP (2 ^ 52 + 64 * ownTile s + 8 * k.toNat)] (some (.none, .scalar 0 0 false, 1)) false true false s) ∧
  (∀ (k : BitVec 3) (s : State), let i := Instr.msemV k
    let g := plainGate i [] []
    let t := getTile (ownTile s) s
    Ready g s → ∃ v : SemV, v.id = s.ids ∧ v.src = s.me.name.toNat ∧ v.w = 2 ^ 52 + 64 * ownTile s + 8 * k.toNat ∧
      v.deps = s.me.work ++ s.me.rels ∧
      (∀ x, x ∈ v.hist ↔ x ∈ s.me.hist ∨ x ∈ s.me.out ∨ ∃ p ∈ s.pends, p.route = s.me.name.toNat ∧ x ∈ p.hist) ∧
      exec i s = .next (modMe (fun h => { h with unacked := h.unacked + 1, hist := h.hist ++ [s.ids] })
        (setTile (ownTile s) { t with semv := t.semv ++ [v] } { advance g s with ids := s.ids + 1 }))) ∧
  (∀ (r : Req) (w : Nat) (s : State), memoryOk s → Due r s → r.remote = false → r.counted = false → r.op = .semP w →
    2048 ≤ w → Sound r [w] s → (getTile (semTile w) s).semHeld = [] → viewVal (viewOf w s) ≠ 0 →
    ∃ t, exec (.accessPerform r.id []) s = .next t ∧ Done r 0 s t ∧
      Wrote w (BitVec.ofNat 64 (viewVal (viewOf w s) - 1)) (BitVec.allOnes 64) s t) ∧
  (∀ (r : Req) (p : Pend) (w : Nat) (s : State), Due r s → r.remote = false → r.op = .semP w → 2048 ≤ w →
    viewVal (viewOf w s) = 0 → pendOf r s = some p → p.route = s.me.name.toNat → present s.me = true →
    s.me.txn.depth = 0 → p.dest = .none →
    ∃ t, exec (.accessPerform r.id []) s = .next t ∧ t.mem = s.mem ∧ t.pends = s.pends.filter (fun q => q.id != p.id) ∧
      t.me = { s.me with stat := .waiting [.line (w / 8)], woken := false, epoch := s.me.epoch + 1
                         hist := (s.me.hist ++ readHist r s).eraseDups } ∧
      ⟨w / 8, s.me.name.toNat, s.me.epoch + 1⟩ ∈ t.wake) ∧
  (∀ (tile : BitVec 13) (v : SemV) (s : State), let t := getTile tile.toNat s
    t.semv.find? (fun x => x.id == v.id) = some v →
    (∀ x, t.semv.find? (fun x => x.src == v.src && x.w == v.w) = some x → x.id = v.id) →
    (∀ j ∈ v.deps, workLive j s = false) → (∀ j ∈ v.hist, underWay j s = false) → v.txn = none →
    (rawWord s.mem v.w < 65535 → memoryOk s → 2048 ≤ v.w → Sound (bareReq 16) [v.w] s → wordBad v.w s = false →
      ∃ t', exec (.msemVApply tile v.id) s = .next t' ∧ t'.acks = s.acks ++ [v.src] ∧
        ((getTile tile.toNat t').semv.map fun x => { x with hist := [] }) =
          ((t.semv.filter fun x => x.id != v.id).map fun x => { x with hist := [] }) ∧
        Wrote v.w (BitVec.ofNat 64 (rawWord s.mem v.w + 1)) (BitVec.allOnes 64) s t') ∧
    (65535 ≤ rawWord s.mem v.w → exec (.msemVApply tile v.id) s = .next (setTile tile.toNat
      { t with semHeld := t.semHeld ++ [v], semv := t.semv.filter fun x => x.id != v.id } s))) ∧
  ∀ (tile : BitVec 13) (v : SemV) (s : State), let t := getTile tile.toNat s
    t.semv.find? (fun x => x.id == v.id) = some v →
    (∃ j ∈ v.deps, workLive j s = true) ∨ (∃ j ∈ v.hist, underWay j s = true) →
    exec (.msemVApply tile v.id) s = .next s

/-- An entry joins the matrix queue and the work of its hart. -/
def Sys2Proof.Claims.Queues (i : Instr) (g : Gate) (j : MJob) (slots : List Slot) (s : State) : Prop :=
  exec i s = .next (modMe (fun h => { h with work := h.work ++ [s.ids] })
    (setTile (ownTile s) { getTile (ownTile s) s with slots := slots, mq := (getTile (ownTile s) s).mq ++ [j] }
      { advance g s with ids := s.ids + 1 }))

/-- R239, R241 to R244, R359, R287: `mmask` sets half of a mask or the low ones of one; `mmac` pins its slots, samples the
masks and queues its product once its checks pass, in their order; `macc.clr` and `macc.rd` queue, and `macc.rd` empties its
registers; with four entries in the queue an instruction waits. -/
def Sys2Proof.Claims.MatrixInstructions : Prop :=
  (∀ (b a : Byte) (s : State), let i := Instr.mmask b a
    let av := (readOp .d .A a 0 s.me).1
    let bv := (readOp .d .B b (sameStream a b) s.me).1
    let t := getTile (ownTile s) s
    let g := unitOf i .M [srcNeed .d .A a 0 s.me, srcNeed .d .B b (sameStream a b) s.me] []
    let low (n : Nat) : BitVec 128 := BitVec.ofNat 128 (2 ^ min n 128 - 1)
    let half (m : BitVec 128) (high : Bool) : BitVec 128 := if high then BitVec.ofNat 64 av ++ m.extractLsb' 0 64
      else m.extractLsb' 64 64 ++ BitVec.ofNat 64 av
    Ready g s →
    exec i s = .next (match bv % 8 with
      | 0 => setTile (ownTile s) { t with rm := half t.rm false } (advance g s)
      | 1 => setTile (ownTile s) { t with rm := half t.rm true } (advance g s)
      | 2 => setTile (ownTile s) { t with cm := half t.cm false } (advance g s)
      | 3 => setTile (ownTile s) { t with cm := half t.cm true } (advance g s)
      | 4 => setTile (ownTile s) { t with rm := low av } (advance g s)
      | 5 => setTile (ownTile s) { t with cm := low av } (advance g s)
      | _ => cause (cMtxRange 2) bv s)) ∧
  (∀ (n : BitVec 1) (a : Byte) (s : State), let i := Instr.mmac n a
    let sa := (readOp .d .A a 0 s.me).1 % 16
    let sb := (readOp .d .A a 0 s.me).1 / 16 % 16
    let t := getTile (ownTile s) s
    let va := slotAt sa s
    let vb := slotAt sb s
    let ready (v : Slot) : Prop := v.state = .claimed ∧ v.fills = 0
    let pair : Prop := slotK va.fmt = slotK vb.fmt ∧ (s.care.full = true ∨ va.fmt = 56 ∧ vb.fmt = 56)
    let g := unitOf i .M [srcNeed .d .A a 0 s.me] []
    Ready g s →
    (4 ≤ t.mq.length → exec i s = .next (waitOn [.mq (ownTile s)] s)) ∧
    (t.mq.length < 4 →
      (¬ready va → exec i s = .next (cause cMtxSlot sa s)) ∧
      (ready va → ¬ready vb → exec i s = .next (cause cMtxSlot sb s)) ∧
      (ready va → ready vb → ¬pair → exec i s = .next (cause cMtxFormat (sb * 16 + sa) s)) ∧
      (ready va → ready vb → pair → va.found = true → exec i s = .next (cause cErrOpmem sa s)) ∧
      (ready va → ready vb → pair → va.found = false → vb.found = true → exec i s = .next (cause cErrOpmem sb s)) ∧
      (ready va → ready vb → pair → va.found = false → vb.found = false →
        Queues i g (.mmac s.ids n.toNat sa sb t.rm t.cm)
          ((t.slots.set sa { va with pins := va.pins + 1 }).set sb { vb with pins := vb.pins + 1 }) s))) ∧
  (∀ (n : BitVec 1) (s : State), let i := Instr.maccClr n
    let t := getTile (ownTile s) s
    let g := unitOf i .M [] []
    Ready g s →
    (4 ≤ t.mq.length → exec i s = .next (waitOn [.mq (ownTile s)] s)) ∧
    (t.mq.length < 4 → Queues i g (.clr s.ids n.toNat) t.slots s)) ∧
  ∀ (b a : Byte) (v : BitVec 4) (s : State), let i := Instr.maccRd b a v
    let av := (readOp .d .A a 0 s.me).1
    let bv := (readOp .d .B b (sameStream a b) s.me).1
    let count := bv / 16 % 8 + 1
    let t := getTile (ownTile s) s
    let g := tagged (unitOf i .M [srcNeed .d .A a 0 s.me, srcNeed .d .B b (sameStream a b) s.me]
      ((List.range count).map fun j => .vec ((v.toNat + j) % 16))) 1
    Ready g s →
    (4 ≤ t.mq.length → exec i s = .next (waitOn [.mq (ownTile s)] s)) ∧
    (t.mq.length < 4 → ∃ t' new, exec i s = .next t' ∧ t'.mem = s.mem ∧ t'.pends = s.pends ++ new ∧
      new.map Pend.dest = ((List.range count).map fun j => .vec ((v.toNat + j) % 16)) ∧
      (∃ tag : Nat, ∀ p ∈ new, p.parts = [none] ∧ p.shape = .line false 0 ∧ p.route = s.me.name.toNat ∧ p.tags = [tag]) ∧
      getTile (ownTile s) t' = { t with mq := t.mq ++ [.rd s.ids (bv % 2) (av % 128)
        ((new.map Pend.id).zip ((List.range count).map fun j => (bv / 2 % 8 + j) % 8))] } ∧
      (∀ j < 16, t'.me.vfull.getLsbD j = (s.me.vfull.getLsbD j && decide (∀ m < count, (v.toNat + m) % 16 ≠ j))) ∧
      t'.me = { (advance g s).me with vfull := t'.me.vfull, work := t'.me.work } ∧
      s.ids ∈ t'.me.work ∧ ∀ p ∈ new, p.id ∈ t'.me.work)

/-- The value of an element of a slot: with its scale, for the formats that have one (R91, R92). -/
def Sys2Proof.Claims.elemVal (v : Slot) (x k : Nat) : Option FVal :=
  (slotElem v x k).map fun c =>
    if hasStrip v.fmt then scaled (codeVal v.fmt c) (slotScale v x (k / 32)) else codeVal v.fmt c

/-- An accumulator element after the groups of a product, ascending: the sum of the present terms of a group is rounded and
added; a group without one leaves it (R98 to R100, R240). -/
def Sys2Proof.Claims.product (va vb : Slot) (i j old : Nat) : Nat :=
  let term (k : Nat) : Option FVal := match elemVal va i k, elemVal vb j k with
    | some a, some b => some (mulF a b)
    | _, _ => none
  (List.range (slotK va.fmt / 32)).foldl (fun acc g =>
    match sumF ((List.range 32).filterMap fun k => term (32 * g + k)) with
    | none => acc
    | some t => fp32Add acc (roundFloat fp32 0 0 t)) old

/-- R240, R241, R243, R244, R287: the first `mmac` of the queue whose bank no entry before it touches writes the product of
its slots to the elements that its masks admit, and unpins them; a failed operand or accumulator element makes its results
the canonical NaN; a clear sets every element of its bank to +0; a read delivers 16 columns of its row to each register;
each then leaves the queue. -/
def Sys2Proof.Claims.QueueRuns : Prop :=
  let elem (t : Tile) (b i j : Nat) : Nat := bankElem t b i j
  (∀ (tile : BitVec 13) (s : State) (l r : List MJob) (id bank sa sb : Nat) (rm cm : BitVec 128),
    let t := getTile tile.toNat s
    let va := t.slots.getD sa Slot.init
    let vb := t.slots.getD sb Slot.init
    t.mq = l ++ .mmac id bank sa sb rm cm :: r →
    (∀ x ∈ l, isMmac x = false ∧ jobBank x ≠ bank) → bank < 2 → slotK va.fmt = slotK vb.fmt →
    sa < t.slots.length → sb < t.slots.length →
    ∃ t', exec (.mmacEnd tile) s = .next t' ∧ t'.mem = s.mem ∧ t'.pends = s.pends ∧
      let u := getTile tile.toNat t'
      u.mq = t.mq.filter (fun x => jobId x != id) ∧ u.rm = t.rm ∧ u.cm = t.cm ∧
      (let readA : Prop := (∃ e ∈ va.bad, rm.getLsbD (e / 1024) = true) ∧ cm ≠ 0
       let readB : Prop := (∃ e ∈ vb.bad, cm.getLsbD (e / 1024) = true) ∧ rm ≠ 0
       ∃ fa fb, (fa = true ↔ va.found = true ∨ readA ∨ sa = sb ∧ readB) ∧ (fb = true ↔ vb.found = true ∨ readB) ∧
        u.slots = if sa = sb then t.slots.set sa { va with pins := va.pins - 1, found := fa }
          else (t.slots.set sa { va with pins := va.pins - 1, found := fa }).set sb
            { vb with pins := vb.pins - 1, found := fb }) ∧
      bankOf u (1 - bank) = bankOf t (1 - bank) ∧
      ∀ i < 128, ∀ j < 128, let n := i * 128 + j
        elem u bank i j =
          if ¬(rm.getLsbD i = true ∧ cm.getLsbD j = true) then elem t bank i j
          else if (∃ e ∈ va.bad, e / 1024 = i) ∨ (∃ e ∈ vb.bad, e / 1024 = j) ∨ (bank, n) ∈ t.accBad then 0x7FC00000
          else product va vb i j (elem t bank i j) % 2 ^ 32) ∧
  (∀ (tile : BitVec 13) (s : State) (l r : List MJob) (id bank : Nat),
    let t := getTile tile.toNat s
    t.mq = l ++ .clr id bank :: r → (∀ x ∈ l, isClr x = false ∧ jobBank x ≠ bank) → bank < 2 →
    ∃ t', exec (.maccClrRun tile) s = .next t' ∧ t'.mem = s.mem ∧ t'.pends = s.pends ∧
      let u := getTile tile.toNat t'
      u.mq = t.mq.filter (fun x => jobId x != id) ∧ u.slots = t.slots ∧ bankOf u (1 - bank) = bankOf t (1 - bank) ∧
      ∀ i < 128, ∀ j < 128, elem u bank i j = 0) ∧
  ∀ (tile : BitVec 13) (s : State) (l r : List MJob) (id bank row : Nat) (ps : List (Nat × Nat)),
    let t := getTile tile.toNat s
    t.mq = l ++ .rd id bank row ps :: r → (∀ x ∈ l, isRd x = false ∧ jobBank x ≠ bank) → (ps.map Prod.fst).Nodup →
    ∃ (t' : State) (seg : Nat → BitVec 520), exec (.maccRdRun tile) s = .next t' ∧ t'.mem = s.mem ∧
      let u := getTile tile.toNat t'
      u = { t with mq := t.mq.filter (fun x => jobId x != id) } ∧
      t'.pends = s.pends.map (fun q => match ps.find? fun p => p.1 == q.id with
        | some p => { q with parts := q.parts.set 0 (some (seg p.2)) }
        | none => q) ∧
      ∀ c : Nat, (seg c).toNat < 2 ^ 512 ∧ ∀ k < 16,
        ((seg c).extractLsb' (32 * k) 32).toNat =
          if (bank, row * 128 + 16 * c + k) ∈ t.accBad then 0x7FC00000 else elem t bank row (16 * c + k)

/-- R98 to R100, R237 to R244: the matrix unit and the semaphores. (model's choices: log 7, 49, 68, 77) -/
def Obligations.MatrixUnitAndSemaphores : Prop := Semaphores ∧ MatrixInstructions ∧ QueueRuns

/-! ### Chains, commands and pending writes (R98, R127, R245 to R255, R264, R267, R268) -/

/-- A line that may be written again and again under a key set: no word of a pan has failed; a line of memory passes its
check, and its key set is live. -/
def Sys2Proof.Claims.Sealable (key l : Nat) (s : State) : Prop :=
  if panBase ≤ 64 * l then ∀ i < 8, wordBad (8 * l + i) s = false
  else lineReads l key s = true ∧ twoFailed l s = false ∧ keyGen key s ≠ none

/-- A word of a chain's header. -/
def Sys2Proof.Claims.header (hdr n : Nat) (s : State) : Nat := viewVal (viewOf (hdr / 8 + n) s)

/-- The 64 bytes of a header that hold its words can be written. -/
def Sys2Proof.Claims.HeaderOk (tile : Nat) (ch : Chain) (s : State) : Prop :=
  memoryOk s ∧ ch.hdr % 64 = 0 ∧ 2048 ≤ ch.hdr / 8 ∧ Sealable (tileKey tile ch.fw s) (ch.hdr / 64) s

/-- An engine after a chain is dropped or its command has ended. -/
def Sys2Proof.Claims.engineOf (eng : Bool) (t : Tile) : Engine := if eng then t.quant else t.copy

/-- A command has ended: with a fault its record is written and STATE is HELD; a command that was read counts in SEQ, and
CUR is its NEXT; with no command left STATE is IDLE and the chain leaves the table; memory outside the header is as it
was. -/
def Sys2Proof.Claims.Ended (tile : Nat) (eng : Bool) (ch : Chain) (cur : Nat) (next : Option Nat) (f : Option CmdFault)
    (s t : State) : Prop :=
  let seq := header ch.hdr 0 s + flag (next ≠ none)
  let idle : Prop := f = none ∧ header ch.hdr 2 s ≤ seq
  (∀ n, next = some n → header ch.hdr 0 t = seq % 2 ^ 64 ∧ header ch.hdr 1 t = n % 2 ^ 64) ∧
  (next = none → header ch.hdr 0 t = header ch.hdr 0 s ∧ header ch.hdr 1 t = header ch.hdr 1 s) ∧
  header ch.hdr 2 t = header ch.hdr 2 s ∧
  (∀ x, f = some x → header ch.hdr 3 t = (x.side * 2 ^ 61 + x.depth * 2 ^ 56 + x.path) % 2 ^ 64 ∧
    header ch.hdr 4 t = engCode x.c % 2 ^ 64 ∧ header ch.hdr 5 t = x.done % 2 ^ 64 ∧ header ch.hdr 6 t = cur % 2 ^ 64 ∧
    header ch.hdr 7 t = 2) ∧
  (f = none → (∀ n, 3 ≤ n → n < 7 → header ch.hdr n t = header ch.hdr n s) ∧
    (idle → header ch.hdr 7 t = 0) ∧ (¬idle → header ch.hdr 7 t = header ch.hdr 7 s)) ∧
  OthersKept ((List.range 8).map fun n => ch.hdr / 8 + n) s t ∧
  (engineOf eng (getTile tile t)).run = none ∧
  (idle → (engineOf eng (getTile tile t)).chains = (engineOf eng (getTile tile s)).chains.filter fun c => c.hdr != ch.hdr) ∧
  (¬idle → ((engineOf eng (getTile tile t)).chains.map fun c => { c with hist := [] }) =
    ((engineOf eng (getTile tile s)).chains.map fun c => { c with hist := [] }))

/-- R246, R247, R249: `chadv` registers the chain of xm1 and sends its count to the header's home; `publish` sends its
region and is held until its homes have marked their lines; their checks come in order. -/
def Sys2Proof.Claims.EngineInstructions : Prop :=
  (∀ (a : Byte) (s : State) (maps : List Mapping), let i := Instr.chadv a
    let xm := (s.me.xm.getD 1 0).toNat
    let eng := xm.testBit 4
    let c := s.me.c.getD (xm % 16) Cap.null
    let p := capPath c
    let size := if eng then 2048 else 64
    let n := (readOp .d .A a 0 s.me).1
    let g : Gate := { plainGate i [srcNeed .d .A a 0 s.me, .cap (xm % 16)] [] with bars := true }
    let bounds : Prop := size ≤ blockUnits c ∧ addrOk c (p + size - 1) = true
    let pan : Option Nat := match capSpace c with
      | 0 => none
      | 1 => some (ownTile s)
      | _ => some (capTile c)
    Ready g s →
    (∀ e, capFault c (pR + pW + pLcap) = some e → exec i s = .next (cause e p s)) ∧
    (capFault c (pR + pW + pLcap) = none → ¬bounds → exec i s = .next (cause cCapBounds p s)) ∧
    (capFault c (pR + pW + pLcap) = none → bounds →
      (if capSpace c = 0 then coverUnits s.me p size s = ⟨maps, none, none⟩ ∧
          ∀ j < size, ∃ m, mapAt maps (p + j) = some m ∧ m.fmt = 0 ∧ m.src ≠ 3 ∧ isRom m.frame = false
        else maps = []) →
      let hdr := match pan with
        | some t => panBase + t * 2 ^ 20 + p
        | none => ((mapAt maps p).map fun m => m.frame + (p - m.path)).getD 0
      let blk := ((mapAt maps p).map fun m => (m.depth, m.path)).getD (27, p)
      -- chains that an `rinv` has made look their header up again find it at the address translated now (R307)
      let u := settleHeader c (s.me.mode == .firmware) (ownTile s) hdr blk s
      (p % 64 ≠ 0 → exec i s = .next (cause cMemAlign p s)) ∧
      (p % 64 = 0 → ¬chainRoom hdr (ownTile s) eng u → exec i s = .next (cause cEngChains 0 s)) ∧
      (p % 64 = 0 → chainRoom hdr (ownTile s) eng u →
        Sends i [.chadv ⟨hdr, false, c, s.me.mode == .firmware, blk, [], s.me.name.toNat, allHist s.me s⟩ n (ownTile s) eng]
          none true false true s ∧
        ∃ t, exec i s = .next t ∧ hasChain hdr (engineOf eng (getTile (ownTile s) t)) = true))) ∧
  ∀ (a : Byte) (s : State), let i := Instr.publish a
    let k := (s.me.xm.getD 2 0).toNat % 16
    let c := s.me.c.getD k Cap.null
    let v := (readOp .d .A a 0 s.me).1
    let d := blockDepth v
    let p := blockPath v d
    let g : Gate := { plainGate i [srcNeed .d .A a 0 s.me, .cap k] [] with bars := true }
    let bounds : Prop := capDepth c ≤ d ∧ inBlock p (capDepth c) (capPath c) = true ∧ capSpace c ≠ 3
    Ready g s →
    (∀ e, capFault c pW = some e → exec i s = .next (cause e 0 s)) ∧
    (capFault c pW = none → ¬bounds → exec i s = .next (cause cCapBounds v s)) ∧
    (capFault c pW = none → bounds → Sends i [.publish (match capSpace c with
        | 0 => none
        | 1 => some (ownTile s)
        | _ => some (capTile c)) d p] (some (.none, .scalar 0 0 false, 1)) true true false s)

/-- R246, R248, R249, R127, R297: a performed `chadv` adds to LIMIT and sets STATE to RUN, and its chain is registered
with its map for the commands that it adds; a performed `publish` makes current every pending write of the lines of its
region, as its space is mapped then, in the order in which the engines wrote, those outside stay pending, and what follows
the `publish` follows what the writes follow. -/
def Sys2Proof.Claims.ChainsAdvanceAndRegionsPublish : Prop :=
  (∀ (r : Req) (ch : Chain) (n tile : Nat) (eng : Bool) (s : State), Due r s → r.remote = false →
    r.op = .chadv ch n tile eng → memoryOk s → ch.hdr % 64 = 0 → 2048 ≤ ch.hdr / 8 → Sealable r.key (ch.hdr / 64) s →
    ∃ t, exec (.accessPerform r.id []) s = .next t ∧ t.acks = s.acks ++ (if r.counted then [r.src] else []) ∧
      t.reqs = (learned r s).reqs.filter (fun q => q.id != r.id) ∧
      header ch.hdr 2 t = (header ch.hdr 2 s + n) % 2 ^ 64 ∧
      header ch.hdr 7 t = (if header ch.hdr 7 s % 4 = 1 then header ch.hdr 7 s else 1) ∧
      OthersKept [ch.hdr / 8 + 2, ch.hdr / 8 + 7] s t ∧
      ∃ c ∈ (engineOf eng (getTile tile t)).chains, c.hdr = ch.hdr ∧ ((header ch.hdr 2 s + n) % 2 ^ 64, ch.fw) ∈ c.maps) ∧
  ∀ (r : Req) (pan : Option Nat) (depth path : Nat) (s : State), Due r s → r.remote = false →
    r.op = .publish pan depth path → memoryOk s →
    let mine := s.pendw.filter fun p => lineInRegion r pan depth path (p.w / 8) s
    (∀ p ∈ mine, 2048 ≤ p.w ∧ Sealable r.key (p.w / 8) s) →
    ∃ t hist, exec (.accessPerform r.id []) s = .next t ∧
      (∀ p ∈ mine, ∀ i ∈ p.hist, unended i s = true → i ∈ hist) ∧
      t.pends = arrived r 0 hist (spreadHist r.id hist s).pends ∧
      t.pendw = s.pendw.filter (fun p => !lineInRegion r pan depth path (p.w / 8) s) ∧
      OthersKept (mine.map PendWrite.w) s t ∧
      (∀ a, pan = some a → ∀ p ∈ mine, isPanWord p.w = true ∧ panTile p.w = a) ∧
      ∀ p ∈ mine, (viewOf p.w t).fe = true ∧ (viewOf p.w t).tag = false ∧ (∀ e ∈ t.wake, e.line ≠ p.w / 8) ∧
        (getSide t.mem (p.w / 8)).pending = false ∧
        ∀ k < 64, (viewVal (viewOf p.w t)).testBit k = (mine.filter fun q => q.w == p.w).foldl
          (fun b q => if q.mask.getLsbD k then (heldVal q s.pendw).getLsbD k else b) ((viewVal (viewOf p.w s)).testBit k)

/-- What a command follows after the walk to a unit of a side, and after reads of words (R106, R305). -/
def Sys2Proof.Claims.afterWalk (tile : Nat) (fw : Bool) (hist : List Nat) (c : Cap) (off : Nat) (s : State) : List Nat :=
  (hist ++ sideHist tile fw c off [] s).eraseDups

def Sys2Proof.Claims.afterReads (hist words : List Nat) (s : State) : List Nat :=
  (hist ++ words.flatMap fun w => wordHist w (2 ^ 64 - 1) s).eraseDups

/-- The walk to a unit may be performed: nothing in flight that the command follows is still to be written to the homes of
what it reads, and none of its lines must be rebuilt first (R108, R305, R348). -/
def Sys2Proof.Claims.Walks (tile : Nat) (fw : Bool) (hist : List Nat) (c : Cap) (off : Nat) (s : State) : Prop :=
  readDelay (afterWalk tile fw hist c off s) (sideWalk tile fw c off s) s = none

/-- The walk to a unit, and then reads of words of it, may be performed. -/
def Sys2Proof.Claims.Settled (tile : Nat) (fw : Bool) (hist : List Nat) (c : Cap) (off : Nat) (words : List Nat)
    (s : State) : Prop :=
  Walks tile fw hist c off s ∧ readDelay (afterReads (afterWalk tile fw hist c off s) words s) words s = none

/-- The header of a chain may be written after what a command follows: nothing in flight that stands before the write acts on
its line, which needs no rebuild (R105, R108, R348). -/
def Sys2Proof.Claims.Free (tile : Nat) (ch : Chain) (hist : List Nat) (s : State) : Prop :=
  hdrDelay tile ch hist [ch.hdr / 8] s = none

/-- R247, R252, R287, R337: an engine takes the first of its chains that is in RUN: with a command available it reads the
line at CUR through the chain's capability, or records why it cannot and holds the chain; with none, the chain is IDLE and
leaves. -/
def Sys2Proof.Claims.CommandsAreRead : Prop :=
  ∀ (tile : BitVec 13) (eng : Bool) (s : State) (l r : List Chain) (ch : Chain),
    let e := engineOf eng (getTile tile.toNat s)
    let cur := header ch.hdr 1 s % 2 ^ 54
    let off := cur - capPath ch.cap
    -- the map of the `chadv` that made the command available
    let fw := ((ch.maps.find? fun x => decide (header ch.hdr 0 s < x.1)).map Prod.snd).getD ch.fw
    let key := tileKey tile.toNat fw s
    let turned (e : Engine) (run : Option CmdRun) : Engine := { e with chains := l ++ r ++ [ch], run := run }
    let s' := setTile tile.toNat (if eng then { getTile tile.toNat s with quant := turned e none }
      else { getTile tile.toNat s with copy := turned e none }) s
    let at_ := sideAt tile.toNat fw (engDenied tile.toNat eng s) false ch.cap 0 off s'
    let hist := (hdrHist ch.hdr s' ++ sideHist tile.toNat fw ch.cap off [] s').eraseDups
    let stops (hist : List Nat) (c : Cause) (d p : Nat) : Prop := Free tile.toNat ch hist s' →
      ∃ t, exec (.commandFetch tile eng) s = .next t ∧ Ended tile.toNat eng ch cur none (some ⟨c, 0, d, p, 0⟩) s' t
    e.run = none → engStops tile.toNat eng s = false → e.chains = l ++ ch :: r → (∀ c ∈ e.chains, c.stale = false) →
    (∀ c ∈ l, c.hdr ≠ ch.hdr ∧ chainReady tile.toNat s c = false) → (∀ c ∈ r, c.hdr ≠ ch.hdr) →
    header ch.hdr 7 s % 4 = 1 → (∀ i ∈ ch.hist, unended i s = false) → HeaderOk tile.toNat ch s →
    NoRepair [ch.hdr / 8] s →
    (header ch.hdr 2 s ≤ header ch.hdr 0 s → Free tile.toNat ch (hdrHist ch.hdr s') s' →
      ∃ t, exec (.commandFetch tile eng) s = .next t ∧ header ch.hdr 7 t = 0 ∧
      OthersKept [ch.hdr / 8 + 7] s t ∧ (engineOf eng (getTile tile.toNat t)).chains = l ++ r ∧
      (engineOf eng (getTile tile.toNat t)).run = none) ∧
    (header ch.hdr 0 s < header ch.hdr 2 s →
      let bad : Prop := cur % 64 ≠ 0 ∨ inBlock cur (capDepth ch.cap) (capPath ch.cap) = false ∨ addrOk ch.cap cur = false
      (bad → stops (hdrHist ch.hdr s') cEngLink 27 cur) ∧
      (¬bad → readDelay (ch.hist ++ hist) (sideWalk tile.toNat fw ch.cap off s') s' = none →
        (∀ c d p, at_ = .fault c d p → stops hist c d p) ∧
        ∀ frame fmt u m d p, at_ = .ok frame fmt u m d p →
        let w := contBit frame fmt u / 64
        let words := (List.range 8).map fun i => w + i
        let hist' := afterReads hist words s'
        let tag (i : Nat) : Bool := (viewUnder key (w + i) s).tag && (viewUnder key (w + i + 1) s).tag
        (1 < fmt → stops hist cMemFmt d p) ∧
        (fmt ≤ 1 → (∀ x, m = some x → x.src ≠ 3) → readDelay (ch.hist ++ hist') words s' = none →
          -- a line that cannot be read counts, and has MEM.INTEGRITY, whatever it is that has failed (log 97)
          (∀ x, badWord words key s = some x → let u := countFailing (x / 8) s'
            HeaderOk tile.toNat ch u → Free tile.toNat ch hist' s' →
            ∃ t, exec (.commandFetch tile eng) s = .next t ∧
              Ended tile.toNat eng ch cur none (some ⟨cMemIntegrity, 0, 27, cur, 0⟩) u t) ∧
          (badWord words key s = none →
            ∃ t run, exec (.commandFetch tile eng) s = .next t ∧ t.mem = s.mem ∧ t.accs = s.accs ∧
              engineOf eng (getTile tile.toNat t) = { turned e (some run) with ats := none } ∧ run.hdr = ch.hdr ∧
              run.cur = cur ∧ run.fw = fw ∧ run.z = 0 ∧ run.units = [] ∧ run.tag0 = tag 0 ∧ run.tag1 = tag 2 ∧
              run.words = words.map fun x => BitVec.ofNat 64 (viewVal (viewUnder key x s))))))

/-- Fields of a command (R250, R253). -/
def Sys2Proof.Claims.cmdWord (r : CmdRun) (n : Nat) : Nat := (r.words.getD n 0).toNat
def Sys2Proof.Claims.cmdCap (r : CmdRun) (n : Nat) (tag : Bool) : Cap := ⟨r.words.getD (n + 1) 0 ++ r.words.getD n 0, tag⟩

/-- The word fields that both kinds share are as they must be: LOGS below 28, RM at most 4, and reserved bits zero. -/
def Sys2Proof.Claims.SharedFields (r : CmdRun) : Prop :=
  cmdWord r 4 / 2 ^ 59 = 0 ∧ cmdWord r 4 / 2 ^ 54 % 32 < 28 ∧ cmdWord r 5 / 2 ^ 54 = 0 ∧ cmdWord r 7 / 2 ^ 54 % 64 = 0 ∧
  cmdWord r 6 / 2 ^ 12 % 8 ≤ 4

/-- The code that a unit passes on: its own where the formats agree without a scale to convert, bits between RAW and RAW64
or containers of one size, and else its value, divided by the destination's scale, rounded (R251). -/
def Sys2Proof.Claims.Converts (F G code : Nat) (value : FVal) (both whole : Bool) (scale : Option Nat) (rm rho out : Nat) :
    Prop :=
  if F = G ∧ (hasStrip F = false ∨ both = false ∨ whole = true) then out = code
  else if F ≤ 1 ∧ G ≤ 1 then out = code % 256
  else if F ≤ 1 ∨ G ≤ 1 then containerBits F = containerBits G ∧ out = code
  else out = codeOf G rm rho (match scale with
    | none => value
    | some d => if d = 255 then .nan else scaleF value (127 - d))

/-- R248, R251, R252, R361: a copy handles its units in Z-order: a unit of the source that lies in the extents and can be
read is converted, one outside them gives PAD, and the code becomes pending at the destination, transposed if TR is set,
if that lies in its extents; a unit outside its source's block, or that translation refuses, ends the command with a
fault record; after the last unit the command ends. -/
def Sys2Proof.Claims.CopiesRun : Prop :=
  ∀ (tile : BitVec 13) (s : State) (r : CmdRun) (ch : Chain),
    let e := (getTile tile.toNat s).copy
    let src := cmdCap r 0 r.tag0
    let dst := cmdCap r 2 r.tag1
    let soff := cmdWord r 4 % 2 ^ 54 + r.z
    let tr := (cmdWord r 6).testBit 15
    let doff := cmdWord r 5 % 2 ^ 54 + (if tr then zOf (colOf r.z) (rowOf r.z) else zOf (rowOf r.z) (colOf r.z))
    let spfmt := cmdWord r 6 % 64
    let dpfmt := cmdWord r 6 / 2 ^ 6 % 64
    let rm := cmdWord r 6 / 2 ^ 12 % 8
    let rho := (cmdWord r 6 / 2 ^ 48 + 40503 * r.z) % 2 ^ 16
    let next := cmdWord r 7 % 2 ^ 54
    let strm := (cmdWord r 6).testBit 24
    let logs := cmdWord r 4 / 2 ^ 54 % 32
    let key := tileKey tile.toNat r.fw s
    let fields : Prop := cmdWord r 7 / 2 ^ 60 = 0 ∧ SharedFields r ∧ cmdWord r 6 / 2 ^ 25 % 128 = 0
    let stops (hist : List Nat) (f : CmdFault) : Prop := Free tile.toNat ch hist s →
      ∃ t, exec (.copyCommand tile) s = .next t ∧ Ended tile.toNat false ch r.cur (some next) (some f) s t
    -- the command goes on, or ends with its last unit once its header may be written
    let mayGo (hist : List Nat) : Prop := r.z + 1 = 4 ^ logs → Free tile.toNat ch hist s
    let goesOn (t : State) (hist : List Nat) (r' : CmdRun) : Prop :=
      if r.z + 1 = 4 ^ logs then Ended tile.toNat false ch r.cur (some next) none s t
      else OthersKept [] s t ∧
        (getTile tile.toNat t).copy = { e with run := some { r' with z := r.z + 1, hist := hist }, ats := none }
    e.run = some r → e.chains.find? (fun c => c.hdr == r.hdr) = some ch → engStops tile.toNat false s = false →
    ch.stale = false → HeaderOk tile.toNat ch s →
    (¬fields → stops r.hist ⟨cEngCmd, 0, 27, r.cur, 0⟩) ∧
    (fields →
      (∀ x, capFault src pR = some x → stops r.hist ⟨x, 0, capDepth src, capPath src, 0⟩) ∧
      (∀ x, capFault src pR = none → strm = false → capFault dst pW = some x →
        stops r.hist ⟨x, 1, capDepth dst, capPath dst, 0⟩) ∧
      (capFault src pR = none → (strm = false → capFault dst pW = none) →
        (unitInBlock src spfmt soff = false → stops r.hist ⟨cCapBounds, 0, 27, (capPath src + soff) % 2 ^ 54, r.z⟩) ∧
        (unitInBlock src spfmt soff = true → addrOk src (capPath src) = true →
          (∀ c d p, unitInside src spfmt soff = true → Walks tile.toNat r.fw r.hist src soff s →
            sideAt tile.toNat r.fw (engDenied tile.toNat false s) false src spfmt soff s = .fault c d p →
            stops (afterWalk tile.toNat r.fw r.hist src soff s) ⟨c, 0, d, p, r.z⟩) ∧
          ∀ (F u G u' frame' d' p' : Nat) (m m' : Option Mapping) (code : Nat) (value : FVal) (pad : Bool)
            (follows : List Nat),
            -- the source unit: outside the extents, or read
            (if pad = true then unitInside src spfmt soff = false ∧ m = none ∧ follows = r.hist
             else unitInside src spfmt soff = true ∧ (r.srcFmt = none ∨ r.srcFmt = some F) ∧
              (∀ x, m = some x → x.src ≠ 3) ∧ ∃ frame d p,
                sideAt tile.toNat r.fw (engDenied tile.toNat false s) false src spfmt soff s = .ok frame F u m d p ∧
                -- its scale is read where it goes along, or into the value
                let words := unitWords frame F u ++ if copyWants tile.toNat r s F then stripWords F u m else []
                Settled tile.toNat r.fw r.hist src soff words s ∧ badWord words key s = none ∧
                follows = afterReads (afterWalk tile.toNat r.fw r.hist src soff s) words s ∧
                code = unitCode key frame F u s ∧
                value = sideVal F code ((sideStrip F m).map fun q => scaleAt key q F u s)) →
            -- to a stream that a hart of the tile has bound and that has room
            (strm = true → fmtKind dpfmt ≠ .reserved → ∀ (k : Nat) (st : Stream) (out : Nat),
              (if pad = true then out = cmdWord r 6 / 2 ^ 32 % 2 ^ 16
                else Converts F dpfmt code value false false none rm rho out) →
              streamHart tile.toNat (cmdWord r 6 / 2 ^ 16 % 256) s = some (s.me, k) → present s.me = true →
              s.me.streams = [(k, st)] → st.buf.length < 16 → mayGo follows →
              ∃ t, exec (.copyCommand tile) s = .next t ∧
                t.me.streams = [(k, { st with buf := st.buf ++
                  [(containerBits dpfmt, BitVec.ofNat 64 (out % 2 ^ containerBits dpfmt))] })] ∧
                goesOn t follows (if pad then r else { r with srcFmt := some F })) ∧
            -- to its place
            (strm = false → unitInBlock dst dpfmt doff = true → addrOk dst (capPath dst) = true →
              (unitInside dst dpfmt doff = false → mayGo follows → ∃ t, exec (.copyCommand tile) s = .next t ∧
                t.pendw = s.pendw ∧ goesOn t follows (if pad then r else { r with srcFmt := some F })) ∧
              (unitInside dst dpfmt doff = true → (r.dstFmt = none ∨ r.dstFmt = some G) →
                sideAt tile.toNat r.fw none true dst dpfmt doff s = .ok frame' G u' m' d' p' →
                let both := m.isSome && m'.isSome
                let whole := decide (5 ≤ logs) && (capPath src + cmdWord r 4 % 2 ^ 54) % 1024 == 0 &&
                  (capPath dst + cmdWord r 5 % 2 ^ 54) % 1024 == 0 && (!tr || squareScale G)
                -- the scale that divides the unit, if one does, can be read
                let divides := pad = false ∧ 1 < F ∧ ¬(F = G ∧ (both = false ∨ whole = true))
                let words := if divides then stripWords G u' m' else []
                Settled tile.toNat r.fw follows dst doff words s → badWord words key s = none →
                let hist := afterReads (afterWalk tile.toNat r.fw follows dst doff s) words s
                let scale := (sideStrip G m').map fun q => scaleAt key q G u' s
                ∀ out, (if pad = true then out = cmdWord r 6 / 2 ^ 32 % 2 ^ 16
                    else Converts F G code value both whole scale rm rho out) →
                let strip : List MOp := match m, m' with
                  | some x, some x' => if pad = false ∧ F = G ∧ hasStrip G = true ∧ whole = true then
                      [wordWrite (8 * scaleByte x'.strip G u') 8 (scaleAt key x.strip F u s)] else []
                  | _, _ => []
                let ops := unitOps frame' G u' (out % 2 ^ containerBits G) ++ strip
                (canPend (capTileOf tile.toNat dst) m' ops s = false →
                  stops hist ⟨cEngShadow, 1, 27, (capPath dst + doff) % 2 ^ 54, r.z⟩) ∧
                (canPend (capTileOf tile.toNat dst) m' ops s = true → mayGo hist →
                  ∃ t new, exec (.copyCommand tile) s = .next t ∧
                  t.pendw = s.pendw ++ new ∧ (new.map fun p => MOp.word p.w p.val p.mask) = ops ∧
                  (∀ p ∈ new, p.pan = isPanWord p.w ∧ p.key = key ∧ (getSide t.mem (p.w / 8)).pending = true ∧
                    p.held = (m'.bind fun x => x.shadow).map fun k => (8 * p.w + k) % 2 ^ 54) ∧
                  goesOn t hist { r with srcFmt := if pad then r.srcFmt else some F, dstFmt := some G }))))))

/-- The scale of a group from the values of its present elements (R254): the least bin that reaches the percentile, less
emax, within 0 to 254; 127 where none is present. -/
def Sys2Proof.Claims.IsScale (emax pct : Nat) (present_ : List FVal) (x : Nat) : Prop :=
  let bin (v : FVal) : Nat := roundFloat fp32 1 0 (absF v) / 2 ^ 23 % 256
  let upTo (b : Nat) : Nat := (present_.filter fun v => decide (bin v ≤ b)).length
  let t := (pct * present_.length + 1023) / 1024
  (present_ = [] → x = 127) ∧
  (present_ ≠ [] → ∃ b < 256, t ≤ upTo b ∧ (∀ b' < b, upTo b' < t) ∧ x = min (b - emax) 254)

/-- The histogram and the greatest magnitude of a command stand in the header, which lies in a pan (R254). -/
def Sys2Proof.Claims.Reported (hist amax : Bool) (ch : Chain) (run : CmdRun) (s t : State) : Prop :=
  let part (b : Nat) (t : State) : Nat := viewVal (viewOf (ch.hdr / 8 + b / 8) t) / 2 ^ (8 * (b % 8)) % 2 ^ 32
  (hist = true → ∀ b < 256, part (1024 + 4 * b) t = min ((lookupNat b run.bins).getD 0) (2 ^ 32 - 1)) ∧
  (amax = true → run.bins ≠ [] → (BitVec.ofNat 32 (part 64 t)).toInt =
    max (BitVec.ofNat 32 (part 64 s)).toInt (BitVec.ofNat 32 run.amax).toInt) ∧
  OthersKept ((if hist then (List.range 128).map fun k => ch.hdr / 8 + 128 + k else []) ++
    if amax then [ch.hdr / 8 + 8] else []) s t

/-- R253, R254, R255, R310: the quantizer reads the units of a square one by one; with the last of them it gives each
group, a row for MX and all of the square for BPS, one scale, and each unit its value divided by it and rounded, 0 where
its source lies outside the extents; all become pending; after the last square the histogram and the greatest magnitude
are written, and the command ends. A HOST page holds no pending write. -/
def Sys2Proof.Claims.QuantizersRun : Prop :=
  ∀ (tile : BitVec 13) (s : State) (r : CmdRun) (ch : Chain),
    let e := (getTile tile.toNat s).quant
    let src := cmdCap r 0 r.tag0
    let dst := cmdCap r 2 r.tag1
    let soff := cmdWord r 4 % 2 ^ 54 + r.z
    let doff := cmdWord r 5 % 2 ^ 54 + r.z
    let spfmt := cmdWord r 6 % 64
    let rm := cmdWord r 6 / 2 ^ 12 % 8
    let next := cmdWord r 7 % 2 ^ 54
    let logs := cmdWord r 4 / 2 ^ 54 % 32
    let key := tileKey tile.toNat r.fw s
    let stops (hist : List Nat) (f : CmdFault) : Prop := Free tile.toNat ch hist s →
      ∃ t, exec (.quantizeCommand tile) s = .next t ∧
      Ended tile.toNat true ch r.cur (some next) (some f) s t
    let fields : Prop := cmdWord r 7 / 2 ^ 60 = 1 ∧ SharedFields r ∧ cmdWord r 6 / 2 ^ 29 % 2 ^ 19 = 0 ∧
      (cmdWord r 6).testBit 15 = false ∧ cmdWord r 6 / 2 ^ 6 % 64 = 0 ∧ cmdWord r 6 / 2 ^ 16 % 2 ^ 11 ≤ 1024
    let amax := (cmdWord r 6).testBit 28
    let hist := (cmdWord r 6).testBit 27
    e.run = some r → e.chains.find? (fun c => c.hdr == r.hdr) = some ch → engStops tile.toNat true s = false →
    ch.stale = false → HeaderOk tile.toNat ch s →
    (¬fields → stops r.hist ⟨cEngCmd, 0, 27, r.cur, 0⟩) ∧
    (fields → capFault src pR = none → capFault dst pW = none →
      (capSpace dst ≠ 0 → stops r.hist ⟨cEngFormat, 1, capDepth dst, capPath dst, 0⟩) ∧
      (capSpace dst = 0 → logs < 5 ∨ cmdWord r 5 % 2 ^ 54 % 1024 ≠ 0 →
        stops r.hist ⟨cEngShape, 1, capDepth dst, capPath dst, 0⟩) ∧
      (capSpace dst = 0 → 5 ≤ logs → cmdWord r 5 % 2 ^ 54 % 1024 = 0 → amax = true → hasPerm ch.cap pAtom = false →
        stops r.hist ⟨cCapPerm, 0, capDepth ch.cap, capPath ch.cap, 0⟩) ∧
      (capSpace dst = 0 → 5 ≤ logs → cmdWord r 5 % 2 ^ 54 % 1024 = 0 → (amax = true → hasPerm ch.cap pAtom = true) →
        addrOk src (capPath src) = true → unitInBlock src spfmt soff = true → offInBlock dst doff = true →
        ∀ (F G : Option Nat) (code : Option (Nat × Option Nat)) (follows : List Nat),
          -- the source unit: outside the extents, or read
          (code = none ∧ unitInside src spfmt soff = false ∧ F = r.srcFmt ∧ follows = r.hist ∨
            unitInside src spfmt soff = true ∧ ∃ frame f u m d p, F = some f ∧ (r.srcFmt = none ∨ r.srcFmt = some f) ∧
              sideAt tile.toNat r.fw (engDenied tile.toNat true s) false src spfmt soff s = .ok frame f u m d p ∧
              (∀ x, m = some x → x.src ≠ 3) ∧
              let words := unitWords frame f u ++ stripWords f u m
              Settled tile.toNat r.fw r.hist src soff words s ∧ badWord words key s = none ∧
              follows = afterReads (afterWalk tile.toNat r.fw r.hist src soff s) words s ∧
              code = some (unitCode key frame f u s, (sideStrip f m).map fun q => scaleAt key q f u s)) →
          let after := if offInside dst doff then afterWalk tile.toNat r.fw follows dst doff s else follows
          (offInside dst doff = true → r.units = [] → Walks tile.toNat r.fw follows dst doff s →
            ∀ frame g u m d p, sideAt tile.toNat r.fw none true dst 0 doff s = .ok frame g u (some m) d p → m.src = 3 →
            stops after ⟨cEngShadow, 1, 27, (capPath dst + doff) % 2 ^ 54, r.z⟩) ∧
          ∀ place : Option (Nat × Nat × Mapping),
            (place = none ∧ offInside dst doff = false ∧ G = r.dstFmt ∨
              offInside dst doff = true ∧ Walks tile.toNat r.fw follows dst doff s ∧ ∃ frame g u m d p, G = some g ∧
                sideAt tile.toNat r.fw none true dst 0 doff s = .ok frame g u (some m) d p ∧ m.src ≠ 3 ∧
                (r.dstFmt = none ∨ r.dstFmt = some g) ∧ hasStrip g = true ∧ m.shadow.isSome = true ∧
                (∀ f, code ≠ none → F = some f → f ≤ 1 → containerBits f = containerBits g) ∧
                place = some (frame, u, m)) →
            let units := r.units ++ [⟨r.z % 1024, code, place⟩]
            ((r.z + 1) % 1024 ≠ 0 → ∃ t, exec (.quantizeCommand tile) s = .next t ∧ t.pendw = s.pendw ∧
              OthersKept [] s t ∧ (getTile tile.toNat t).quant = { e with
                run := some { r with z := r.z + 1, srcFmt := F, dstFmt := G, units := units, hist := after }
                ats := none }) ∧
            ((r.z + 1) % 1024 = 0 → ∀ scale : Nat → Nat,
              let f := F.getD 0
              let g := G.getD 58
              let group (q : QElem) : Nat := if squareScale g then 0 else rowOf q.i
              -- a RAW unit has no value that a rule gives: a free value of its code
              let value (q : QElem) : Option FVal := q.src.map fun x =>
                if f ≤ 1 then floatVal fp32 (Config.rawValue (BitVec.ofNat 64 x.1)).toNat else sideVal f x.1 x.2
              (∀ k, IsScale (emaxOf g) (cmdWord r 6 / 2 ^ 16 % 2 ^ 11)
                ((units.filter fun q => group q == k).filterMap value) (scale k)) →
              (r.z + 1 ≠ 4 ^ logs ∨ hist = false ∧ amax = false ∨
                capSpace ch.cap ≠ 3 ∧ ∃ t, capTileOf tile.toNat ch.cap = some t ∧ ch.hdr = panFrame t ch.cap ∧
                  ∀ l < 32, Sealable (tileKey tile.toNat ch.fw s) (ch.hdr / 64 + l) s) →
              -- at the end of the command its report and its header may be written
              (r.z + 1 = 4 ^ logs → let done := (after ++ reportHist tile.toNat ch r s).eraseDups
                reportDelay tile.toNat ch r done s = none ∧ Free tile.toNat ch done s) →
              ∃ t new run, exec (.quantizeCommand tile) s = .next t ∧ t.pendw = s.pendw ++ new ∧
                (∀ p ∈ new, p.key = key ∧ p.held.isSome = true) ∧
                (new.map fun p => MOp.word p.w p.val p.mask) = (units.flatMap fun q => match q.dst with
                  | none => []
                  | some (frame, u, m) =>
                    let x := scale (group q)
                    wordWrite (8 * scaleByte m.strip g u) 8 x :: unitOps frame g u (match value q with
                      | none => 0
                      | some v => codeOf g rm ((cmdWord r 6 / 2 ^ 48 + 40503 * (r.z / 1024 * 1024 + q.i)) % 2 ^ 16)
                        (scaleF v (127 - x)))) ∧
                run.amax = (units.filterMap value).foldl
                  (fun a v => max a (if v = .nan then 0x7FC00000 else roundFloat fp32 0 0 (absF v))) r.amax ∧
                (∀ b, ((lookupNat b run.bins).getD 0) = (lookupNat b r.bins).getD 0 +
                  ((units.filterMap value).filter fun v =>
                    roundFloat fp32 1 0 (absF v) / 2 ^ 23 % 256 == b).length) ∧
                if r.z + 1 = 4 ^ logs then ∃ u, Reported hist amax ch run s u ∧
                  (getTile tile.toNat u).quant.chains = e.chains ∧ Ended tile.toNat true ch r.cur (some next) none u t
                else (getTile tile.toNat t).quant = { e with run := some run, ats := none } ∧ run.z = r.z + 1 ∧
                  run.units = [] ∧ OthersKept [] s t)))

/-- R247 to R254: the engines read their commands and run them unit by unit. (model's
choices: log 63, 64, 65, 67, 86, 97, 99, 110, 112) -/
def Obligations.EnginesRunCommands : Prop := CommandsAreRead ∧ CopiesRun ∧ QuantizersRun

/-- R246, R248, R249: chains are advanced and regions published, from the instruction to its performance. (model's
choices: log 58, 66, 71) -/
def Obligations.ChainsAndPublication : Prop := EngineInstructions ∧ ChainsAdvanceAndRegionsPublish

/-! ### Fences and `rinv` (R110, R307) -/

/-- Is a tile, or the sector slice of a line, within a fence's scope, seen from a hart's tile (R110)? -/
def Sys2Proof.Claims.tileWithin (k : FenceScope) (own t : Nat) : Prop :=
  match k with
  | .cell => False
  | .tile => t = own
  | .sector => t / 16 = own / 16
  | .stack => t / 64 = own / 64
  | .domain => True

/-- Is the home of a line within a scope: a pan or a semaphore in its tile, a line of memory in its sector slice, and the
host and the leaders in the domain? -/
def Sys2Proof.Claims.homeWithin (k : FenceScope) (own l : Nat) (s : State) : Prop :=
  k = .domain ∨ (l < 2 ^ 60 ∧
    if semBase ≤ 64 * l then tileWithin k own ((64 * l - semBase) / 512)
    else if panBase ≤ 64 * l then tileWithin k own ((64 * l - panBase) / 2 ^ 20)
    else k = .sector ∧ sectorFor l s = own / 16 ∨ k = .stack ∧ sectorFor l s / 4 = own / 64)

/-- What a fence waits for: its hart's stores to the commons of its cell, and the messages, the posted increments and the
requests that it has sent or that precede it, at homes within its scope. -/
def Sys2Proof.Claims.Outstanding (k : FenceScope) (s : State) : Prop :=
  (∃ x ∈ (getCell (s.me.name.toNat / 16) s).stq, x.src = s.me.name.toNat) ∨
  (∃ m ∈ s.msgs, m.id ∈ s.me.hist ∧ tileWithin k (ownTile s) (m.dst / 512)) ∨
  (∃ x ∈ s.tiles, tileWithin k (ownTile s) x.1 ∧
    ∃ v ∈ x.2.semv ++ x.2.semHeld, v.src = s.me.name.toNat ∨ v.id ∈ s.me.hist) ∨
  ∃ r ∈ s.reqs, (r.isWrite = true ∧ r.id ∈ s.me.hist ∨ r.id ∈ s.me.out) ∧ homeWithin k (ownTile s) r.line s

/-- The dies whose translations an `rinv` drops beyond its hart's own: its die for B = 1, and for B = 2 every die of its
partition. -/
def Sys2Proof.Claims.droppedIn (scope : Nat) (s : State) (die : Nat) : Prop :=
  match scope, hartPartition s.me s with
  | 0, _ => False
  | 1, _ => die = s.me.name.toNat / 2 ^ 16
  | _, none => die = s.me.name.toNat / 2 ^ 16
  | _, some p => if p.whole = true then die < 64 ∧ p.diemask.getLsbD die = true else die = p.die

/-- The chains of an engine after an `rinv`: those of user and kernel harts whose header was translated by a leaf or range of
the block translate it afresh. -/
def Sys2Proof.Claims.Forgets (d p : Nat) (x y : Engine) : Prop :=
  y = { x with chains := x.chains.map fun c => { c with
    stale := c.stale || capSpace c.cap == 0 && !c.fw && overlaps d p c.blk.1 c.blk.2 } }

/-- R110, R121, R307: a fence waits for the completion word until everything in its scope has been performed; what its hart's
reads there have each found then precedes all that follows it, and it moves the pc on; `rinv` drops every translation that
overlaps its block in the scope that B names, in cells, in dies and in the chains of engines, waits until no access in
flight may still use one, and then moves on; B = 3 is no scope. (model's choices: log 21, 56, 68, 96) -/
def Obligations.FencesAndInvalidation : Prop :=
  (∀ (s : State), ∀ x ∈ [(Instr.fenceCell, FenceScope.cell), (.fenceTile, .tile), (.fenceSector, .sector),
      (.fenceStack, .stack), (.fenceDomain, .domain)],
    let g : Gate := { plainGate x.1 [] [] with bars := true }
    Ready g s →
    (Outstanding x.2 s → exec x.1 s = .next (waitOn [.completion] s)) ∧
    (¬Outstanding x.2 s → ∃ hist, exec x.1 s = .next (modMe (fun h => { h with hist := hist }) (advance g s)) ∧
      (∀ i ∈ s.me.hist, i ∈ hist) ∧
      ∀ p ∈ s.pends, p.route = s.me.name.toNat → ∀ y ∈ p.done, homeWithin x.2 (ownTile s) y.1 s →
        ∀ i ∈ y.2, i ∈ hist)) ∧
  ∀ (b a : Byte) (s : State), let i := Instr.rinv b a
    let v := (readOp .d .A a 0 s.me).1
    let scope := (readOp .d .B b (sameStream a b) s.me).1 % 4
    let d := blockDepth v
    let p := blockPath v d
    let g : Gate := { plainGate i [srcNeed .d .A a 0 s.me, srcNeed .d .B b (sameStream a b) s.me] [] with
      bars := true, set := .Y }
    let uses : Prop :=
      (∃ r ∈ s.reqs, if scope = 0 then r.id ∈ s.me.out else droppedIn scope s (r.src / 2 ^ 16)) ∨
      (∃ x ∈ s.tiles, ∃ f ∈ x.2.fills, if scope = 0 then f.id ∈ s.me.work else droppedIn scope s (x.1 / 2 ^ 7)) ∨
      -- a unit of a square that the quantizer has located in the block and not yet written
      ∃ x ∈ s.tiles, scope ≠ 0 ∧ droppedIn scope s (x.1 / 2 ^ 7) ∧ ∃ run, x.2.quant.run = some run ∧ run.fw = false ∧
        ∃ q ∈ run.units, ∃ y, q.dst = some y ∧ overlaps d p y.2.2.depth y.2.2.path = true
    let walked (h : Hart) : Hart :=
      { h with walked := s.me.walked, walkFaults := s.me.walkFaults }
    Ready g s →
    (scope = 3 → exec i s = .next (cause (cIllegal 2 0) (wordNat i) s)) ∧
    (scope ≠ 3 → Outstanding .domain s → exec i s = .next (waitOn [.completion] s)) ∧
    (scope ≠ 3 → ¬Outstanding .domain s → ∃ u,
      (uses → exec i s = .next (waitOn [.completion] u)) ∧ (¬uses → exec i s = .next (advance g u)) ∧
      u.mem = s.mem ∧ u.reqs = s.reqs ∧ walked u.me = s.me ∧ u.me.walked = [] ∧ u.me.walkFaults = [] ∧
      u.harts.map walked = s.harts.map walked ∧
      (∀ x ∈ u.cells, ∃ y ∈ s.cells, x.1 = y.1 ∧ x.2 = { y.2 with tlb := x.2.tlb } ∧
        ∀ e, e ∈ x.2.tlb ↔ e ∈ y.2.tlb ∧ ¬(overlaps d p e.map.depth e.map.path = true ∧
          if scope = 0 then y.1 = s.me.name.toNat / 16 ∧ e.slot = s.me.name.toNat % 16
          else droppedIn scope s (y.1 / 2 ^ 12))) ∧
      (∀ x ∈ u.dies, ∃ y ∈ s.dies, x.1 = y.1 ∧ x.2 = { y.2 with ranges := x.2.ranges } ∧
        ∀ e, e ∈ x.2.ranges ↔ e ∈ y.2.ranges ∧ ¬(droppedIn scope s y.1 ∧
          let r := rangeOf fun k => (e.2.extractLsb' (64 * k) 64).toNat
          overlaps d p r.depth r.path = true)) ∧
      (∀ x ∈ u.tiles, ∃ y ∈ s.tiles, x.1 = y.1 ∧ x.2 = { y.2 with copy := x.2.copy, quant := x.2.quant } ∧
        (droppedIn scope s (x.1 / 2 ^ 7) → Forgets d p y.2.copy x.2.copy ∧ Forgets d p y.2.quant x.2.quant) ∧
        (¬droppedIn scope s (x.1 / 2 ^ 7) → x = y)) ∧
      (scope ≠ 0 → u.host.atc = []) ∧ (scope = 0 → u.host = s.host))

/-! ### Translation, walks and parks (R295 to R309, R325) -/

/-- Bits lo to lo + n - 1 of a number. -/
def Sys2Proof.Claims.bits (v lo n : Nat) : Nat := v / 2 ^ lo % 2 ^ n

/-- Two addresses lie in one block of a depth (R27). -/
def Sys2Proof.Claims.sameBlock (a b depth : Nat) : Prop := a / 4 ^ (27 - depth) = b / 4 ^ (27 - depth)

/-- A range entry that is malformed (R299): a reserved mode, a reserved bit set, a hole that is no block of the entry's, or a
table, direct or host entry with a depth, an offset or a format that its mode does not admit. -/
def Sys2Proof.Claims.BadRange (w : Nat → Nat) : Prop :=
  let depth := bits (w 0) 56 5
  let mode := bits (w 1) 60 3
  let fmt := bits (w 1) 54 6
  let hd := bits (w 3) 56 5
  4 ≤ mode ∨
  (bits (w 0) 61 3 ≠ 0 ∨ bits (w 0) 54 2 ≠ 0 ∨ bits (w 1) 63 1 ≠ 0 ∨ bits (w 3) 61 2 ≠ 0 ∨ bits (w 3) 54 2 ≠ 0 ∨
    bits (w 4) 54 9 ≠ 0 ∨ bits (w 5) 54 10 ≠ 0 ∨ bits (w 6) 20 44 ≠ 0 ∨ w 7 ≠ 0 ∨ mode ≠ 3 ∧ bits (w 2) 54 10 ≠ 0) ∨
  (bits (w 3) 63 1 = 1 ∧ (27 < hd ∨ hd < depth ∨ ¬sameBlock (bits (w 3) 0 54) (bits (w 0) 0 54) depth)) ∨
  (mode = 2 ∧ (depth % 3 ≠ 0 ∨ depth < 9 ∨ 18 < depth ∨ w 2 % 2 ^ 10 ≠ 0)) ∨
  (mode = 1 ∧ w 2 % 2 ^ 12 ≠ 0) ∨ (mode = 3 ∧ fmt ≠ 0 ∧ fmt ≠ 1)

/-- R295 to R302, R337: the firmware map maps every byte of memory to itself; the other map takes the first range entry that
matches an address, and a malformed entry, an address beyond its LIMIT or in its hole is unmapped; a direct or host entry
maps from its OFFSET, and a table entry is walked, three levels of depth at a time, to a leaf, an absent entry or an
invalid one; an entry whose line does not read ends the walk as failing, with the failure of its line. -/
def Sys2Proof.Claims.AddressesResolve : Prop :=
  (∀ (tile a : Nat) (s : State), (namesMemory a s = false → resolve true tile a s = .unmapped 27 a) ∧
    (namesMemory a s = true → ∃ m, resolve true tile a s = .ok m ∧ covers m a = true ∧ m.frame + (a - m.path) = a ∧
      m.fmt = 0 ∧ m.src = 0)) ∧
  (∀ (tile a : Nat) (s : State), partitionOf tile s = none → resolve false tile a s = .unmapped 27 a) ∧
  ∀ (tile a : Nat) (p : Partition) (s : State), partitionOf tile s = some p → (getDie (tile / 2 ^ 7) s).ranges = [] →
    let w (i k : Nat) : Nat := viewVal (viewOf ((p.rangetab + 64 * i) / 8 + k) s)
    let reads (l : Nat) : Prop := lineReads l p.n s = true
    let fails (l : Nat) : Prop := resolve false tile a s = .failing (getSide s.mem l).sliceBad l
    let fits (i : Nat) : Prop := bits (w i 1) 60 3 ≠ 0 ∧ bits (w i 0) 56 5 ≤ 27 ∧
      sameBlock a (bits (w i 0) 0 54) (bits (w i 0) 56 5)
    ((∀ i < 64, reads (p.rangetab / 64 + i) ∧ ¬fits i) → resolve false tile a s = .unmapped 27 a) ∧
    (∀ i < 64, (∀ j < i, reads (p.rangetab / 64 + j) ∧ ¬fits j) → ¬reads (p.rangetab / 64 + i) →
      fails (p.rangetab / 64 + i)) ∧
    ∀ i < 64, fits i → reads (p.rangetab / 64 + i) → (∀ j < i, reads (p.rangetab / 64 + j) ∧ ¬fits j) →
      let depth := bits (w i 0) 56 5
      let path := bits (w i 0) 0 54
      let mode := bits (w i 1) 60 3
      let fmt := bits (w i 1) 54 6
      let hole := if bits (w i 3) 63 1 = 1 then
          some (bits (w i 3) 56 5, aligned (bits (w i 3) 0 54) (54 - 2 * bits (w i 3) 56 5)) else none
      let inHole : Prop := bits (w i 3) 63 1 = 1 ∧ sameBlock a (bits (w i 3) 0 54) (bits (w i 3) 56 5)
      let shadow := if bits (w i 4) 63 1 = 1 ∧ mode ≠ 3 then some (bits (w i 4) 0 54) else none
      (BadRange (w i) → resolve false tile a s = .unmapped depth path) ∧
      (¬BadRange (w i) → bits (w i 1) 0 54 < a - path → resolve false tile a s = .unmapped 27 a) ∧
      (¬BadRange (w i) → a - path ≤ bits (w i 1) 0 54 → inHole → ∀ h, hole = some h →
        resolve false tile a s = .unmapped h.1 h.2) ∧
      (¬BadRange (w i) → a - path ≤ bits (w i 1) 0 54 → ¬inHole →
        (mode ≠ 2 → fmtKind fmt = .reserved → resolve false tile a s = .badFmt depth path) ∧
        (mode ≠ 2 → fmtKind fmt ≠ .reserved →
          resolve false tile a s =
            if mode = 1 ∧ namesMemory (w i 2 + (a - path) * containerBits fmt / 8) s = false then .unmapped 27 a
            else .ok ⟨if mode = 1 then 1 else 3, path, depth, path + bits (w i 1) 0 54, hole, w i 2, fmt,
              bits (w i 5) 0 54, shadow, bits (w i 6) 0 20⟩) ∧
        (mode = 2 → ∀ (k : Nat) (node : Nat → Nat), k < 4 → depth + 3 * (k + 1) ≤ 27 → node 0 = w i 2 →
          let d (j : Nat) : Nat := depth + 3 * (j + 1)
          let at_ (j : Nat) : Nat := (node j + 16 * (a / 4 ^ (27 - d j) % 64)) / 8
          let e (j : Nat) : Nat := viewVal (viewOf (at_ j) s)
          let e' (j : Nat) : Nat := viewVal (viewOf (at_ j + 1) s)
          let clean (j : Nat) : Prop := bits (e j) 54 2 = 0 ∧ bits (e' j) 54 10 = 0
          (∀ j < k, reads (at_ j / 8) ∧ bits (e j) 62 2 = 1 ∧ clean j ∧ d j < 21 ∧
            bits (e j) 0 54 % 2 ^ 10 = 0 ∧ namesMemory (bits (e j) 0 54) s = true ∧ node (j + 1) = bits (e j) 0 54) →
          let base := aligned a (54 - 2 * d k)
          let addr := bits (e k) 0 54
          let strip := bits (e' k) 0 54
          let leaf := bits (e k) 56 6
          let size := 4 ^ (27 - d k) * containerBits leaf / 8
          (¬reads (at_ k / 8) → fails (at_ k / 8)) ∧
          (reads (at_ k / 8) →
            (bits (e k) 62 2 = 0 → resolve false tile a s = .unmapped (d k) base) ∧
            (bits (e k) 62 2 = 3 → resolve false tile a s = .absent (at_ k / 8) (d k) base) ∧
            (bits (e k) 62 2 = 2 → ¬(clean k ∧ d k ∈ [12, 15, 18, 21] ∧ namesMemory addr s = true) →
              resolve false tile a s = .unmapped (d k) base) ∧
            (bits (e k) 62 2 = 2 → clean k → d k ∈ [12, 15, 18, 21] → namesMemory addr s = true →
              fmtKind leaf = .reserved → resolve false tile a s = .badFmt (d k) base) ∧
            (bits (e k) 62 2 = 2 → clean k → d k ∈ [12, 15, 18, 21] → fmtKind leaf ≠ .reserved → addr % size = 0 →
              namesMemory addr s = true → namesMemory (addr + size - 1) s = true →
              (hasStrip leaf = true → strip % min (stripSize (d k) leaf) 64 = 0 ∧ namesMemory strip s = true) →
              resolve false tile a s = .ok
                ⟨2, base, d k, path + bits (w i 1) 0 54, hole, addr, leaf, strip, shadow, 0⟩))))

/-- A hart presents its instruction again with what its walks have found. -/
def Sys2Proof.Claims.again (maps : List Mapping) (faults : List (Nat × Nat)) (h : Hart) : Hart :=
  { h with stat := .running, woken := false, walked := h.walked ++ maps, walkFaults := h.walkFaults ++ faults }

/-- R303 to R306, R325: a walk for a hart that missed fills a TLB entry of its slot and lets it go on; a walk that finds no
mapping leaves the hart to trap; one that reaches an ABSENT entry parks it, registered at the entry's line, with a record
in its partition's ring, or counted in FOVF where its place is full; and no walk ends while 128 walks that arrived earlier
are not done, while a write that the hart follows is still in flight to an entry's home, or in a fenced tile, and before it
reads a line that ECC cannot correct and parity rebuilds, that is written back (R348). -/
def Sys2Proof.Claims.WalksEnd : Prop :=
  (∀ s : State, present s.me = true →
    hasWalker s.me s = false ∨ walkWaits (sharers s.me s) s = true ∨ ownTile s ∈ s.fenced →
    exec (.walk s.me.name) s = .next s) ∧
  (∀ (a l : Nat) (s : State), present s.me = true → s.me.stat = .missed a → hasWalker s.me s = true →
    walkWaits (sharers s.me s) s = false → ownTile s ∉ s.fenced →
    ((walkWords (sharers s.me s) s).map fun w => w / 8).find? (fun l => eccFails l s && rebuilds l s) = some l →
    exec (.walk s.me.name) s = .next (repairLine l s)) ∧
  ∀ (a : Nat) (s : State), present s.me = true → s.me.stat = .missed a → hasWalker s.me s = true →
    walkWaits (sharers s.me s) s = false → ownTile s ∉ s.fenced → sharers s.me s = [s.me] →
    NoRepair (walkWords [s.me] s) s →
    let fw := s.me.mode == .firmware
    let tile := ownTile s
    let h (t : State) : Hart := { t.me with hist := s.me.hist }
    let served (t : State) : Prop := exec (.walk s.me.name) s = .next t ∧ (∀ i ∈ s.me.hist, i ∈ t.me.hist) ∧
      t.misses = s.misses.filter (fun n => n != s.me.name.toNat)
    (∀ m, resolve fw tile a s = .ok m → ∃ t, served t ∧ t.mem = s.mem ∧
      h t = again [m] [] s.me ∧ (mapsUnit m a s = true → tlbHit s.me a t = some m)) ∧
    (∀ d p, resolve fw tile a s = .unmapped d p → ∃ t, served t ∧ t.mem = s.mem ∧ h t = again [] [(0, a)] s.me) ∧
    (∀ d p, resolve fw tile a s = .badFmt d p → ∃ t, served t ∧ t.mem = s.mem ∧ h t = again [] [(1, a)] s.me) ∧
    (∀ slice l, resolve fw tile a s = .failing slice l → let u := countFailing l s
      ∃ t, served t ∧ t.mem = u.mem ∧ h t = again [] [(if slice then 3 else 2, a)] u.me) ∧
    ∀ l d p, resolve fw tile a s = .absent l d p → ∃ t, served t ∧
      bare { h t with stat := .running, epoch := 0 } = bare { s.me with stat := .running, epoch := 0 } ∧
      t.me.stat = .absent l ∧ t.me.epoch = s.me.epoch + 1 ∧
      ∀ part, hartPartition s.me s = some part → memoryOk s → part.syspage % 2 ^ 14 = 0 → 2048 ≤ part.syspage / 8 →
        let ring := part.syspage + 0x1000 + 16 * (part.parks % 256)
        let fovf := part.syspage + 0x210
        (∀ x, x = ring / 64 ∨ x = fovf / 64 → x ≠ l ∧ Sealable part.n x s) →
        ⟨l, s.me.name.toNat, s.me.epoch + 1⟩ ∈ t.wake ∧
        ((viewOf (ring / 8) s).fe = false → viewVal (viewOf (ring / 8) t) = (d * 2 ^ 56 + p) % 2 ^ 64 ∧
          viewVal (viewOf (ring / 8 + 1) t) = s.me.name.toNat ∧ (viewOf (ring / 8) t).fe = true ∧
          OthersKept [ring / 8, ring / 8 + 1] s t) ∧
        ((viewOf (ring / 8) s).fe = true →
          viewVal (viewOf (fovf / 8) t) = (rawWord s.mem (fovf / 8) + 1) % 2 ^ 64 ∧ OthersKept [fovf / 8] s t)

/-- The pages of a host address space that a request to the host uses (R309). -/
def Sys2Proof.Claims.usesHost (pasid page n : Nat) (r : Req) : Prop :=
  match r.op with
  | .hostRead q a => q = pasid ∧ page ≤ a / 2 ^ 12 ∧ a / 2 ^ 12 < page + n
  | .hostWrite q a _ _ => q = pasid ∧ page ≤ a / 2 ^ 12 ∧ a / 2 ^ 12 < page + n
  | _ => False

/-- The ATC after a completion for the page of an address. -/
def Sys2Proof.Claims.cached (m : Mapping) (a : Nat) (r w : Bool) (l : List AtcEntry) : List AtcEntry :=
  let page := (m.frame + (a - m.path) * containerBits m.fmt / 8) / 2 ^ 12
  (if r || w then [⟨m.pasid, page, r, w⟩] else []) ++ l.filter (fun e => !(e.pasid == m.pasid && e.page == page))

/-- R309: the host's translation of a parked access, or of an engine's read, is cached, and the access goes on if it is
allowed; if not, the port asks for the page, and after its success for the translation again; a second refusal or a
failure faults; an Invalidate Request drops entries of its pages, and its completion is held until every use of them has
been performed. (model's choices: log 102) -/
def Sys2Proof.Claims.HostTranslations : Prop :=
  (∀ (a : Nat) (write : Bool) (phase : Nat) (r w : Bool) (m : Mapping) (s : State), present s.me = true →
    namesEngine s.me.name.toNat = false → s.me.stat = .hostPark a write phase → phase ≠ 1 → s.host.iface = .run →
    mappingOf s.me a s = some m →
    let allowed : Prop := if write = true then w = true else r = true
    ∃ t, exec (.atsCompletion s.me.name r w) s = .next t ∧ t.mem = s.mem ∧ t.host.atc = cached m a r w s.host.atc ∧
      (allowed → t.me = again [] [] s.me) ∧
      (¬allowed → phase = 2 → t.me = again [] [(0, a)] s.me) ∧
      (¬allowed → phase ≠ 2 → t.me = { s.me with stat := .hostPark a write 1 })) ∧
  (∀ (a : Nat) (write ok : Bool) (s : State), present s.me = true → namesEngine s.me.name.toNat = false →
    s.me.stat = .hostPark a write 1 →
    ∃ t, exec (.priResponse s.me.name ok) s = .next t ∧ t.mem = s.mem ∧ t.host = s.host ∧
      t.me = if ok = true then { s.me with stat := .hostPark a write 2 } else again [] [(0, a)] s.me) ∧
  (∀ (tile a phase : Nat) (eng : Bool) (s : State), tile < 2 ^ 13 →
    (engineOf eng (getTile tile s)).ats = some (a, phase) →
    let name : Name := BitVec.ofNat 22 (512 * tile + 288 + if eng then 1 else 0)
    let left (x : Option (Nat × Nat)) (t : State) : Prop := t.mem = s.mem ∧ t.me = s.me ∧
      engineOf eng (getTile tile t) = { engineOf eng (getTile tile s) with ats := x }
    (∀ (r w : Bool) (m : Mapping), phase = 0 ∨ phase = 2 → s.host.iface = .run → resolve false tile a s = .ok m →
      m.src = 3 → ∃ t, exec (.atsCompletion name r w) s = .next t ∧ t.host.atc = cached m a r w s.host.atc ∧
        left (if r then none else some (a, phase + 1)) t) ∧
    (∀ ok, phase = 1 → ∃ t, exec (.priResponse name ok) s = .next t ∧ t.host = s.host ∧
      left (some (a, if ok then 2 else 3)) t)) ∧
  ∀ (pasid : BitVec 20) (page n : Nat) (s : State), ∃ t, exec (.hostInvalidate pasid page n) s = .next t ∧
    t = { s with host := { s.host with atc := t.host.atc, invals := t.host.invals, invalsDone := t.host.invalsDone } } ∧
    (∀ e, e ∈ t.host.atc ↔ e ∈ s.host.atc ∧ ¬(e.pasid = pasid.toNat ∧ page ≤ e.page ∧ e.page < page + n)) ∧
    t.host.invals.length + t.host.invalsDone = s.host.invals.length + s.host.invalsDone + 1 ∧
    -- the uses: requests, and the writes that open transactions hold
    let held (i : Nat) (p : MOp → Prop) : Prop := ∃ h ∈ everyHart s, ∃ o ∈ h.txn.buf, o.2.1 = i ∧ p o.2.2
    let uses (i : Nat) : Prop := (∃ r ∈ s.reqs, r.id = i ∧ usesHost pasid.toNat page n r) ∨
      held i fun o => ∃ a v m, o = .host pasid.toNat a v m ∧ page ≤ a / 2 ^ 12 ∧ a / 2 ^ 12 < page + n
    (∀ l ∈ t.host.invals, ∃ i ∈ l, (∃ r ∈ s.reqs, r.id = i) ∨ held i fun _ => True) ∧
    ((∃ i, uses i) → ∃ l ∈ t.host.invals, ∀ i, uses i → i ∈ l)

/-- R295 to R309, R325: translations, walks and the host's part in them. (model's choices: log 13, 59, 67, 72,
78, 87) -/
def Obligations.TranslationsAndWalks : Prop := AddressesResolve ∧ WalksEnd ∧ HostTranslations

/-! ### The partition manager, its page, traces, leaders and mailboxes (R311 to R316, R322 to R326, R329, R330, R347, R348,
R354, R355) -/

/-- A command of a kind stands in CMD, with bits 55:48 zero and every write that it follows applied (R312, R313). -/
def Sys2Proof.Claims.Commands (op cmd : Nat) (s : State) : Prop :=
  (getDie 0 s).trained0 = true ∧ (viewOf 0 s).fe = true ∧ wordHist 0 (2 ^ 64 - 1) s = [] ∧ memoryOk s ∧
    cmd = rawWord s.mem 0 ∧
  cmd / 2 ^ 56 = op ∧ bits cmd 48 8 = 0

/-- The manager has taken a command and written its result, full. -/
def Sys2Proof.Claims.Results (r : Nat) (t : State) : Prop :=
  (viewOf 0 t).fe = false ∧ viewVal (viewOf 1 t) = r ∧ (viewOf 1 t).fe = true

/-- A command that fails changes nothing except RESULT. -/
def Sys2Proof.Claims.FailsWith (e : Instr) (r : Nat) (s : State) : Prop :=
  ∃ t, exec e s = .next t ∧ Results r t ∧ OthersKept [0, 1] s t ∧ t.parts = s.parts ∧ t.spans = s.spans ∧
    t.fenced = s.fenced ∧ bare t.me = bare s.me ∧ t.harts.map bare = s.harts.map bare

/-- Word k of descriptor n (R312). -/
def Sys2Proof.Claims.pd (n k : Nat) (s : State) : Nat := rawWord s.mem (128 + 16 * n + k)

/-- The partition that descriptor n describes (R314, R330): its leader and replica are its first live dies. -/
def Sys2Proof.Claims.Describes (n : Nat) (p : Partition) (s : State) : Prop :=
  let w := pd n 0 s
  let live := ((List.range 64).filter fun d => if p.whole then p.diemask.getLsbD d else p.die == d).filter fun d =>
    !(getDie d s).failed
  p.n = n ∧ p.whole = w.testBit 61 ∧ p.hostf = w.testBit 60 ∧ p.topo = bits w 58 2 ∧ p.die = bits w 14 6 ∧
  p.row0 = bits w 11 3 ∧ p.row1 = bits w 8 3 ∧ p.col0 = bits w 4 4 ∧ p.col1 = bits w 0 4 ∧
  p.diemask = BitVec.ofNat 64 (pd n 1 s) ∧ p.rangetab = bits (pd n 2 s) 0 54 ∧ p.syspage = bits (pd n 3 s) 0 54 ∧
  p.spill = bits (pd n 4 s) 0 54 ∧ p.spilln = bits (pd n 5 s) 0 32 ∧ p.gen = s.trust.genNext ∧ p.parks = 0 ∧
  p.leader = live.headD 0 ∧ p.replica = live[1]? ∧ p.frontier = none

/-- A descriptor that fails check 2 of R315, with what R316 asks of TOPO and an even start address (R355). -/
def Sys2Proof.Claims.BadDescriptor (n : Nat) (p : Partition) (s : State) : Prop :=
  bits (pd n 0 s) 20 38 ≠ 0 ∨ (∃ k ∈ [2, 3, 4], bits (pd n k s) 54 10 ≠ 0) ∨ bits (pd n 5 s) 32 32 ≠ 0 ∨
  (∃ k, 6 ≤ k ∧ k < 16 ∧ pd n k s ≠ 0) ∨ p.row1 < p.row0 ∨ p.col1 < p.col0 ∨
  p.rangetab % 2 ^ 12 ≠ 0 ∨ p.syspage % 2 ^ 14 ≠ 0 ∨ p.spill % 2 ^ 12 ≠ 0 ∨
  (∃ x ∈ [p.rangetab, p.syspage, p.spill], namesMemory x s = false) ∨ (p.whole = true ∧ p.topo ≠ 0) ∨
  (p.topo = 1 ∧ ((p.row1 - p.row0 + 1) % 2 ≠ 0 ∨ p.col1 - p.col0 + 1 < 2)) ∨
  (p.topo = 3 ∧ (p.row1 - p.row0 + 1 < 3 ∨ p.col1 - p.col0 + 1 < 3)) ∨
  (∃ d ∈ partDies p, 4 * s.pkgs ≤ d) ∨ rawWord s.mem 2 % 2 = 1

/-- The pans of a partition's tiles read as wiped, and no hart of the state before stands in them. -/
def Sys2Proof.Claims.Wiped (p : Partition) (t : State) : Prop :=
  ∀ a, panBase ≤ a → a < semBase → inPartition p ((a - panBase) / 2 ^ 20) = true → readByte t.mem a = 0

/-- R315, R324, R355: OPEN checks its descriptor in order; it wipes the partition's tiles, writes its system page, opens it
and starts its program in kernel mode on its lowest tile in service, at ARG0, delegating what ARG1 names. -/
def Sys2Proof.Claims.Opens : Prop :=
  ∀ (s : State) (cmd : Nat) (p : Partition), Commands 1 cmd s →
    let n := bits cmd 40 8
    (16 ≤ n → FailsWith .pmOpen 1 s) ∧
    (n < 16 → Describes n p s →
      let closed : Prop := bits (pd n 0 s) 62 2 = 0
      let overlaps : Prop := ∃ t ∈ areaTiles p, ∃ q ∈ s.parts, inPartition q t = true
      let fenced : Prop := fenceFails p s = true
      let taken : Prop := p.hostf = true ∧ ∃ q ∈ s.parts, q.hostf = true
      (¬closed → FailsWith .pmOpen 6 s) ∧
      (closed → BadDescriptor n p s → FailsWith .pmOpen 1 s) ∧
      (closed → ¬BadDescriptor n p s → overlaps → FailsWith .pmOpen 2 s) ∧
      (closed → ¬BadDescriptor n p s → ¬overlaps → fenced → FailsWith .pmOpen 3 s) ∧
      (closed → ¬BadDescriptor n p s → ¬overlaps → ¬fenced → taken → FailsWith .pmOpen 5 s) ∧
      (closed → ¬BadDescriptor n p s → ¬overlaps → ¬fenced → ¬taken → 2 ^ 14 ≤ p.syspage → isRom p.syspage = false →
        ∃ t, exec .pmOpen s = .next t ∧ Results 0 t ∧ t.parts = s.parts ++ [p] ∧ bits (pd n 0 t) 62 2 = 1 ∧
          t.trust.genNext = s.trust.genNext + 1 ∧ Wiped p t ∧
          (∀ a, 2 ^ 14 ≤ a → a < panBase → a / 2 ^ 14 ≠ p.syspage / 2 ^ 14 → readByte t.mem a = readByte s.mem a) ∧
          (∀ a < 2 ^ 14, readByte t.mem (p.syspage + a) = 0) ∧
          (∀ k < 64, (viewOf (p.syspage / 8 + k) t).fe = !p.hostf) ∧
          (viewOf (p.syspage / 8 + 64) t).fe = false ∧ (viewOf (p.syspage / 8 + 65) t).fe = false ∧
          (viewOf (p.syspage / 8 + 66) t).fe = true ∧ (∀ k, 512 ≤ k → k < 1024 → (viewOf (p.syspage / 8 + k) t).fe = false) ∧
          (∀ l < 256, (getSide t.mem (p.syspage / 64 + l)).pending = true ↔ ∃ e ∈ t.pendw, e.w / 8 = p.syspage / 64 + l) ∧
          (inPartition p (ownTile s) = true → t.me.stat = .free) ∧
          (∀ e ∈ t.seals, e.1 % 32 ≠ n) ∧
          ∀ tile, (partTiles p s).head? = some tile →
            let first : Hart := { Hart.blank (BitVec.ofNat 22 (tile * 512)) (BitVec.ofNat 54 (rawWord s.mem 2)) .kernel with
              c := [Cap.root0, Cap.root1] ++ List.replicate 14 Cap.null
              fwdeleg := BitVec.ofNat 16 (rawWord s.mem 3) }
            first ∈ t.harts ∧ ∀ h ∈ t.harts, inPartition p (h.name.toNat / 512) = true → h = first))

/-- R315, R335: CLOSE answers BUSY while anything of the partition is in use; else it wipes its tiles, drops its translations
and its pending writes, and closes it. -/
def Sys2Proof.Claims.Closes : Prop :=
  ∀ (s : State) (cmd : Nat), Commands 2 cmd s →
    let n := bits cmd 40 8
    (16 ≤ n → FailsWith .pmClose 1 s) ∧
    (n < 16 → s.parts.find? (fun p => p.n == n) = none → FailsWith .pmClose 6 s) ∧
    ∀ p, n < 16 → s.parts.find? (fun p => p.n == n) = some p →
      let busy : Prop :=
        (∃ h ∈ everyHart s, inPartition p (h.name.toNat / 512) = true ∧ h.name.toNat / 512 ∉ s.fenced) ∨
        (∃ t ∈ s.tiles, inPartition p t.1 = true ∧ t.1 ∉ s.fenced ∧
          ∃ c ∈ t.2.copy.chains ++ t.2.quant.chains, viewVal (viewUnder (tileKey t.1 c.fw s) (c.hdr / 8 + 7) s) % 4 ≠ 0) ∨
        uncommitted p s ≠ [] ∨
        (p.hostf = true ∧ (s.host.iface = .locked ∨ s.host.iface = .run ∨ s.host.iface = .quiesced))
      (busy → FailsWith .pmClose 4 s) ∧
      (¬busy → ∃ t, exec .pmClose s = .next t ∧ Results 0 t ∧ t.parts = s.parts.filter (fun q => q.n != n) ∧
        bits (pd n 0 t) 62 2 = 0 ∧ Wiped p t ∧ (∀ e ∈ t.pendw, e.pan = false → e.key ≠ n) ∧
        (∀ e ∈ s.pendw, e.pan = false → e.key = n → (∀ x ∈ t.pendw, x.w / 8 ≠ e.w / 8) →
          (getSide t.mem (e.w / 8)).pending = false) ∧ (∀ d ∈ t.dies, ∀ e ∈ d.2.ranges, e.1 / 64 ≠ n) ∧
        (∀ a, 2 ^ 14 ≤ a → a < panBase → readByte t.mem a = readByte s.mem a))

/-- R313, R315, R329: FENCE and UNFENCE take a closed tile out of service or return it; SPANOPEN and SPANCLOSE open and close
a counter; any other command word is BADARG. -/
def Sys2Proof.Claims.FencesAndSpans : Prop :=
  (∀ (s : State) (cmd : Nat) (on : Bool), Commands (if on then 3 else 4) cmd s →
    let e : Instr := if on then .pmFence else .pmUnfence
    let t := bits cmd 0 13
    let w := 512 + 2 * (t / 128) + t % 128 / 64
    (4 * s.pkgs ≤ t / 128 → FailsWith e 1 s) ∧
    (t / 128 < 4 * s.pkgs → (∃ p ∈ s.parts, inPartition p t = true) → FailsWith e 4 s) ∧
    (t / 128 < 4 * s.pkgs → (∀ p ∈ s.parts, inPartition p t = false) →
      ∃ u, exec e s = .next u ∧ Results 0 u ∧ OthersKept [0, 1, w] s u ∧ (∀ x, x ∈ u.fenced ↔ x ≠ t ∧ x ∈ s.fenced ∨
        x = t ∧ on) ∧
        ∀ k < 64, (rawWord u.mem w).testBit k = if k = t % 64 then on else (rawWord s.mem w).testBit k)) ∧
  (∀ (s : State) (cmd : Nat), Commands 5 cmd s →
    let k := bits cmd 40 8
    let a := rawWord s.mem 3
    (64 ≤ k → FailsWith .pmSpanOpen 1 s) ∧
    (k < 64 → (∃ c ∈ s.spans, c.id = k) → FailsWith .pmSpanOpen 6 s) ∧
    (k < 64 → (∀ c ∈ s.spans, c.id ≠ k) → ∃ t, exec .pmSpanOpen s = .next t ∧ Results 0 t ∧ OthersKept [0, 1] s t ∧
      t.spans = s.spans ++ [⟨k, a % 16, rawWord s.mem 2, a / 16 * 16, rawWord s.mem 2⟩])) ∧
  (∀ (s : State) (cmd : Nat), Commands 6 cmd s →
    let k := bits cmd 40 8
    (64 ≤ k → FailsWith .pmSpanClose 1 s) ∧
    (k < 64 → (∀ c ∈ s.spans, c.id ≠ k) → FailsWith .pmSpanClose 6 s) ∧
    (k < 64 → (∃ c ∈ s.spans, c.id = k) → ∃ t, exec .pmSpanClose s = .next t ∧ Results 0 t ∧ OthersKept [0, 1] s t ∧
      t.spans = s.spans.filter fun c => c.id != k)) ∧
  ∀ s : State, (getDie 0 s).trained0 = true → (viewOf 0 s).fe = true → wordHist 0 (2 ^ 64 - 1) s = [] → memoryOk s →
    let cmd := rawWord s.mem 0
    let op := cmd / 2 ^ 56
    (op = 0 ∨ 6 < op ∨ bits cmd 48 8 ≠ 0) → FailsWith .pmBadArg 1 s

/-- What the failure of a die does to a counter of a partition: led by that die, it goes on from its replica's NEXT; with
its replica there, the next one takes NEXT over. -/
def Sys2Proof.Claims.handed (d : Nat) (s : State) (c : Span) : Span :=
  match s.parts.find? fun p => p.n == c.part with
  | none => c
  | some p => if p.leader = d then { c with next := c.copy } else if p.replica = some d then { c with copy := c.next } else c

/-- Is a counter led by a die, with a replica or without one? -/
def Sys2Proof.Claims.ledBy (d : Nat) (replica : Bool) (s : State) (c : Span) : Bool :=
  match s.parts.find? fun p => p.n == c.part with
  | none => false
  | some p => p.leader == d && p.replica.isSome == replica

/-- The counter that a claim which the leader has counted is for, with its count and width. -/
def Sys2Proof.Claims.counting (o : HomeOp) : Option (Nat × Nat × Nat) :=
  match o with
  | .spanAck k count width _ _ => some (k, count, width)
  | .spanReply k count width _ => some (k, count, width)
  | _ => none

/-- R326, R330: TCMD copies the trace ring of a bank, oldest entry first, clears it and gives the count, or all ones for a
tile of another partition; when a die fails, the partitions that it leads, or serves as replica, take their lowest live
dies: their counters go on from the replica's NEXT, and claims without a reply come again, or the counters close where
there is no replica. (model's choices: log 37) -/
def Sys2Proof.Claims.TracesAndLeaders : Prop :=
  (∀ (n : BitVec 4) (p : Partition) (s : State), s.parts.find? (fun p => p.n == n.toNat) = some p → memoryOk s →
    p.syspage % 2 ^ 14 = 0 → 2 ^ 14 ≤ p.syspage → p.syspage + 2 ^ 14 ≤ panBase →
    (∀ l < 256, Sealable p.n (p.syspage / 64 + l) s) →
    let w := p.syspage / 8
    let cmd := rawWord s.mem (w + 64)
    let tile := bits cmd 9 13
    let ring := (lookupNat (bits cmd 0 4) (getTile tile s).rings).getD ⟨[], 0, []⟩
    (viewOf (w + 64) s).fe = true → wordHist (w + 64) (2 ^ 64 - 1) s = [] →
    ∃ t, exec (.traceCopy n) s = .next t ∧ (viewOf (w + 64) t).fe = false ∧ (viewOf (w + 65) t).fe = true ∧
      (holdsTile p tile s = false → viewVal (viewOf (w + 65) t) = 0xFFFFFFFF ∧ OthersKept [w + 64, w + 65] s t) ∧
      (holdsTile p tile s = true → viewVal (viewOf (w + 65) t) = ring.entries.length % 2 ^ 64 ∧
        OthersKept ([w + 64, w + 65] ++ (List.range 1024).map fun i => w + 1024 + i) s t ∧
        ((lookupNat (bits cmd 0 4) (getTile tile t).rings).getD ⟨[], 0, []⟩).entries = [] ∧
        ∀ i < 1024, viewVal (viewOf (w + 1024 + i) t) = match ring.entries[i]? with
          | none => 0
          | some e => e.src % 2 ^ 22 * 2 ^ 42 + e.word % 2 ^ 17 * 2 ^ 25 + e.bmask.toNat * 2 ^ 17 + e.seq % 2 ^ 15 * 4 +
              (if e.remote then 2 else 0) + 1)) ∧
  ∀ (d : BitVec 6) (s : State), (s.parts.map fun p => p.n).Nodup →
    ∃ t, exec (.leaderElection d) s = .next t ∧ t.mem = s.mem ∧ (getDie d.toNat t).failed = true ∧
      t.spans = (s.spans.filter fun c => !ledBy d.toNat false s c).map (handed d.toNat s) ∧
      t.reqs = s.reqs.map (fun r => match counting r.op with
        | none => r
        | some (k, count, width) =>
          if ∃ c ∈ s.spans, c.id = k ∧ ledBy d.toNat true s c = true then { r with op := .spnext k count width } else r) ∧
      t.parts = s.parts.map fun p =>
        let live := (partDies p).filter fun x => !(getDie x t).failed
        if p.leader = d.toNat ∨ p.replica = some d.toNat then
          { p with leader := live.headD p.leader, replica := live[1]? }
        else p

/-- R8, R9, R311, R312, R347, R348, R354: firmware's writes to words of the manager's page: commands, but for the Reserved
bits of a fenced tile's number, arguments, and descriptors but for their STATE are taken as written, the care registers
keep their fields and their least values, FAILMAP collects channels and two of a stack set TWOFAIL, BFCTL keeps LOCK, and
TENWR while that is set; other words do not change, nor do the writes and atomics of other harts change any. (model's
choices: log 60, 104) -/
def Sys2Proof.Claims.PageWrites : Prop :=
  (∀ (r : Req) (w : Nat) (s : State), Due r s → r.remote = false → w < 2048 →
    (∃ v m, r.op = .write [.word w v m]) ∨ (∃ op off n x e, r.op = .amo op w off n x e) ∨
      (∃ a z ret, r.op = .fadd a z ret ∧ a / 2 = w) →
    r.fw = false ∨ w = 1 ∨ 3 < w ∧ w < 128 ∨ 384 ≤ w ∧ w < 1024 ∨ w = 0x2000 / 8 ∨ w = 0x2028 / 8 ∨
      0x2038 / 8 ≤ w ∧ w < 0x2400 / 8 ∨ 0x2800 / 8 ≤ w →
    ∃ t, exec (.accessPerform r.id []) s = .next t ∧ t.mem = s.mem) ∧
  (∀ (off : BitVec 14) (v : Word) (s : State), memoryOk s →
    let w := off.toNat / 8
    let old := rawWord s.mem w
    let reads (x : Nat) : Prop := ∃ t, exec (.registerWrite off v) s = .next t ∧ rawWord t.mem w = x ∧
      (viewOf w t).fe = true ∧ OthersKept [w] s t
    (w = 0 → reads (if v.toNat / 2 ^ 56 = 3 ∨
      v.toNat / 2 ^ 56 = 4 then v.toNat / 2 ^ 40 * 2 ^ 40 + v.toNat % 2 ^ 13 else v.toNat)) ∧
    (w = 2 ∨ w = 3 → reads v.toNat) ∧
    (128 ≤ w → w < 384 → w % 16 = 0 → reads (old / 2 ^ 62 * 2 ^ 62 + v.toNat % 2 ^ 62)) ∧
    (128 ≤ w → w < 384 → w % 16 ≠ 0 → reads v.toNat) ∧
    (w = 0x2008 / 8 → reads (v.toNat % 2 ^ 22)) ∧
    (w = 0x2010 / 8 → reads (max (v.toNat % 2 ^ 16) 256 + bits v.toNat 16 1 * 2 ^ 16)) ∧
    (w = 0x2018 / 8 → reads (v.toNat % 64)) ∧
    (w = 0x2020 / 8 → reads (max (v.toNat % 2 ^ 32) 1)) ∧
    (w = 1 ∨ 3 < w ∧ w < 128 ∨ 384 ≤ w ∧ w < 1024 ∨ w = 0x2000 / 8 ∨ w = 0x2028 / 8 ∨ 0x2038 / 8 ≤ w ∧ w < 0x2400 / 8 ∨
        0x2800 / 8 ≤ w → exec (.registerWrite off v) s = .next s)) ∧
  (∀ (i : BitVec 7) (v : BitVec 32) (s : State), memoryOk s →
    let old : BitVec 32 := BitVec.ofNat 32 (rawWord s.mem (0x2400 / 8 + i.toNat))
    ∃ t, exec (.failmapWrite i v) s = .next t ∧
      BitVec.ofNat 32 (rawWord t.mem (0x2400 / 8 + i.toNat)) = old ||| v ∧
      (2 ≤ ((List.range 32).filter fun k => (old ||| v).getLsbD k).length → (rawWord t.mem (0x2000 / 8)).testBit 2 = true) ∧
      t.care.elogNext = s.care.elogNext + ((List.range 32).filter fun k => v.getLsbD k && !old.getLsbD k).length) ∧
  (∀ s : State, memoryOk s → let old := rawWord s.mem (0x2030 / 8)
    (∃ t, exec .bfctlLock s = .next t ∧ rawWord t.mem (0x2030 / 8) = 1 + bits old 1 1 * 2 ∧ OthersKept [0x2030 / 8] s t) ∧
    ∀ v, ∃ t, exec (.bfctlTenwr v) s = .next t ∧ OthersKept [0x2030 / 8] s t ∧
      rawWord t.mem (0x2030 / 8) = old % 2 + (if old % 2 = 1 then bits old 1 1 else if v then 1 else 0) * 2)

/-- R322, R323, R342: a host write of 8 bytes in RUN fills an empty mailbox and wakes the harts registered for it, and is
lost, with its MBOVF bit, at a full one; MBOVF clears by ones; a read in RUN or QUIESCED gives a mailbox, MBFULL or MBOVF;
QUIESCED drops writes; and in the other states a request completes as unsupported. (model's choices: log 103) -/
def Sys2Proof.Claims.Mailboxes : Prop :=
  (∀ (off : BitVec 12) (v : Word) (p : Partition) (s : State), s.host.iface = .run →
    s.parts.find? (fun p => p.hostf) = some p → p.syspage % 2 ^ 14 = 0 → off.toNat % 8 = 0 → off.toNat < 512 →
    let k := off.toNat / 8
    let w := p.syspage / 8 + k
    ((viewOf w s).fe = true → exec (.mboxWrite off (some v)) s =
      .next { s with host := { s.host with mbovf := s.host.mbovf ||| BitVec.twoPow 64 k } }) ∧
    ((viewOf w s).fe = false → memoryOk s → 2 ^ 14 ≤ p.syspage → Sealable p.n (w / 8) s →
      ∃ t, exec (.mboxWrite off (some v)) s = .next t ∧ Wrote w v (BitVec.allOnes 64) s t ∧ t.host = s.host)) ∧
  (∀ (off : BitVec 12) (v : Option Word) (s : State),
    (s.host.iface = .quiesced → v.isSome = true → exec (.mboxWrite off v) s = .next s) ∧
    (s.host.iface ∉ [.run, .quiesced] →
      exec (.mboxWrite off v) s = .next { s with host := { s.host with answer := .unsupported } })) ∧
  (∀ (off : BitVec 12) (p : Partition) (s : State), s.host.iface ∈ [.run, .quiesced] →
    s.parts.find? (fun p => p.hostf) = some p →
    let a := off.toNat
    let word (k : Nat) : WordView := viewOf (p.syspage / 8 + k) s
    let gives (v : Word) : Prop := exec (.mboxWrite off none) s = .next { s with host := { s.host with answer := .word v } }
    (a % 8 = 0 → a < 512 → failCause p.n (p.syspage / 8 + a / 8) s = none →
      gives (BitVec.ofNat 64 (viewVal (word (a / 8))))) ∧
    (a = 0x208 → gives s.host.mbovf) ∧
    (a = 0x200 → ∃ v, gives v ∧ ∀ k < 64, v.getLsbD k = (word k).fe)) ∧
  ∀ (v : Word) (p : Partition) (s : State), s.host.iface = .run → s.parts.find? (fun p => p.hostf) = some p →
    ∀ e ∈ [Instr.mbovfClear v, .mboxWrite 0x208 (some v)],
      exec e s = .next { s with host := { s.host with mbovf := s.host.mbovf &&& ~~~v } }

/-- R311 to R316, R322 to R326, R329, R330: the partition manager and what it serves. (model's choices: log 30, 34, 35,
36, 60) -/
def Obligations.PartitionManager : Prop :=
  Opens ∧ Closes ∧ FencesAndSpans ∧ TracesAndLeaders ∧ PageWrites ∧ Mailboxes

/-! ### The host interface, sessions, reports, tamper stops and the life cycle (R332, R335, R338 to R346, R353, R356 to R358) -/

/-- A request that is refused (R339, R341). -/
def Sys2Proof.Claims.refused_ (s : State) : State := { s with host := { s.host with answer := .invalidRequest } }

/-- The interface enters a state: nothing drains any more, harts parked on HOST accesses look again, an activation that
QUIESCED does not hold ends, and in ERROR or CONFIG_UNLOCKED the translations and the requests of the port are gone; memory
is as it was, but for what the state before it wiped. -/
def Sys2Proof.Claims.Enters (i : Iface) (s t : State) : Prop :=
  t.host.iface = i ∧ t.host.draining = false ∧ t.host.nonce = s.host.nonce ∧ t.host.session = s.host.session ∧
  t.host.ideKeys = s.host.ideKeys ∧ t.mem = s.mem ∧ t.parts = s.parts ∧
  t.trust = (if i = .quiesced then s.trust else { s.trust with actpend := false }) ∧
  (∀ a w k, s.me.stat = .hostPark a w k → t.me.stat = .running) ∧
  (if i = .error ∨ i = .unlocked then t.host.atc = [] ∧ (∀ r ∈ t.reqs, r ∈ s.reqs ∧ reqHost r.op = false)
   else t.host.atc = s.host.atc ∧ t.reqs = s.reqs)

/-- R341 to R343: the interface goes from CONFIG_UNLOCKED over CONFIG_LOCKED, with a fresh nonce, to RUN, by that nonce; from
RUN it drains to QUIESCED, and back; what a locked interface does not allow is an error; a stop or a function-level reset
closes the host's partition and unlocks; everything else is refused. -/
def Sys2Proof.Claims.InterfaceStates : Prop :=
  (∀ s : State, let ok : Prop := s.host.iface = .unlocked ∧ s.host.ideKeys = true ∧ ∃ p ∈ s.parts, p.hostf = true
    (ok → ∃ t, exec .lockInterfaceRequest s = .next t ∧ t.free = s.free + 1 ∧
      t.host = { s.host with iface := .locked, draining := false, nonce := Config.nonce s.free,
                             answer := .nonce (Config.nonce s.free) } ∧
      t.mem = s.mem ∧ t.parts = s.parts ∧ t.reqs = s.reqs) ∧
    (¬ok → exec .lockInterfaceRequest s = .next (refused_ s))) ∧
  (∀ (n : BitVec 256) (s : State), let ok : Prop := s.host.iface = .locked ∧ n = s.host.nonce
    (ok → ∃ t, exec (.startInterfaceRequest n) s = .next t ∧ Enters .run s t) ∧
    (¬ok → exec (.startInterfaceRequest n) s = .next (refused_ s))) ∧
  (∀ s : State, exec .quiesce s = .next (if s.host.iface = .run then { s with host := { s.host with draining := true } }
    else refused_ s)) ∧
  (∀ s : State, let due : Prop := ∃ r ∈ s.reqs, ∃ x y, r.op = .hostRead x y
    let ok : Prop := s.host.iface = .run ∧ s.host.draining = true ∧ ¬due
    (ok → ∃ t, exec .quiesceDrainDone s = .next t ∧ Enters .quiesced s t) ∧
    (¬ok → exec .quiesceDrainDone s = .next s)) ∧
  (∀ s : State, (s.host.iface = .quiesced → ∃ t, exec .resume s = .next t ∧ Enters .run s t) ∧
    (s.host.iface ≠ .quiesced → exec .resume s = .next (refused_ s))) ∧
  (∀ s : State, ∀ e ∈ [Instr.configWrite, .ideIntegrityFailure],
    (s.host.iface ∈ [.locked, .run, .quiesced] → ∃ t, exec e s = .next t ∧ Enters .error s t) ∧
    (s.host.iface = .unlocked ∨ s.host.iface = .error → exec e s = .next s)) ∧
  ∀ s : State, ∀ e ∈ [Instr.stopInterfaceRequest, .flr],
    ((∀ p ∈ s.parts, p.hostf = false) → ∃ t, exec e s = .next t ∧ Enters .unlocked s t) ∧
    ∀ p, s.parts.find? (fun p => p.hostf) = some p → p.n < 16 → ∃ t, exec e s = .next t ∧ t.host.iface = .unlocked ∧
      t.host.atc = [] ∧ t.parts = s.parts.filter (fun q => q.n != p.n) ∧ Wiped p t ∧
      ∀ h ∈ t.harts, inPartition p (h.name.toNat / 512) = false

/-- R332, R335, R340: KEY_EXCHANGE opens a session and IDE_KM installs link keys within one; a link reset drops the keys and
the session's end both; a tamper stop closes the partition of its key set at once, and one of the host's partition is an
error of the interface. -/
def Sys2Proof.Claims.SessionsAndStops : Prop :=
  (∀ s : State, let serves : Prop := s.trust.life ∈ [.provider, .leased, .recovery]
    exec .keyExchange s = .next (if serves then { s with host := { s.host with session := true } } else refused_ s)) ∧
  (∀ s : State, exec .ideKm s = .next (if s.host.session = true then { s with host := { s.host with ideKeys := true } }
    else refused_ s)) ∧
  (∀ s : State, exec .linkReset s = .next { s with host := { s.host with ideKeys := false } }) ∧
  (∀ s : State, exec .sessionEnd s = .next { s with host := { s.host with session := false, ideKeys := false } }) ∧
  ∀ (key : BitVec 5) (s : State),
    (s.parts.find? (fun p => p.n == key.toNat) = none → exec (.tamperStop key) s = .next s) ∧
    ∀ p, s.parts.find? (fun p => p.n == key.toNat) = some p → ∃ t, exec (.tamperStop key) s = .next t ∧
      t.parts = s.parts.filter (fun q => q.n != p.n) ∧ Wiped p t ∧
      (∀ h ∈ t.harts, inPartition p (h.name.toNat / 512) = false) ∧
      (∀ d ∈ t.dies, ∀ e ∈ d.2.ranges, e.1 / 64 ≠ p.n) ∧
      (p.hostf = true → s.host.iface ∈ [.locked, .run, .quiesced] → t.host.iface = .error)

/-- Little-endian bytes of a number. -/
def Sys2Proof.Claims.bytesOf (v n : Nat) : List Nat := (List.range n).map fun i => bits v (8 * i) 8

/-- The code of a life-cycle state (R338). -/
def Sys2Proof.Claims.codeOfLife (l : LifeCycle) : Nat :=
  match l with
  | .blank => 0
  | .provider => 1
  | .leased => 2
  | .recovery => 3
  | .retired => 4

/-- R344, R345, R353: the interface's report with its 16 bytes of device information, the measurement blocks, SHA3-256
digests of the boot ROM, of the host partition's descriptor and of the FENCE area among them, with the raw block, signed on
request, and the boot status words of four dies; none of them changes anything but the answer. -/
def Sys2Proof.Claims.ReportsAndMeasurements : Prop :=
  let version (i : Option Image) : Nat := (i.map fun x => x.version).getD 0
  (∀ s : State, let part := s.parts.find? fun p => p.hostf
    let info : List Nat := [1, 1, 1, 1, 0, 0, 0, 0, 1, 0, 1, 1, 0] ++
      ([(part.map fun p => p.n).getD 0, codeOfLife s.trust.life] ++
        bytesOf ((part.map fun p => (partTiles p s).length).getD 0) 2 ++ bytesOf (version s.trust.active) 4 ++
        bytesOf (version s.trust.activeTenant) 4 ++ [0, 0, 0, 0])
    exec .getDeviceInterfaceReport s = .next (if s.trust.life ∈ [.provider, .leased, .recovery] then
      { s with host := { s.host with answer := .report info } } else refused_ s)) ∧
  (∀ (sign : Bool) (s : State), (s.trust.life = .blank → exec (.getMeasurements sign) s = .next (refused_ s)) ∧
    (s.trust.life ≠ .blank → ∃ blocks sig,
      let raw : List Nat := [codeOfLife s.trust.life, if s.trust.actpend then 1 else 0, 0, 0] ++
        bytesOf (version s.trust.active) 4 ++ bytesOf (version s.trust.activeTenant) 4 ++ [0, 0, 0, 0]
      exec (.getMeasurements sign) s =
        .next { s with host := { s.host with answer := .measurements blocks raw sig } } ∧
      let words (l : List Nat) : List Nat := l.flatMap fun w => bytesOf w 8
      blocks.length = 5 ∧ blocks[0]? = some (sha3 ((List.range (2 ^ 18)).map fun i => (Config.romByte i).toNat)) ∧
      (s.trust.activeTenant = none → blocks[2]? = some 0) ∧
      (∀ p, s.parts.find? (fun p => p.hostf) = some p →
        blocks[3]? = some (sha3 (words ((List.range 6).map fun k => rawWord s.mem (128 + 16 * p.n + k))))) ∧
      blocks[4]? = some (sha3 (words ((List.range 128).map fun i => rawWord s.mem (512 + i)))) ∧
      (sig.isSome = sign))) ∧
  ∀ s : State, exec .getBootStatus s = .next { s with host := { s.host with
    answer := .bootStatus ((List.range 4).map fun d => (getDie d s).boot) } }

/-- R341 to R346, R353, R332, R335, R340: the host's requests of the device. (model's choices: log 14) -/
def Obligations.HostInterface : Prop := InterfaceStates ∧ SessionsAndStops ∧ ReportsAndMeasurements

/-- A reset (R353): everything is as after a reset in the life-cycle state of a security block, which keeps its fuses, its
flash and its last scrub record, with new key sets; the order of moves and the free values go on. -/
def Sys2Proof.Claims.resetTo (k : Trust) (s : State) : State :=
  let r := State.afterReset s.pkgs s.cxl { k with
    fwGen := k.genNext, genNext := k.genNext + 1, active := none, activeTenant := none, actpend := false,
    scrubbing := false }
  { r with choices := s.choices, free := s.free, host := { r.host with sent := s.host.sent } }

/-- R338, R339, R353: a token that is signed, made for this device, newer than the last and fits the state moves the life
cycle on, with everything else as after a reset; any other is refused. -/
def Sys2Proof.Claims.TokensMoveTheLifeCycle : Prop :=
  let moves (e : Instr) (ok : Bool) (dev : BitVec 256) (ctr : Nat) (src dst : LifeCycle) (also : State → Prop)
      (f : Trust → Trust) : Prop := ∀ s : State,
    let fits : Prop := ok = true ∧ dev = Config.deviceHash ∧ s.trust.counter < ctr ∧ s.trust.life = src ∧ also s
    (fits → exec e s = .next (resetTo { f s.trust with life := dst, counter := ctr } s)) ∧
    (¬fits → exec e s = .next (refused_ s))
  ∀ (ok : Bool) (dev hash : BitVec 256) (ctr : Nat),
    moves (.provisioningToken ok dev ctr hash) ok dev ctr .blank .provider (fun _ => True)
      (fun t => { t with providerHash := some hash }) ∧
    moves (.leaseStartToken ok dev ctr) ok dev ctr .provider .leased (fun _ => True) (fun t => { t with scrubDone := false }) ∧
    moves (.leaseEndToken ok dev ctr) ok dev ctr .leased .provider (fun s => s.trust.scrubDone = true) id ∧
    moves (.retireToken ok dev ctr) ok dev ctr .provider .retired (fun _ => True) id ∧
    ∀ s : State, exec .deviceReset s = .next (resetTo s.trust s)

/-- A scrub has begun: every partition is closed, and the time stands in its record to come. -/
def Sys2Proof.Claims.Scrubs (s t : State) : Prop :=
  t.trust.scrubbing = true ∧ t.trust.scrubDone = false ∧ t.trust.scrubStart = s.time ∧
  t.trust.scrubFrom = codeOfLife s.trust.life ∧ t.trust.life = s.trust.life ∧ t.trust.recCounter = s.trust.recCounter ∧
  t.parts = [] ∧ ∀ p ∈ s.parts, ∀ h ∈ t.harts, inPartition p (h.name.toNat / 512) = false

/-- R339, R352, R356, R357: START_SCRUB and the recovery message begin a scrub; its end wipes all memory, the manager's
page standing anew with what its registers keep, leaves no hart but the boot harts, with cleared registers, and makes its
record, 128 bytes with their signed digest; in RECOVERY, with the provider image started, the device is the provider's
again. -/
def Sys2Proof.Claims.ScrubsRun : Prop :=
  (∀ (ok : Bool) (dev : BitVec 256) (ctr : Nat) (s : State),
    let fits : Prop := ok = true ∧ dev = Config.deviceHash ∧ s.trust.counter < ctr ∧
      s.trust.life ∈ [.provider, .leased, .recovery] ∧ s.trust.scrubbing = false
    (fits → ∃ t, exec (.startScrub ok dev ctr) s = .next t ∧ Scrubs s t ∧ t.trust.counter = ctr) ∧
    (¬fits → exec (.startScrub ok dev ctr) s = .next (refused_ s))) ∧
  (∀ (ok : Bool) (ctr : Nat) (s : State),
    let fits : Prop := ok = true ∧ s.trust.life ∈ [.provider, .leased, .recovery] ∧ s.trust.recCounter < ctr
    (fits → ∃ t, exec (.recoveryMessage ok ctr) s = .next t ∧
      Scrubs (resetTo { s.trust with life := .recovery, recCounter := ctr } s) t) ∧
    (¬fits → exec (.recoveryMessage ok ctr) s = .next s)) ∧
  (∀ (clean : Bool) (s : State),
    (s.trust.scrubbing = false → exec (.leaseScrubComplete clean) s = .next s) ∧
    (s.trust.scrubbing = true → ∃ t r sig, exec (.leaseScrubComplete clean) s = .next t ∧
      let back : Prop := s.trust.life = .recovery ∧ clean = true ∧ (getDie 0 s).boot.toNat % 16 = 6
      (∀ a, 2 ^ 14 ≤ a → readByte t.mem a = unlisted a) ∧
      (back ∨ (getDie 0 s).trained0 = false → t.mem = ⟨[], []⟩) ∧
      (¬back → (getDie 0 s).trained0 = true → (viewOf 0 t).fe = false ∧ ∀ k < 128,
        rawWord t.mem (0x1000 / 8 + k) = rawWord s.mem (0x1000 / 8 + k) ∧
        rawWord t.mem (0x2400 / 8 + k) = rawWord s.mem (0x2400 / 8 + k)) ∧
      (¬back → present s.me = true → s.me.name.toNat % 2 ^ 16 = 0 → t.me.pc = s.me.pc ∧ t.me.mode = s.me.mode ∧
        t.me.slices = 0 ∧ t.me.v = List.replicate 16 0 ∧ t.me.rxFull = false ∧
        (s.me.stat = .retired → t.me.stat = .retired)) ∧
      t.trust.scrubbing = false ∧ t.trust.scrubCount = s.trust.scrubCount + 1 ∧
      t.trust.scrubRec = some (r, sig) ∧ sig = Config.signature [(sha3 r).toNat] ∧ t.trust.flashTenant = none ∧
        t.trust.staging = none ∧
      -- the 128 bytes of the record, each field with its size
      r = ([(Config.deviceHash.toNat, 32), (s.trust.scrubCount + 1, 8), (s.trust.scrubFrom, 1),
        (if s.trust.scrubFrom = 2 ∨ s.trust.scrubFrom = 3 then 1 else s.trust.scrubFrom, 1), (0, 6), (s.trust.scrubStart, 8),
        (s.time, 8), (s.pkgs * ((480 * 2 ^ 30 + s.cxl) / 64), 8), (Config.storageBytes, 8),
        (((List.range 128).map fun i => ((List.range 32).filter fun k =>
          (rawWord s.mem (0x2400 / 8 + i)).testBit k).length).sum, 2),
        (s.fenced.length, 2), (if clean then 0 else 1, 1), (0, 43)].flatMap fun x => bytesOf x.1 x.2) ∧
      (∀ h ∈ t.harts, h.name.toNat % 2 ^ 16 = 0) ∧
      (back → t.trust.life = .provider) ∧
      (¬back → t.trust.life = s.trust.life ∧ t.trust.scrubDone = clean))) ∧
  ∀ s : State, exec .getScrubRecord s = .next (match s.trust.scrubRec with
    | some (r, sig) => if s.trust.life ∈ [.provider, .leased, .recovery] then
        { s with host := { s.host with answer := .scrubRecord r sig } } else refused_ s
    | none => refused_ s)

/-- R346, R358: ACTIVATE of a staged image in QUIESCED makes it pending; at the commit point, if its signature verifies and
its version does not fall, image, digest and every firmware vector base change in one step; else it is abandoned. -/
def Sys2Proof.Claims.ImagesActivate : Prop :=
  (∀ (tenant : Bool) (s : State), let fits : Prop := s.host.iface = .quiesced ∧ ∃ i, s.trust.staging = some i ∧
    i.tenant = tenant
    (fits → exec (.activate tenant) s = .next { s with trust := { s.trust with actpend := true } }) ∧
    (¬fits → exec (.activate tenant) s = .next (refused_ s))) ∧
  (∀ s : State, let version (i : Option Image) : Nat := (i.map fun x => x.version).getD 0
    let fits (i : Image) : Prop := s.trust.staging = some i ∧ s.trust.actpend = true ∧ s.host.iface = .quiesced ∧
      i.good = true ∧ version (if i.tenant then s.trust.activeTenant else s.trust.active) ≤ i.version
    (∀ i, fits i → ∃ t, exec .activationCommit s = .next t ∧ t.mem = s.mem ∧
      t.trust = { s.trust with
        actpend := false, active := if i.tenant then s.trust.active else some i
        activeTenant := if i.tenant then some i else s.trust.activeTenant } ∧
      (present s.me = true → t.me = { s.me with fb := { s.me.fb with base := i.vec } }) ∧
      ∀ h ∈ t.harts ++ t.migs, present h = true → h.fb.base = i.vec) ∧
    ((∀ i, ¬fits i) → exec .activationCommit s = .next s)) ∧
  ∀ s : State, let version (i : Option Image) : Nat := (i.map fun x => x.version).getD 0
    let verifies : Prop := ∃ i, s.trust.staging = some i ∧ i.good = true ∧
      version (if i.tenant then s.trust.activeTenant else s.trust.active) ≤ i.version
    exec .activationAbandoned s = .next (if verifies then s else { s with trust := { s.trust with actpend := false } })

/-- R338, R339, R346, R352, R353, R356 to R358: the life cycle, scrubs and activations. (model's choices: log 14, 31,
32, 39, 111) -/
def Obligations.LifeCycleAndActivation : Prop := TokensMoveTheLifeCycle ∧ ScrubsRun ∧ ImagesActivate

/-! ### Boot, row trackers, scrubbers and full service (R347 to R351, R353, R359) -/

/-- A boot status word: STEP, FAILED and REASON (R353). -/
def Sys2Proof.Claims.BootWord (die step : Nat) (failed : Bool) (reason : Nat) (t : State) : Prop :=
  ∃ d, lookupNat die t.dies = some d ∧ d.boot = BitVec.ofNat 64 (step + (if failed then 16 else 0) + 256 * reason)

/-- R353, R338, R354: the ROM's hart of a die walks through steps 1 and 2, each shown in its word as it begins; the fuses
or the wipe may fail, which ends its boot with reason 1 or 2; after them it waits for the training of stack 0. After that
die 0 goes through steps 3 to 5: a device without an owner ends in step 3 with reason 7, a provider image that is missing,
not good or too old ends step 4 with its reason, and at the end of step 5 BFCTL is locked and the provider image is
entered in firmware mode, with the tenant's active beside it in LEASED. -/
def Sys2Proof.Claims.RomStepsRun : Prop :=
  ∀ (die n : Nat) (s : State), s.choices = [] → present s.me = true → s.me.name.toNat = die * 2 ^ 16 →
    s.me.stat = .booting n →
    ∃ t, Sys2Proof.Machine.step s = .next t ∧ (n ≠ 8 → t.mem = s.mem ∧ t.trust = s.trust) ∧
      let goes (k step : Nat) : Prop := t.me = { s.me with stat := .booting k } ∧ BootWord die step false 0 t
      let ends (step : Nat) (failed : Bool) (reason : Nat) : Prop :=
        t.me = { s.me with stat := .retired, streams := [] } ∧ BootWord die step failed reason t
      match n with
      | 0 => goes 1 1
      | 1 => if Config.fuseFails s.free then ends 1 true 1 else goes 2 2
      | 2 => if Config.wipeFails s.free then ends 2 true 2 else t.me = { s.me with stat := .booting 3 } ∧ t.dies = s.dies
      | 5 => goes 6 3
      | 6 => if s.trust.life = .blank ∨ s.trust.life = .retired then ends 3 false 7 else goes 7 4
      | 7 => match s.trust.flashProvider with
        | none => ends 4 true 4
        | some i => if i.good = false then ends 4 true 5 else if i.version < s.trust.minVersion then ends 4 true 6
          else goes 8 5
      | 8 => die = 0 → s.me.txn.depth = 0 → s.me.task = none → memoryOk s →
        (s.trust.life = .recovery → s.trust.scrubDone = false) →
        BootWord 0 6 false 0 t ∧ t.trust = { s.trust with
          active := s.trust.flashProvider
          activeTenant := if s.trust.life = .leased then s.trust.flashTenant else none } ∧
        t.me = { s.me with stat := .running, pc := BitVec.ofNat 54 (Config.providerEntry.toNat / 2 * 2) } ∧
        rawWord t.mem (0x2030 / 8) = 1 + bits (rawWord s.mem (0x2030 / 8)) 1 1 * 2 ∧ OthersKept [0x2030 / 8] s t
      | _ => t = s

/-- R348, R353, R359: training of a die's stack 0 ends step 2: a failure of the stack as a whole ends its boot; on die 0 the
manager's page is then written, and its ROM goes on to step 3; the others wait for a message with an even address that names
memory; stack 1 takes no part in the boot; a stack's first scrub pass begins, and the channels that failed training are
marked. (model's choices: log 41) -/
def Sys2Proof.Claims.DiesBoot : Prop :=
  let waits (s : State) (die : BitVec 6) : Prop := present s.me = true ∧ s.me.name.toNat = die.toNat * 2 ^ 16 ∧
    s.me.stat = .booting 3 ∧ (die ≠ 0 → (getDie 0 s).trained0 = true)
  let starts (k : Nat) (s t : State) : Prop := lookupNat k t.care.scrubs = some ⟨0, s.cycle, false, 0, []⟩
  (∀ (die : BitVec 6) (s : State), waits s die → ∃ t, exec (.hbmTrainingComplete die 0 none) s = .next t ∧
    t.mem = s.mem ∧ BootWord die.toNat 2 true 3 t ∧ t.me = { s.me with stat := .retired, streams := [] }) ∧
  (∀ (die : BitVec 6) (s : State), waits s die → die ≠ 0 →
    ((List.range 32).filter fun k => (rawWord s.mem (0x2400 / 8 + 2 * die.toNat)).testBit k).length < 2 →
    ∃ t, exec (.hbmTrainingComplete die 0 (some 0)) s = .next t ∧
    t.mem = s.mem ∧ t.dies = insertNat die.toNat { getDie die.toNat s with trained0 := true } s.dies ∧
    starts (2 * die.toNat) s t ∧ t.me = { s.me with stat := .booting 4 }) ∧
  (∀ (die : BitVec 6) (f : BitVec 32) (s : State), waits s die → memoryOk s →
    ∃ t, exec (.hbmTrainingComplete die 0 (some f)) s = .next t ∧ (getDie die.toNat t).trained0 = true ∧
      starts (2 * die.toNat) s t ∧
      let w := 0x2400 / 8 + 2 * die.toNat
      BitVec.ofNat 32 (rawWord t.mem w) = if die = 0 then f else BitVec.ofNat 32 (rawWord s.mem w) ||| f) ∧
  (∀ s : State, waits s 0 → s.me.txn.depth = 0 → s.me.task = none → memoryOk s →
    ∃ t, exec (.hbmTrainingComplete 0 0 (some 0)) s = .next t ∧ (getDie 0 t).trained0 = true ∧ t.trust = s.trust ∧
          t.me = { s.me with stat := .booting 5 } ∧
          (viewOf 0 t).fe = false ∧ (viewOf 1 t).fe = false ∧ rawWord t.mem 0 = 0 ∧ rawWord t.mem (0x2000 / 8) = 0 ∧
          rawWord t.mem (0x2010 / 8) = 4096 ∧ rawWord t.mem (0x2018 / 8) = 8 ∧ rawWord t.mem (0x2020 / 8) = 0x8000 ∧
          rawWord t.mem (0x2028 / 8) = 0 ∧ rawWord t.mem (0x2030 / 8) = 2 ∧
          (∀ k < 128, rawWord t.mem (0x2400 / 8 + k) = 0) ∧
          (∀ k < 512, (viewOf (0x3000 / 8 + k) t).fe = false) ∧
          ∀ a, 2 ^ 14 ≤ a → readByte t.mem a = readByte s.mem a) ∧
  (∀ (die : BitVec 6) (f : Option (BitVec 32)) (s : State),
    let ok : Prop := (getDie 0 s).trained0 = true ∧ die.toNat < 4 * s.pkgs ∧ (getDie die.toNat s).trained1 = false
    let w := 0x2400 / 8 + 2 * die.toNat + 1
    (¬ok → exec (.hbmTrainingComplete die 1 f) s = .next s) ∧
    (ok → memoryOk s → ∃ t, exec (.hbmTrainingComplete die 1 f) s = .next t ∧
      t.dies = insertNat die.toNat { getDie die.toNat s with trained1 := true } s.dies ∧ starts (2 * die.toNat + 1) s t ∧
      BitVec.ofNat 32 (rawWord t.mem w) = BitVec.ofNat 32 (rawWord s.mem w) ||| f.getD (BitVec.allOnes 32))) ∧
  ∀ (die : BitVec 6) (s : State), die ≠ 0 → present s.me = true → s.me.name.toNat = die.toNat * 2 ^ 16 →
    s.me.stat = .booting 4 → s.me.rxFull = true →
    ∃ t, exec (.dieStart die) s = .next t ∧ t.mem = s.mem ∧
      (s.me.rx.toNat % 2 = 0 → namesMemory s.me.rx.toNat s = true → BootWord die.toNat 6 false 0 t ∧
        t.me = { s.me with rxFull := false, stat := .running, pc := s.me.rx.setWidth 54 }) ∧
      (¬(s.me.rx.toNat % 2 = 0 ∧ namesMemory s.me.rx.toNat s = true) →
        t.dies = s.dies ∧ t.me = { s.me with rxFull := false })

/-- The count of a row in a tracker. -/
def Sys2Proof.Claims.rowCount (bank row : Nat) (s : State) : Option Nat :=
  lookupNat row ((lookupNat bank s.care.trackers).getD ⟨[], false⟩).rows

/-- R349: an activation counts for its row; a row without an entry takes a free one, or lowers every count by one; a row that
reaches the threshold has its neighbours refreshed, and starts anew; a new window frees every entry. -/
def Sys2Proof.Claims.RowsAreTracked : Prop :=
  (∀ (bank row : Nat) (s : State),
    let rows := ((lookupNat bank s.care.trackers).getD ⟨[], false⟩).rows
    let limit := rawWord s.mem (0x2010 / 8) % 2 ^ 16
    let blast := (rawWord s.mem (0x2010 / 8)).testBit 16
    let count := match rowCount bank row s with
      | some n => some (n + 1)
      | none => if rows.length < 32 then some 1 else none
    let near (k : Nat) : List Nat := if k ≤ row then [row - k, row + k] else [row + k]
    (∀ n, count = some n → n ≠ limit → ∃ t, exec (.rowActivation bank row) s = .next t ∧ t.mem = s.mem ∧
      rowCount bank row t = some n ∧ (∀ r, r ≠ row → rowCount bank r t = rowCount bank r s) ∧
      t.care.refreshes = s.care.refreshes) ∧
    (count = some limit → ∃ t, exec (.rowActivation bank row) s = .next t ∧ rowCount bank row t = some 0 ∧
      (∀ r, r ≠ row → rowCount bank r t = rowCount bank r s) ∧
      t.care.refreshes = s.care.refreshes ++ (near 1 ++ if blast then near 2 else []).map fun r => (bank, r)) ∧
    (count = none → (rows.map Prod.fst).Nodup → ∃ t, exec (.rowActivation bank row) s = .next t ∧ t.mem = s.mem ∧
      rowCount bank row t = none ∧
      ∀ r, rowCount bank r t = match rowCount bank r s with
        | none => none
        | some n => if n ≤ 1 then none else some (n - 1))) ∧
  ∀ s : State, exec .refreshWindow s = .next { s with care := { s.care with trackers := [], refreshes := [] } }

/-- The scrubber of a stack. -/
def Sys2Proof.Claims.scrubber (k : Nat) (s : State) : Scrub := (lookupNat k s.care.scrubs).getD ⟨0, 0, false, 0, []⟩

/-- A scrubber runs: its stack is one of the domain's and trained, and the page stands (R351, R359). -/
def Sys2Proof.Claims.Scrubbing (k : Nat) (s : State) : Prop :=
  (getDie 0 s).trained0 = true ∧ k < 8 * s.pkgs ∧
    (if k % 2 = 0 then (getDie (k / 2) s).trained0 else (getDie (k / 2) s).trained1) = true

/-- The cycle at which a scrub pass is due. -/
def Sys2Proof.Claims.dueAt (v : Scrub) (s : State) : Nat := v.start + rawWord s.mem (0x2020 / 8) % 2 ^ 32 * 2 ^ 20

/-- A record of the error log is written where its place is empty, else ELOVF counts (R347). -/
def Sys2Proof.Claims.Logged (kind idx phys : Nat) (s t : State) : Prop :=
  let w := 0x3000 / 8 + 2 * (s.care.elogNext % 256)
  s.care.elogNext < t.care.elogNext ∧
  ((viewOf w s).fe = false → rawWord t.mem w = phys % 2 ^ 54 ∧ rawWord t.mem (w + 1) = kind + 256 * (idx % 2 ^ 7) ∧
    (viewOf w t).fe = true)

/-- R348, R350, R351: a scrubber goes on to its next line; a line that ECC cannot correct and parity rebuilds is written back
and logged, an uncorrectable one is logged, and the sixteenth failing read of a channel in a pass fails the channel; the
end of a pass starts the next; a pass that misses its deadline escalates once; and the scrubber of a stack that the domain
lacks, or that is not trained, does nothing. (model's choices: log 27) -/
def Sys2Proof.Claims.ScrubbersRun : Prop :=
  (∀ (k : BitVec 7) (s : State), ¬Scrubbing k.toNat s →
    exec (.scrubLine k) s = .next s ∧ exec (.scrubDeadline k) s = .next s) ∧
  (∀ (k : BitVec 7) (s : State), Scrubbing k.toNat s → memoryOk s →
    let v := scrubber k.toNat s
    let l := Config.stackLine k.toNat v.pos
    let c := Config.channel l % 32
    let reads : Prop := isHbm l = true ∧ stackOf l s = k.toNat ∧ namesMemory (64 * l) s = true ∧
      (getSide s.mem l).wiped = false
    let repaired : Prop := reads ∧ eccFails l s = true ∧ rebuilds l s = true
    let logged : Prop := reads ∧ ¬repaired ∧ uncorrectable l s = true
    let onTime : Prop := v.escalated = true ∨ s.cycle < dueAt v s
    let count : Nat := (lookupNat c v.uncorr).getD 0
    ∃ t, exec (.scrubLine k) s = .next t ∧
      (¬onTime → (rawWord t.mem (0x2000 / 8)).testBit 1 = true) ∧
      (v.pos + 1 < 2 ^ 30 → (scrubber k.toNat t).pos = v.pos + 1) ∧
      (v.pos + 1 = 2 ^ 30 → scrubber k.toNat t = ⟨0, s.cycle, false, v.passes + 1, []⟩) ∧
      (onTime → ¬repaired → ¬logged → v.pos + 1 < 2 ^ 30 → t.mem = s.mem ∧ scrubber k.toNat t = { v with pos := v.pos + 1 }) ∧
      (onTime → repaired → count ≠ 15 → (getSide t.mem l).ecc = false ∧ Logged 2 k.toNat (64 * l) s t) ∧
      (onTime → repaired ∨ logged ∧ eccFails l s = true →
        (v.pos + 1 < 2 ^ 30 → (lookupNat c (scrubber k.toNat t).uncorr).getD 0 = count + 1) ∧
        (count = 15 → (rawWord t.mem (0x2400 / 8 + k.toNat)).testBit c = true)) ∧
      (onTime → logged → eccFails l s = false → Logged 1 k.toNat (64 * l) s t)) ∧
  ∀ (k : BitVec 7) (s : State), Scrubbing k.toNat s → memoryOk s → let v := scrubber k.toNat s
    (v.escalated = true → exec (.scrubDeadline k) s = .next s) ∧
    (v.escalated = false → ∃ t, exec (.scrubDeadline k) s = .next t ∧ scrubber k.toNat t = { v with escalated := true } ∧
      (rawWord t.mem (0x2000 / 8)).testBit 1 = true ∧ OthersKept [0x2000 / 8] s t ∧ t.cycle = max s.cycle (dueAt v s))

/-- R347, R352, R354, R359: with every stack trained, every first pass complete, every partition closed and no unit of a tile
at work, full service begins: memory, pans and units are wiped, and the manager's page stands as after a reset, with FULL
set and what MCSTAT, FENCE, FAILMAP and a locked BFCTL hold kept; else nothing happens. -/
def Sys2Proof.Claims.FullServiceBegins : Prop :=
  ∀ s : State,
    let ready : Prop := s.care.full = false ∧ s.parts = [] ∧
      (∀ d < 4 * s.pkgs, (getDie d s).trained0 = true ∧ (getDie d s).trained1 = true) ∧
      0 < s.pkgs ∧ (∀ k < 8 * s.pkgs, 1 ≤ (scrubber k s).passes) ∧
      ∀ x ∈ s.tiles, x.2.fills = [] ∧ x.2.mq = [] ∧ x.2.semv = [] ∧ x.2.semHeld = []
    let kept (t : State) (w : Nat) : Prop := rawWord t.mem w = rawWord s.mem w
    (ready → memoryOk s → ∃ t, exec .fullServiceSwitch s = .next t ∧ t.care.full = true ∧ t.tiles = [] ∧
      (∀ k, (rawWord t.mem (0x2000 / 8)).testBit k = (k == 0 || (rawWord s.mem (0x2000 / 8)).testBit k)) ∧
      rawWord t.mem (0x2010 / 8) = 4096 ∧ (viewOf 0 t).fe = false ∧
      (∀ k < 128, kept t (0x1000 / 8 + k) ∧ kept t (0x2400 / 8 + k)) ∧
      ((rawWord s.mem (0x2030 / 8)).testBit 0 = true → kept t (0x2030 / 8)) ∧
      (∀ a, 2 ^ 14 ≤ a → readByte t.mem a = unlisted a) ∧
      bare t.me = bare s.me ∧ t.harts.map bare = s.harts.map bare) ∧
    (0 < s.pkgs → ¬ready → exec .fullServiceSwitch s = .next s)

/-- R347 to R351, R353, R359: boot and memory care. (model's choices: log 5, 20, 26, 38, 39, 40, 41, 82,
95) -/
def Obligations.BootAndMemoryCare : Prop := RomStepsRun ∧ DiesBoot ∧ RowsAreTracked ∧ ScrubbersRun ∧ FullServiceBegins

/-! ### What every step keeps, and the state after reset (R38, R42, R60, R229, R333, R352, R353) -/

/-- Memory keeps its canonical form at every step, whatever the step does: addresses rise, no listed byte is what an unlisted
one reads as, and the same of the side bands. The form is the model's own. -/
def Obligations.MemoryFormKeptByEveryStep : Prop :=
  ∀ s t : State, memoryOk s → Sys2Proof.Machine.step s = .next t → memoryOk t

/-- R352, R353: after reset memory has its form and every storage element is wiped: every byte outside the ROMs reads
0, full and untagged; each die's first hart is in firmware mode at the first address of its ROM, with the root
capabilities in c0 and c1, and no other hart stands anywhere. (model's choices: log 2, 3, 4) -/
def Obligations.ResetState : Prop :=
  let s := Sys2Proof.Machine.State.reset
  memoryOk s ∧ (∀ a, isRom a = false → readByte s.mem a = 0) ∧
  (∀ w, (viewOf w s).fe = true ∧ (viewOf w s).tag = false) ∧
  (s.me :: s.harts).map (fun h => h.name.toNat) = [0, 2 ^ 16, 2 * 2 ^ 16, 3 * 2 ^ 16] ∧
  (∀ h ∈ s.me :: s.harts, let d := h.name.toNat / 2 ^ 16
    h.mode = .firmware ∧ h.pc = BitVec.ofNat 54 (2 * 2 ^ 48 + d * 2 ^ 40) ∧
    h.c = ⟨BitVec.ofNat 128 (0xFF * 2 ^ 93 + 0xFFFF * 2 ^ 77 + 0xFFFF * 2 ^ 61), true⟩ ::
      ⟨BitVec.ofNat 128 (2 ^ 114 + 0xFF * 2 ^ 93 + 1023 * 2 ^ 77 + 1023 * 2 ^ 61 + 17 * 2 ^ 56), true⟩ ::
      List.replicate 14 ⟨0, false⟩ ∧
    h.slices = 0 ∧ h.v = List.replicate 16 0 ∧ h.xw = 0 ∧ h.xi = 0 ∧ h.xe = 0 ∧ h.xt = 0 ∧ h.xm = List.replicate 4 0 ∧
    h.rxFull = false ∧ h.htcmp = BitVec.allOnes 64 ∧ h.txn.depth = 0) ∧
  s.parts = [] ∧ s.reqs = [] ∧ s.pends = [] ∧ s.host.iface = .unlocked ∧
  ∀ t, getTile t s = Tile.init ∧ (∀ k < 16, (Tile.init.slots.getD k Slot.init).state = .free)
end

