-- ==== Sys2Proof/Laws/State.lean ====
section
/-! SUPPORT. One lemma for each field and each update of the state or of a hart: what the update leaves as it is, and
what it changes. All are true by rfl. -/

namespace Sys2Proof.Machine

open Sys2Proof

/-! modMe -/

@[simp] theorem modMe_me (f : Hart → Hart) (s : State) : (modMe f s).me = f s.me := rfl
@[simp] theorem modMe_harts (f : Hart → Hart) (s : State) : (modMe f s).harts = s.harts := rfl
@[simp] theorem modMe_choices (f : Hart → Hart) (s : State) : (modMe f s).choices = s.choices := rfl
@[simp] theorem modMe_free (f : Hart → Hart) (s : State) : (modMe f s).free = s.free := rfl
@[simp] theorem modMe_ids (f : Hart → Hart) (s : State) : (modMe f s).ids = s.ids := rfl
@[simp] theorem modMe_pkgs (f : Hart → Hart) (s : State) : (modMe f s).pkgs = s.pkgs := rfl
@[simp] theorem modMe_cxl (f : Hart → Hart) (s : State) : (modMe f s).cxl = s.cxl := rfl
@[simp] theorem modMe_time (f : Hart → Hart) (s : State) : (modMe f s).time = s.time := rfl
@[simp] theorem modMe_cycle (f : Hart → Hart) (s : State) : (modMe f s).cycle = s.cycle := rfl
@[simp] theorem modMe_mem (f : Hart → Hart) (s : State) : (modMe f s).mem = s.mem := rfl
@[simp] theorem modMe_accs (f : Hart → Hart) (s : State) : (modMe f s).accs = s.accs := rfl
@[simp] theorem modMe_logs (f : Hart → Hart) (s : State) : (modMe f s).logs = s.logs := rfl
@[simp] theorem modMe_pendw (f : Hart → Hart) (s : State) : (modMe f s).pendw = s.pendw := rfl
@[simp] theorem modMe_reqs (f : Hart → Hart) (s : State) : (modMe f s).reqs = s.reqs := rfl
@[simp] theorem modMe_pends (f : Hart → Hart) (s : State) : (modMe f s).pends = s.pends := rfl
@[simp] theorem modMe_acks (f : Hart → Hart) (s : State) : (modMe f s).acks = s.acks := rfl
@[simp] theorem modMe_msgs (f : Hart → Hart) (s : State) : (modMe f s).msgs = s.msgs := rfl
@[simp] theorem modMe_ipis (f : Hart → Hart) (s : State) : (modMe f s).ipis = s.ipis := rfl
@[simp] theorem modMe_migs (f : Hart → Hart) (s : State) : (modMe f s).migs = s.migs := rfl
@[simp] theorem modMe_enqs (f : Hart → Hart) (s : State) : (modMe f s).enqs = s.enqs := rfl
@[simp] theorem modMe_misses (f : Hart → Hart) (s : State) : (modMe f s).misses = s.misses := rfl
@[simp] theorem modMe_whist (f : Hart → Hart) (s : State) : (modMe f s).whist = s.whist := rfl
@[simp] theorem modMe_wake (f : Hart → Hart) (s : State) : (modMe f s).wake = s.wake := rfl
@[simp] theorem modMe_cells (f : Hart → Hart) (s : State) : (modMe f s).cells = s.cells := rfl
@[simp] theorem modMe_tiles (f : Hart → Hart) (s : State) : (modMe f s).tiles = s.tiles := rfl
@[simp] theorem modMe_dies (f : Hart → Hart) (s : State) : (modMe f s).dies = s.dies := rfl
@[simp] theorem modMe_parts (f : Hart → Hart) (s : State) : (modMe f s).parts = s.parts := rfl
@[simp] theorem modMe_spans (f : Hart → Hart) (s : State) : (modMe f s).spans = s.spans := rfl
@[simp] theorem modMe_fenced (f : Hart → Hart) (s : State) : (modMe f s).fenced = s.fenced := rfl
@[simp] theorem modMe_seals (f : Hart → Hart) (s : State) : (modMe f s).seals = s.seals := rfl
@[simp] theorem modMe_host (f : Hart → Hart) (s : State) : (modMe f s).host = s.host := rfl
@[simp] theorem modMe_trust (f : Hart → Hart) (s : State) : (modMe f s).trust = s.trust := rfl
@[simp] theorem modMe_care (f : Hart → Hart) (s : State) : (modMe f s).care = s.care := rfl

/-! modHart -/

@[simp] theorem modHart_me (n : Nat) (f : Hart → Hart) (s : State) : (modHart n f s).me = (if present s.me && s.me.nm == n then f s.me else s.me) := rfl
@[simp] theorem modHart_harts (n : Nat) (f : Hart → Hart) (s : State) : (modHart n f s).harts = s.harts.map (fun h => if present h && h.nm == n then f h else h) := rfl
@[simp] theorem modHart_choices (n : Nat) (f : Hart → Hart) (s : State) : (modHart n f s).choices = s.choices := rfl
@[simp] theorem modHart_free (n : Nat) (f : Hart → Hart) (s : State) : (modHart n f s).free = s.free := rfl
@[simp] theorem modHart_ids (n : Nat) (f : Hart → Hart) (s : State) : (modHart n f s).ids = s.ids := rfl
@[simp] theorem modHart_pkgs (n : Nat) (f : Hart → Hart) (s : State) : (modHart n f s).pkgs = s.pkgs := rfl
@[simp] theorem modHart_cxl (n : Nat) (f : Hart → Hart) (s : State) : (modHart n f s).cxl = s.cxl := rfl
@[simp] theorem modHart_time (n : Nat) (f : Hart → Hart) (s : State) : (modHart n f s).time = s.time := rfl
@[simp] theorem modHart_cycle (n : Nat) (f : Hart → Hart) (s : State) : (modHart n f s).cycle = s.cycle := rfl
@[simp] theorem modHart_mem (n : Nat) (f : Hart → Hart) (s : State) : (modHart n f s).mem = s.mem := rfl
@[simp] theorem modHart_accs (n : Nat) (f : Hart → Hart) (s : State) : (modHart n f s).accs = s.accs := rfl
@[simp] theorem modHart_logs (n : Nat) (f : Hart → Hart) (s : State) : (modHart n f s).logs = s.logs := rfl
@[simp] theorem modHart_pendw (n : Nat) (f : Hart → Hart) (s : State) : (modHart n f s).pendw = s.pendw := rfl
@[simp] theorem modHart_reqs (n : Nat) (f : Hart → Hart) (s : State) : (modHart n f s).reqs = s.reqs := rfl
@[simp] theorem modHart_pends (n : Nat) (f : Hart → Hart) (s : State) : (modHart n f s).pends = s.pends := rfl
@[simp] theorem modHart_acks (n : Nat) (f : Hart → Hart) (s : State) : (modHart n f s).acks = s.acks := rfl
@[simp] theorem modHart_msgs (n : Nat) (f : Hart → Hart) (s : State) : (modHart n f s).msgs = s.msgs := rfl
@[simp] theorem modHart_ipis (n : Nat) (f : Hart → Hart) (s : State) : (modHart n f s).ipis = s.ipis := rfl
@[simp] theorem modHart_migs (n : Nat) (f : Hart → Hart) (s : State) : (modHart n f s).migs = s.migs := rfl
@[simp] theorem modHart_enqs (n : Nat) (f : Hart → Hart) (s : State) : (modHart n f s).enqs = s.enqs := rfl
@[simp] theorem modHart_misses (n : Nat) (f : Hart → Hart) (s : State) : (modHart n f s).misses = s.misses := rfl
@[simp] theorem modHart_whist (n : Nat) (f : Hart → Hart) (s : State) : (modHart n f s).whist = s.whist := rfl
@[simp] theorem modHart_wake (n : Nat) (f : Hart → Hart) (s : State) : (modHart n f s).wake = s.wake := rfl
@[simp] theorem modHart_cells (n : Nat) (f : Hart → Hart) (s : State) : (modHart n f s).cells = s.cells := rfl
@[simp] theorem modHart_tiles (n : Nat) (f : Hart → Hart) (s : State) : (modHart n f s).tiles = s.tiles := rfl
@[simp] theorem modHart_dies (n : Nat) (f : Hart → Hart) (s : State) : (modHart n f s).dies = s.dies := rfl
@[simp] theorem modHart_parts (n : Nat) (f : Hart → Hart) (s : State) : (modHart n f s).parts = s.parts := rfl
@[simp] theorem modHart_spans (n : Nat) (f : Hart → Hart) (s : State) : (modHart n f s).spans = s.spans := rfl
@[simp] theorem modHart_fenced (n : Nat) (f : Hart → Hart) (s : State) : (modHart n f s).fenced = s.fenced := rfl
@[simp] theorem modHart_seals (n : Nat) (f : Hart → Hart) (s : State) : (modHart n f s).seals = s.seals := rfl
@[simp] theorem modHart_host (n : Nat) (f : Hart → Hart) (s : State) : (modHart n f s).host = s.host := rfl
@[simp] theorem modHart_trust (n : Nat) (f : Hart → Hart) (s : State) : (modHart n f s).trust = s.trust := rfl
@[simp] theorem modHart_care (n : Nat) (f : Hart → Hart) (s : State) : (modHart n f s).care = s.care := rfl

/-! modAll -/

@[simp] theorem modAll_me (f : Hart → Hart) (s : State) : (modAll f s).me = f s.me := rfl
@[simp] theorem modAll_harts (f : Hart → Hart) (s : State) : (modAll f s).harts = s.harts.map f := rfl
@[simp] theorem modAll_choices (f : Hart → Hart) (s : State) : (modAll f s).choices = s.choices := rfl
@[simp] theorem modAll_free (f : Hart → Hart) (s : State) : (modAll f s).free = s.free := rfl
@[simp] theorem modAll_ids (f : Hart → Hart) (s : State) : (modAll f s).ids = s.ids := rfl
@[simp] theorem modAll_pkgs (f : Hart → Hart) (s : State) : (modAll f s).pkgs = s.pkgs := rfl
@[simp] theorem modAll_cxl (f : Hart → Hart) (s : State) : (modAll f s).cxl = s.cxl := rfl
@[simp] theorem modAll_time (f : Hart → Hart) (s : State) : (modAll f s).time = s.time := rfl
@[simp] theorem modAll_cycle (f : Hart → Hart) (s : State) : (modAll f s).cycle = s.cycle := rfl
@[simp] theorem modAll_mem (f : Hart → Hart) (s : State) : (modAll f s).mem = s.mem := rfl
@[simp] theorem modAll_accs (f : Hart → Hart) (s : State) : (modAll f s).accs = s.accs := rfl
@[simp] theorem modAll_logs (f : Hart → Hart) (s : State) : (modAll f s).logs = s.logs := rfl
@[simp] theorem modAll_pendw (f : Hart → Hart) (s : State) : (modAll f s).pendw = s.pendw := rfl
@[simp] theorem modAll_reqs (f : Hart → Hart) (s : State) : (modAll f s).reqs = s.reqs := rfl
@[simp] theorem modAll_pends (f : Hart → Hart) (s : State) : (modAll f s).pends = s.pends := rfl
@[simp] theorem modAll_acks (f : Hart → Hart) (s : State) : (modAll f s).acks = s.acks := rfl
@[simp] theorem modAll_msgs (f : Hart → Hart) (s : State) : (modAll f s).msgs = s.msgs := rfl
@[simp] theorem modAll_ipis (f : Hart → Hart) (s : State) : (modAll f s).ipis = s.ipis := rfl
@[simp] theorem modAll_migs (f : Hart → Hart) (s : State) : (modAll f s).migs = s.migs := rfl
@[simp] theorem modAll_enqs (f : Hart → Hart) (s : State) : (modAll f s).enqs = s.enqs := rfl
@[simp] theorem modAll_misses (f : Hart → Hart) (s : State) : (modAll f s).misses = s.misses := rfl
@[simp] theorem modAll_whist (f : Hart → Hart) (s : State) : (modAll f s).whist = s.whist := rfl
@[simp] theorem modAll_wake (f : Hart → Hart) (s : State) : (modAll f s).wake = s.wake := rfl
@[simp] theorem modAll_cells (f : Hart → Hart) (s : State) : (modAll f s).cells = s.cells := rfl
@[simp] theorem modAll_tiles (f : Hart → Hart) (s : State) : (modAll f s).tiles = s.tiles := rfl
@[simp] theorem modAll_dies (f : Hart → Hart) (s : State) : (modAll f s).dies = s.dies := rfl
@[simp] theorem modAll_parts (f : Hart → Hart) (s : State) : (modAll f s).parts = s.parts := rfl
@[simp] theorem modAll_spans (f : Hart → Hart) (s : State) : (modAll f s).spans = s.spans := rfl
@[simp] theorem modAll_fenced (f : Hart → Hart) (s : State) : (modAll f s).fenced = s.fenced := rfl
@[simp] theorem modAll_seals (f : Hart → Hart) (s : State) : (modAll f s).seals = s.seals := rfl
@[simp] theorem modAll_host (f : Hart → Hart) (s : State) : (modAll f s).host = s.host := rfl
@[simp] theorem modAll_trust (f : Hart → Hart) (s : State) : (modAll f s).trust = s.trust := rfl
@[simp] theorem modAll_care (f : Hart → Hart) (s : State) : (modAll f s).care = s.care := rfl

/-! setCell -/

@[simp] theorem setCell_me (c : Nat) (v : Cell) (s : State) : (setCell c v s).me = s.me := rfl
@[simp] theorem setCell_harts (c : Nat) (v : Cell) (s : State) : (setCell c v s).harts = s.harts := rfl
@[simp] theorem setCell_choices (c : Nat) (v : Cell) (s : State) : (setCell c v s).choices = s.choices := rfl
@[simp] theorem setCell_free (c : Nat) (v : Cell) (s : State) : (setCell c v s).free = s.free := rfl
@[simp] theorem setCell_ids (c : Nat) (v : Cell) (s : State) : (setCell c v s).ids = s.ids := rfl
@[simp] theorem setCell_pkgs (c : Nat) (v : Cell) (s : State) : (setCell c v s).pkgs = s.pkgs := rfl
@[simp] theorem setCell_cxl (c : Nat) (v : Cell) (s : State) : (setCell c v s).cxl = s.cxl := rfl
@[simp] theorem setCell_time (c : Nat) (v : Cell) (s : State) : (setCell c v s).time = s.time := rfl
@[simp] theorem setCell_cycle (c : Nat) (v : Cell) (s : State) : (setCell c v s).cycle = s.cycle := rfl
@[simp] theorem setCell_mem (c : Nat) (v : Cell) (s : State) : (setCell c v s).mem = s.mem := rfl
@[simp] theorem setCell_accs (c : Nat) (v : Cell) (s : State) : (setCell c v s).accs = s.accs := rfl
@[simp] theorem setCell_logs (c : Nat) (v : Cell) (s : State) : (setCell c v s).logs = s.logs := rfl
@[simp] theorem setCell_pendw (c : Nat) (v : Cell) (s : State) : (setCell c v s).pendw = s.pendw := rfl
@[simp] theorem setCell_reqs (c : Nat) (v : Cell) (s : State) : (setCell c v s).reqs = s.reqs := rfl
@[simp] theorem setCell_pends (c : Nat) (v : Cell) (s : State) : (setCell c v s).pends = s.pends := rfl
@[simp] theorem setCell_acks (c : Nat) (v : Cell) (s : State) : (setCell c v s).acks = s.acks := rfl
@[simp] theorem setCell_msgs (c : Nat) (v : Cell) (s : State) : (setCell c v s).msgs = s.msgs := rfl
@[simp] theorem setCell_ipis (c : Nat) (v : Cell) (s : State) : (setCell c v s).ipis = s.ipis := rfl
@[simp] theorem setCell_migs (c : Nat) (v : Cell) (s : State) : (setCell c v s).migs = s.migs := rfl
@[simp] theorem setCell_enqs (c : Nat) (v : Cell) (s : State) : (setCell c v s).enqs = s.enqs := rfl
@[simp] theorem setCell_misses (c : Nat) (v : Cell) (s : State) : (setCell c v s).misses = s.misses := rfl
@[simp] theorem setCell_whist (c : Nat) (v : Cell) (s : State) : (setCell c v s).whist = s.whist := rfl
@[simp] theorem setCell_wake (c : Nat) (v : Cell) (s : State) : (setCell c v s).wake = s.wake := rfl
@[simp] theorem setCell_cells (c : Nat) (v : Cell) (s : State) : (setCell c v s).cells = updateNat c (some v) s.cells := rfl
@[simp] theorem setCell_tiles (c : Nat) (v : Cell) (s : State) : (setCell c v s).tiles = s.tiles := rfl
@[simp] theorem setCell_dies (c : Nat) (v : Cell) (s : State) : (setCell c v s).dies = s.dies := rfl
@[simp] theorem setCell_parts (c : Nat) (v : Cell) (s : State) : (setCell c v s).parts = s.parts := rfl
@[simp] theorem setCell_spans (c : Nat) (v : Cell) (s : State) : (setCell c v s).spans = s.spans := rfl
@[simp] theorem setCell_fenced (c : Nat) (v : Cell) (s : State) : (setCell c v s).fenced = s.fenced := rfl
@[simp] theorem setCell_seals (c : Nat) (v : Cell) (s : State) : (setCell c v s).seals = s.seals := rfl
@[simp] theorem setCell_host (c : Nat) (v : Cell) (s : State) : (setCell c v s).host = s.host := rfl
@[simp] theorem setCell_trust (c : Nat) (v : Cell) (s : State) : (setCell c v s).trust = s.trust := rfl
@[simp] theorem setCell_care (c : Nat) (v : Cell) (s : State) : (setCell c v s).care = s.care := rfl

/-! setTile -/

@[simp] theorem setTile_me (t : Nat) (v : Tile) (s : State) : (setTile t v s).me = s.me := rfl
@[simp] theorem setTile_harts (t : Nat) (v : Tile) (s : State) : (setTile t v s).harts = s.harts := rfl
@[simp] theorem setTile_choices (t : Nat) (v : Tile) (s : State) : (setTile t v s).choices = s.choices := rfl
@[simp] theorem setTile_free (t : Nat) (v : Tile) (s : State) : (setTile t v s).free = s.free := rfl
@[simp] theorem setTile_ids (t : Nat) (v : Tile) (s : State) : (setTile t v s).ids = s.ids := rfl
@[simp] theorem setTile_pkgs (t : Nat) (v : Tile) (s : State) : (setTile t v s).pkgs = s.pkgs := rfl
@[simp] theorem setTile_cxl (t : Nat) (v : Tile) (s : State) : (setTile t v s).cxl = s.cxl := rfl
@[simp] theorem setTile_time (t : Nat) (v : Tile) (s : State) : (setTile t v s).time = s.time := rfl
@[simp] theorem setTile_cycle (t : Nat) (v : Tile) (s : State) : (setTile t v s).cycle = s.cycle := rfl
@[simp] theorem setTile_mem (t : Nat) (v : Tile) (s : State) : (setTile t v s).mem = s.mem := rfl
@[simp] theorem setTile_accs (t : Nat) (v : Tile) (s : State) : (setTile t v s).accs = s.accs := rfl
@[simp] theorem setTile_logs (t : Nat) (v : Tile) (s : State) : (setTile t v s).logs = s.logs := rfl
@[simp] theorem setTile_pendw (t : Nat) (v : Tile) (s : State) : (setTile t v s).pendw = s.pendw := rfl
@[simp] theorem setTile_reqs (t : Nat) (v : Tile) (s : State) : (setTile t v s).reqs = s.reqs := rfl
@[simp] theorem setTile_pends (t : Nat) (v : Tile) (s : State) : (setTile t v s).pends = s.pends := rfl
@[simp] theorem setTile_acks (t : Nat) (v : Tile) (s : State) : (setTile t v s).acks = s.acks := rfl
@[simp] theorem setTile_msgs (t : Nat) (v : Tile) (s : State) : (setTile t v s).msgs = s.msgs := rfl
@[simp] theorem setTile_ipis (t : Nat) (v : Tile) (s : State) : (setTile t v s).ipis = s.ipis := rfl
@[simp] theorem setTile_migs (t : Nat) (v : Tile) (s : State) : (setTile t v s).migs = s.migs := rfl
@[simp] theorem setTile_enqs (t : Nat) (v : Tile) (s : State) : (setTile t v s).enqs = s.enqs := rfl
@[simp] theorem setTile_misses (t : Nat) (v : Tile) (s : State) : (setTile t v s).misses = s.misses := rfl
@[simp] theorem setTile_whist (t : Nat) (v : Tile) (s : State) : (setTile t v s).whist = s.whist := rfl
@[simp] theorem setTile_wake (t : Nat) (v : Tile) (s : State) : (setTile t v s).wake = s.wake := rfl
@[simp] theorem setTile_cells (t : Nat) (v : Tile) (s : State) : (setTile t v s).cells = s.cells := rfl
@[simp] theorem setTile_tiles (t : Nat) (v : Tile) (s : State) : (setTile t v s).tiles = updateNat t (some v) s.tiles := rfl
@[simp] theorem setTile_dies (t : Nat) (v : Tile) (s : State) : (setTile t v s).dies = s.dies := rfl
@[simp] theorem setTile_parts (t : Nat) (v : Tile) (s : State) : (setTile t v s).parts = s.parts := rfl
@[simp] theorem setTile_spans (t : Nat) (v : Tile) (s : State) : (setTile t v s).spans = s.spans := rfl
@[simp] theorem setTile_fenced (t : Nat) (v : Tile) (s : State) : (setTile t v s).fenced = s.fenced := rfl
@[simp] theorem setTile_seals (t : Nat) (v : Tile) (s : State) : (setTile t v s).seals = s.seals := rfl
@[simp] theorem setTile_host (t : Nat) (v : Tile) (s : State) : (setTile t v s).host = s.host := rfl
@[simp] theorem setTile_trust (t : Nat) (v : Tile) (s : State) : (setTile t v s).trust = s.trust := rfl
@[simp] theorem setTile_care (t : Nat) (v : Tile) (s : State) : (setTile t v s).care = s.care := rfl

/-! setDie -/

@[simp] theorem setDie_me (d : Nat) (v : Die) (s : State) : (setDie d v s).me = s.me := rfl
@[simp] theorem setDie_harts (d : Nat) (v : Die) (s : State) : (setDie d v s).harts = s.harts := rfl
@[simp] theorem setDie_choices (d : Nat) (v : Die) (s : State) : (setDie d v s).choices = s.choices := rfl
@[simp] theorem setDie_free (d : Nat) (v : Die) (s : State) : (setDie d v s).free = s.free := rfl
@[simp] theorem setDie_ids (d : Nat) (v : Die) (s : State) : (setDie d v s).ids = s.ids := rfl
@[simp] theorem setDie_pkgs (d : Nat) (v : Die) (s : State) : (setDie d v s).pkgs = s.pkgs := rfl
@[simp] theorem setDie_cxl (d : Nat) (v : Die) (s : State) : (setDie d v s).cxl = s.cxl := rfl
@[simp] theorem setDie_time (d : Nat) (v : Die) (s : State) : (setDie d v s).time = s.time := rfl
@[simp] theorem setDie_cycle (d : Nat) (v : Die) (s : State) : (setDie d v s).cycle = s.cycle := rfl
@[simp] theorem setDie_mem (d : Nat) (v : Die) (s : State) : (setDie d v s).mem = s.mem := rfl
@[simp] theorem setDie_accs (d : Nat) (v : Die) (s : State) : (setDie d v s).accs = s.accs := rfl
@[simp] theorem setDie_logs (d : Nat) (v : Die) (s : State) : (setDie d v s).logs = s.logs := rfl
@[simp] theorem setDie_pendw (d : Nat) (v : Die) (s : State) : (setDie d v s).pendw = s.pendw := rfl
@[simp] theorem setDie_reqs (d : Nat) (v : Die) (s : State) : (setDie d v s).reqs = s.reqs := rfl
@[simp] theorem setDie_pends (d : Nat) (v : Die) (s : State) : (setDie d v s).pends = s.pends := rfl
@[simp] theorem setDie_acks (d : Nat) (v : Die) (s : State) : (setDie d v s).acks = s.acks := rfl
@[simp] theorem setDie_msgs (d : Nat) (v : Die) (s : State) : (setDie d v s).msgs = s.msgs := rfl
@[simp] theorem setDie_ipis (d : Nat) (v : Die) (s : State) : (setDie d v s).ipis = s.ipis := rfl
@[simp] theorem setDie_migs (d : Nat) (v : Die) (s : State) : (setDie d v s).migs = s.migs := rfl
@[simp] theorem setDie_enqs (d : Nat) (v : Die) (s : State) : (setDie d v s).enqs = s.enqs := rfl
@[simp] theorem setDie_misses (d : Nat) (v : Die) (s : State) : (setDie d v s).misses = s.misses := rfl
@[simp] theorem setDie_whist (d : Nat) (v : Die) (s : State) : (setDie d v s).whist = s.whist := rfl
@[simp] theorem setDie_wake (d : Nat) (v : Die) (s : State) : (setDie d v s).wake = s.wake := rfl
@[simp] theorem setDie_cells (d : Nat) (v : Die) (s : State) : (setDie d v s).cells = s.cells := rfl
@[simp] theorem setDie_tiles (d : Nat) (v : Die) (s : State) : (setDie d v s).tiles = s.tiles := rfl
@[simp] theorem setDie_dies (d : Nat) (v : Die) (s : State) : (setDie d v s).dies = updateNat d (some v) s.dies := rfl
@[simp] theorem setDie_parts (d : Nat) (v : Die) (s : State) : (setDie d v s).parts = s.parts := rfl
@[simp] theorem setDie_spans (d : Nat) (v : Die) (s : State) : (setDie d v s).spans = s.spans := rfl
@[simp] theorem setDie_fenced (d : Nat) (v : Die) (s : State) : (setDie d v s).fenced = s.fenced := rfl
@[simp] theorem setDie_seals (d : Nat) (v : Die) (s : State) : (setDie d v s).seals = s.seals := rfl
@[simp] theorem setDie_host (d : Nat) (v : Die) (s : State) : (setDie d v s).host = s.host := rfl
@[simp] theorem setDie_trust (d : Nat) (v : Die) (s : State) : (setDie d v s).trust = s.trust := rfl
@[simp] theorem setDie_care (d : Nat) (v : Die) (s : State) : (setDie d v s).care = s.care := rfl

/-! setHost -/

@[simp] theorem setHost_me (f : HostPort → HostPort) (s : State) : (setHost f s).me = s.me := rfl
@[simp] theorem setHost_harts (f : HostPort → HostPort) (s : State) : (setHost f s).harts = s.harts := rfl
@[simp] theorem setHost_choices (f : HostPort → HostPort) (s : State) : (setHost f s).choices = s.choices := rfl
@[simp] theorem setHost_free (f : HostPort → HostPort) (s : State) : (setHost f s).free = s.free := rfl
@[simp] theorem setHost_ids (f : HostPort → HostPort) (s : State) : (setHost f s).ids = s.ids := rfl
@[simp] theorem setHost_pkgs (f : HostPort → HostPort) (s : State) : (setHost f s).pkgs = s.pkgs := rfl
@[simp] theorem setHost_cxl (f : HostPort → HostPort) (s : State) : (setHost f s).cxl = s.cxl := rfl
@[simp] theorem setHost_time (f : HostPort → HostPort) (s : State) : (setHost f s).time = s.time := rfl
@[simp] theorem setHost_cycle (f : HostPort → HostPort) (s : State) : (setHost f s).cycle = s.cycle := rfl
@[simp] theorem setHost_mem (f : HostPort → HostPort) (s : State) : (setHost f s).mem = s.mem := rfl
@[simp] theorem setHost_accs (f : HostPort → HostPort) (s : State) : (setHost f s).accs = s.accs := rfl
@[simp] theorem setHost_logs (f : HostPort → HostPort) (s : State) : (setHost f s).logs = s.logs := rfl
@[simp] theorem setHost_pendw (f : HostPort → HostPort) (s : State) : (setHost f s).pendw = s.pendw := rfl
@[simp] theorem setHost_reqs (f : HostPort → HostPort) (s : State) : (setHost f s).reqs = s.reqs := rfl
@[simp] theorem setHost_pends (f : HostPort → HostPort) (s : State) : (setHost f s).pends = s.pends := rfl
@[simp] theorem setHost_acks (f : HostPort → HostPort) (s : State) : (setHost f s).acks = s.acks := rfl
@[simp] theorem setHost_msgs (f : HostPort → HostPort) (s : State) : (setHost f s).msgs = s.msgs := rfl
@[simp] theorem setHost_ipis (f : HostPort → HostPort) (s : State) : (setHost f s).ipis = s.ipis := rfl
@[simp] theorem setHost_migs (f : HostPort → HostPort) (s : State) : (setHost f s).migs = s.migs := rfl
@[simp] theorem setHost_enqs (f : HostPort → HostPort) (s : State) : (setHost f s).enqs = s.enqs := rfl
@[simp] theorem setHost_misses (f : HostPort → HostPort) (s : State) : (setHost f s).misses = s.misses := rfl
@[simp] theorem setHost_whist (f : HostPort → HostPort) (s : State) : (setHost f s).whist = s.whist := rfl
@[simp] theorem setHost_wake (f : HostPort → HostPort) (s : State) : (setHost f s).wake = s.wake := rfl
@[simp] theorem setHost_cells (f : HostPort → HostPort) (s : State) : (setHost f s).cells = s.cells := rfl
@[simp] theorem setHost_tiles (f : HostPort → HostPort) (s : State) : (setHost f s).tiles = s.tiles := rfl
@[simp] theorem setHost_dies (f : HostPort → HostPort) (s : State) : (setHost f s).dies = s.dies := rfl
@[simp] theorem setHost_parts (f : HostPort → HostPort) (s : State) : (setHost f s).parts = s.parts := rfl
@[simp] theorem setHost_spans (f : HostPort → HostPort) (s : State) : (setHost f s).spans = s.spans := rfl
@[simp] theorem setHost_fenced (f : HostPort → HostPort) (s : State) : (setHost f s).fenced = s.fenced := rfl
@[simp] theorem setHost_seals (f : HostPort → HostPort) (s : State) : (setHost f s).seals = s.seals := rfl
@[simp] theorem setHost_host (f : HostPort → HostPort) (s : State) : (setHost f s).host = f s.host := rfl
@[simp] theorem setHost_trust (f : HostPort → HostPort) (s : State) : (setHost f s).trust = s.trust := rfl
@[simp] theorem setHost_care (f : HostPort → HostPort) (s : State) : (setHost f s).care = s.care := rfl

/-! setTrust -/

@[simp] theorem setTrust_me (f : Trust → Trust) (s : State) : (setTrust f s).me = s.me := rfl
@[simp] theorem setTrust_harts (f : Trust → Trust) (s : State) : (setTrust f s).harts = s.harts := rfl
@[simp] theorem setTrust_choices (f : Trust → Trust) (s : State) : (setTrust f s).choices = s.choices := rfl
@[simp] theorem setTrust_free (f : Trust → Trust) (s : State) : (setTrust f s).free = s.free := rfl
@[simp] theorem setTrust_ids (f : Trust → Trust) (s : State) : (setTrust f s).ids = s.ids := rfl
@[simp] theorem setTrust_pkgs (f : Trust → Trust) (s : State) : (setTrust f s).pkgs = s.pkgs := rfl
@[simp] theorem setTrust_cxl (f : Trust → Trust) (s : State) : (setTrust f s).cxl = s.cxl := rfl
@[simp] theorem setTrust_time (f : Trust → Trust) (s : State) : (setTrust f s).time = s.time := rfl
@[simp] theorem setTrust_cycle (f : Trust → Trust) (s : State) : (setTrust f s).cycle = s.cycle := rfl
@[simp] theorem setTrust_mem (f : Trust → Trust) (s : State) : (setTrust f s).mem = s.mem := rfl
@[simp] theorem setTrust_accs (f : Trust → Trust) (s : State) : (setTrust f s).accs = s.accs := rfl
@[simp] theorem setTrust_logs (f : Trust → Trust) (s : State) : (setTrust f s).logs = s.logs := rfl
@[simp] theorem setTrust_pendw (f : Trust → Trust) (s : State) : (setTrust f s).pendw = s.pendw := rfl
@[simp] theorem setTrust_reqs (f : Trust → Trust) (s : State) : (setTrust f s).reqs = s.reqs := rfl
@[simp] theorem setTrust_pends (f : Trust → Trust) (s : State) : (setTrust f s).pends = s.pends := rfl
@[simp] theorem setTrust_acks (f : Trust → Trust) (s : State) : (setTrust f s).acks = s.acks := rfl
@[simp] theorem setTrust_msgs (f : Trust → Trust) (s : State) : (setTrust f s).msgs = s.msgs := rfl
@[simp] theorem setTrust_ipis (f : Trust → Trust) (s : State) : (setTrust f s).ipis = s.ipis := rfl
@[simp] theorem setTrust_migs (f : Trust → Trust) (s : State) : (setTrust f s).migs = s.migs := rfl
@[simp] theorem setTrust_enqs (f : Trust → Trust) (s : State) : (setTrust f s).enqs = s.enqs := rfl
@[simp] theorem setTrust_misses (f : Trust → Trust) (s : State) : (setTrust f s).misses = s.misses := rfl
@[simp] theorem setTrust_whist (f : Trust → Trust) (s : State) : (setTrust f s).whist = s.whist := rfl
@[simp] theorem setTrust_wake (f : Trust → Trust) (s : State) : (setTrust f s).wake = s.wake := rfl
@[simp] theorem setTrust_cells (f : Trust → Trust) (s : State) : (setTrust f s).cells = s.cells := rfl
@[simp] theorem setTrust_tiles (f : Trust → Trust) (s : State) : (setTrust f s).tiles = s.tiles := rfl
@[simp] theorem setTrust_dies (f : Trust → Trust) (s : State) : (setTrust f s).dies = s.dies := rfl
@[simp] theorem setTrust_parts (f : Trust → Trust) (s : State) : (setTrust f s).parts = s.parts := rfl
@[simp] theorem setTrust_spans (f : Trust → Trust) (s : State) : (setTrust f s).spans = s.spans := rfl
@[simp] theorem setTrust_fenced (f : Trust → Trust) (s : State) : (setTrust f s).fenced = s.fenced := rfl
@[simp] theorem setTrust_seals (f : Trust → Trust) (s : State) : (setTrust f s).seals = s.seals := rfl
@[simp] theorem setTrust_host (f : Trust → Trust) (s : State) : (setTrust f s).host = s.host := rfl
@[simp] theorem setTrust_trust (f : Trust → Trust) (s : State) : (setTrust f s).trust = f s.trust := rfl
@[simp] theorem setTrust_care (f : Trust → Trust) (s : State) : (setTrust f s).care = s.care := rfl

/-! elapse -/

@[simp] theorem elapse_me (s : State) : (elapse s).me = s.me := rfl
@[simp] theorem elapse_harts (s : State) : (elapse s).harts = s.harts := rfl
@[simp] theorem elapse_choices (s : State) : (elapse s).choices = s.choices := rfl
@[simp] theorem elapse_free (s : State) : (elapse s).free = s.free + 2 := rfl
@[simp] theorem elapse_ids (s : State) : (elapse s).ids = s.ids := rfl
@[simp] theorem elapse_pkgs (s : State) : (elapse s).pkgs = s.pkgs := rfl
@[simp] theorem elapse_cxl (s : State) : (elapse s).cxl = s.cxl := rfl
@[simp] theorem elapse_time (s : State) : (elapse s).time = s.time + Config.elapsed s.free := rfl
@[simp] theorem elapse_cycle (s : State) : (elapse s).cycle = s.cycle + Config.elapsed (s.free + 1) := rfl
@[simp] theorem elapse_mem (s : State) : (elapse s).mem = s.mem := rfl
@[simp] theorem elapse_accs (s : State) : (elapse s).accs = s.accs := rfl
@[simp] theorem elapse_logs (s : State) : (elapse s).logs = s.logs := rfl
@[simp] theorem elapse_pendw (s : State) : (elapse s).pendw = s.pendw := rfl
@[simp] theorem elapse_reqs (s : State) : (elapse s).reqs = s.reqs := rfl
@[simp] theorem elapse_pends (s : State) : (elapse s).pends = s.pends := rfl
@[simp] theorem elapse_acks (s : State) : (elapse s).acks = s.acks := rfl
@[simp] theorem elapse_msgs (s : State) : (elapse s).msgs = s.msgs := rfl
@[simp] theorem elapse_ipis (s : State) : (elapse s).ipis = s.ipis := rfl
@[simp] theorem elapse_migs (s : State) : (elapse s).migs = s.migs := rfl
@[simp] theorem elapse_enqs (s : State) : (elapse s).enqs = s.enqs := rfl
@[simp] theorem elapse_misses (s : State) : (elapse s).misses = s.misses := rfl
@[simp] theorem elapse_whist (s : State) : (elapse s).whist = s.whist := rfl
@[simp] theorem elapse_wake (s : State) : (elapse s).wake = s.wake := rfl
@[simp] theorem elapse_cells (s : State) : (elapse s).cells = s.cells := rfl
@[simp] theorem elapse_tiles (s : State) : (elapse s).tiles = s.tiles := rfl
@[simp] theorem elapse_dies (s : State) : (elapse s).dies = s.dies := rfl
@[simp] theorem elapse_parts (s : State) : (elapse s).parts = s.parts := rfl
@[simp] theorem elapse_spans (s : State) : (elapse s).spans = s.spans := rfl
@[simp] theorem elapse_fenced (s : State) : (elapse s).fenced = s.fenced := rfl
@[simp] theorem elapse_seals (s : State) : (elapse s).seals = s.seals := rfl
@[simp] theorem elapse_host (s : State) : (elapse s).host = s.host := rfl
@[simp] theorem elapse_trust (s : State) : (elapse s).trust = s.trust := rfl
@[simp] theorem elapse_care (s : State) : (elapse s).care = s.care := rfl

/-! goto -/

@[simp] theorem goto_me (a : Addr) (s : State) : (goto a s).me = { s.me with pc := a } := rfl
@[simp] theorem goto_harts (a : Addr) (s : State) : (goto a s).harts = s.harts := rfl
@[simp] theorem goto_choices (a : Addr) (s : State) : (goto a s).choices = s.choices := rfl
@[simp] theorem goto_free (a : Addr) (s : State) : (goto a s).free = s.free := rfl
@[simp] theorem goto_ids (a : Addr) (s : State) : (goto a s).ids = s.ids := rfl
@[simp] theorem goto_pkgs (a : Addr) (s : State) : (goto a s).pkgs = s.pkgs := rfl
@[simp] theorem goto_cxl (a : Addr) (s : State) : (goto a s).cxl = s.cxl := rfl
@[simp] theorem goto_time (a : Addr) (s : State) : (goto a s).time = s.time := rfl
@[simp] theorem goto_cycle (a : Addr) (s : State) : (goto a s).cycle = s.cycle := rfl
@[simp] theorem goto_mem (a : Addr) (s : State) : (goto a s).mem = s.mem := rfl
@[simp] theorem goto_accs (a : Addr) (s : State) : (goto a s).accs = s.accs := rfl
@[simp] theorem goto_logs (a : Addr) (s : State) : (goto a s).logs = s.logs := rfl
@[simp] theorem goto_pendw (a : Addr) (s : State) : (goto a s).pendw = s.pendw := rfl
@[simp] theorem goto_reqs (a : Addr) (s : State) : (goto a s).reqs = s.reqs := rfl
@[simp] theorem goto_pends (a : Addr) (s : State) : (goto a s).pends = s.pends := rfl
@[simp] theorem goto_acks (a : Addr) (s : State) : (goto a s).acks = s.acks := rfl
@[simp] theorem goto_msgs (a : Addr) (s : State) : (goto a s).msgs = s.msgs := rfl
@[simp] theorem goto_ipis (a : Addr) (s : State) : (goto a s).ipis = s.ipis := rfl
@[simp] theorem goto_migs (a : Addr) (s : State) : (goto a s).migs = s.migs := rfl
@[simp] theorem goto_enqs (a : Addr) (s : State) : (goto a s).enqs = s.enqs := rfl
@[simp] theorem goto_misses (a : Addr) (s : State) : (goto a s).misses = s.misses := rfl
@[simp] theorem goto_whist (a : Addr) (s : State) : (goto a s).whist = s.whist := rfl
@[simp] theorem goto_wake (a : Addr) (s : State) : (goto a s).wake = s.wake := rfl
@[simp] theorem goto_cells (a : Addr) (s : State) : (goto a s).cells = s.cells := rfl
@[simp] theorem goto_tiles (a : Addr) (s : State) : (goto a s).tiles = s.tiles := rfl
@[simp] theorem goto_dies (a : Addr) (s : State) : (goto a s).dies = s.dies := rfl
@[simp] theorem goto_parts (a : Addr) (s : State) : (goto a s).parts = s.parts := rfl
@[simp] theorem goto_spans (a : Addr) (s : State) : (goto a s).spans = s.spans := rfl
@[simp] theorem goto_fenced (a : Addr) (s : State) : (goto a s).fenced = s.fenced := rfl
@[simp] theorem goto_seals (a : Addr) (s : State) : (goto a s).seals = s.seals := rfl
@[simp] theorem goto_host (a : Addr) (s : State) : (goto a s).host = s.host := rfl
@[simp] theorem goto_trust (a : Addr) (s : State) : (goto a s).trust = s.trust := rfl
@[simp] theorem goto_care (a : Addr) (s : State) : (goto a s).care = s.care := rfl

/-! freshId -/

@[simp] theorem freshId_fst (s : State) : (freshId s).1 = s.ids := rfl
@[simp] theorem freshId_me (s : State) : (freshId s).2.me = s.me := rfl
@[simp] theorem freshId_harts (s : State) : (freshId s).2.harts = s.harts := rfl
@[simp] theorem freshId_choices (s : State) : (freshId s).2.choices = s.choices := rfl
@[simp] theorem freshId_free (s : State) : (freshId s).2.free = s.free := rfl
@[simp] theorem freshId_ids (s : State) : (freshId s).2.ids = s.ids + 1 := rfl
@[simp] theorem freshId_pkgs (s : State) : (freshId s).2.pkgs = s.pkgs := rfl
@[simp] theorem freshId_cxl (s : State) : (freshId s).2.cxl = s.cxl := rfl
@[simp] theorem freshId_time (s : State) : (freshId s).2.time = s.time := rfl
@[simp] theorem freshId_cycle (s : State) : (freshId s).2.cycle = s.cycle := rfl
@[simp] theorem freshId_mem (s : State) : (freshId s).2.mem = s.mem := rfl
@[simp] theorem freshId_accs (s : State) : (freshId s).2.accs = s.accs := rfl
@[simp] theorem freshId_logs (s : State) : (freshId s).2.logs = s.logs := rfl
@[simp] theorem freshId_pendw (s : State) : (freshId s).2.pendw = s.pendw := rfl
@[simp] theorem freshId_reqs (s : State) : (freshId s).2.reqs = s.reqs := rfl
@[simp] theorem freshId_pends (s : State) : (freshId s).2.pends = s.pends := rfl
@[simp] theorem freshId_acks (s : State) : (freshId s).2.acks = s.acks := rfl
@[simp] theorem freshId_msgs (s : State) : (freshId s).2.msgs = s.msgs := rfl
@[simp] theorem freshId_ipis (s : State) : (freshId s).2.ipis = s.ipis := rfl
@[simp] theorem freshId_migs (s : State) : (freshId s).2.migs = s.migs := rfl
@[simp] theorem freshId_enqs (s : State) : (freshId s).2.enqs = s.enqs := rfl
@[simp] theorem freshId_misses (s : State) : (freshId s).2.misses = s.misses := rfl
@[simp] theorem freshId_whist (s : State) : (freshId s).2.whist = s.whist := rfl
@[simp] theorem freshId_wake (s : State) : (freshId s).2.wake = s.wake := rfl
@[simp] theorem freshId_cells (s : State) : (freshId s).2.cells = s.cells := rfl
@[simp] theorem freshId_tiles (s : State) : (freshId s).2.tiles = s.tiles := rfl
@[simp] theorem freshId_dies (s : State) : (freshId s).2.dies = s.dies := rfl
@[simp] theorem freshId_parts (s : State) : (freshId s).2.parts = s.parts := rfl
@[simp] theorem freshId_spans (s : State) : (freshId s).2.spans = s.spans := rfl
@[simp] theorem freshId_fenced (s : State) : (freshId s).2.fenced = s.fenced := rfl
@[simp] theorem freshId_seals (s : State) : (freshId s).2.seals = s.seals := rfl
@[simp] theorem freshId_host (s : State) : (freshId s).2.host = s.host := rfl
@[simp] theorem freshId_trust (s : State) : (freshId s).2.trust = s.trust := rfl
@[simp] theorem freshId_care (s : State) : (freshId s).2.care = s.care := rfl

@[simp] theorem modMe_modMe (f g : Hart → Hart) (s : State) : modMe f (modMe g s) = modMe (fun h => f (g h)) s := rfl

/-! putSlices -/

@[simp] theorem putSlices_name (s n v : Nat) (h : Hart) : (putSlices s n v h).name = h.name := rfl
@[simp] theorem putSlices_pc (s n v : Nat) (h : Hart) : (putSlices s n v h).pc = h.pc := rfl
@[simp] theorem putSlices_mode (s n v : Nat) (h : Hart) : (putSlices s n v h).mode = h.mode := rfl
@[simp] theorem putSlices_slices (s n v : Nat) (h : Hart) : (putSlices s n v h).slices = writeSlicesRaw h.slices s n v := rfl
@[simp] theorem putSlices_gfull (s n v : Nat) (h : Hart) : (putSlices s n v h).gfull = h.gfull ||| granules s n := rfl
@[simp] theorem putSlices_gbad (s n v : Nat) (h : Hart) : (putSlices s n v h).gbad = h.gbad &&& ~~~wholeGranules s n := rfl
@[simp] theorem putSlices_v (s n v : Nat) (h : Hart) : (putSlices s n v h).v = h.v := rfl
@[simp] theorem putSlices_vfull (s n v : Nat) (h : Hart) : (putSlices s n v h).vfull = h.vfull := rfl
@[simp] theorem putSlices_vbad (s n v : Nat) (h : Hart) : (putSlices s n v h).vbad = h.vbad := rfl
@[simp] theorem putSlices_c (s n v : Nat) (h : Hart) : (putSlices s n v h).c = h.c := rfl
@[simp] theorem putSlices_cfull (s n v : Nat) (h : Hart) : (putSlices s n v h).cfull = h.cfull := rfl
@[simp] theorem putSlices_cbad (s n v : Nat) (h : Hart) : (putSlices s n v h).cbad = h.cbad := rfl
@[simp] theorem putSlices_xw (s n v : Nat) (h : Hart) : (putSlices s n v h).xw = h.xw := rfl
@[simp] theorem putSlices_xi (s n v : Nat) (h : Hart) : (putSlices s n v h).xi = h.xi := rfl
@[simp] theorem putSlices_xe (s n v : Nat) (h : Hart) : (putSlices s n v h).xe = h.xe := rfl
@[simp] theorem putSlices_xt (s n v : Nat) (h : Hart) : (putSlices s n v h).xt = h.xt := rfl
@[simp] theorem putSlices_xm (s n v : Nat) (h : Hart) : (putSlices s n v h).xm = h.xm := rfl
@[simp] theorem putSlices_xiv (s n v : Nat) (h : Hart) : (putSlices s n v h).xiv = h.xiv := rfl
@[simp] theorem putSlices_rx (s n v : Nat) (h : Hart) : (putSlices s n v h).rx = h.rx := rfl
@[simp] theorem putSlices_rxFull (s n v : Nat) (h : Hart) : (putSlices s n v h).rxFull = h.rxFull := rfl
@[simp] theorem putSlices_rxq (s n v : Nat) (h : Hart) : (putSlices s n v h).rxq = h.rxq := rfl
@[simp] theorem putSlices_hwaitlim (s n v : Nat) (h : Hart) : (putSlices s n v h).hwaitlim = h.hwaitlim := rfl
@[simp] theorem putSlices_hb (s n v : Nat) (h : Hart) : (putSlices s n v h).hb = h.hb := rfl
@[simp] theorem putSlices_fb (s n v : Nat) (h : Hart) : (putSlices s n v h).fb = h.fb := rfl
@[simp] theorem putSlices_fwdeleg (s n v : Nat) (h : Hart) : (putSlices s n v h).fwdeleg = h.fwdeleg := rfl
@[simp] theorem putSlices_hie (s n v : Nat) (h : Hart) : (putSlices s n v h).hie = h.hie := rfl
@[simp] theorem putSlices_hip (s n v : Nat) (h : Hart) : (putSlices s n v h).hip = h.hip := rfl
@[simp] theorem putSlices_hipVal (s n v : Nat) (h : Hart) : (putSlices s n v h).hipVal = h.hipVal := rfl
@[simp] theorem putSlices_hipi (s n v : Nat) (h : Hart) : (putSlices s n v h).hipi = h.hipi := rfl
@[simp] theorem putSlices_htcmp (s n v : Nat) (h : Hart) : (putSlices s n v h).htcmp = h.htcmp := rfl
@[simp] theorem putSlices_txn (s n v : Nat) (h : Hart) : (putSlices s n v h).txn = h.txn := rfl
@[simp] theorem putSlices_task (s n v : Nat) (h : Hart) : (putSlices s n v h).task = h.task := rfl
@[simp] theorem putSlices_nenq (s n v : Nat) (h : Hart) : (putSlices s n v h).nenq = h.nenq := rfl
@[simp] theorem putSlices_streams (s n v : Nat) (h : Hart) : (putSlices s n v h).streams = h.streams := rfl
@[simp] theorem putSlices_unacked (s n v : Nat) (h : Hart) : (putSlices s n v h).unacked = h.unacked := rfl
@[simp] theorem putSlices_stat (s n v : Nat) (h : Hart) : (putSlices s n v h).stat = h.stat := rfl
@[simp] theorem putSlices_woken (s n v : Nat) (h : Hart) : (putSlices s n v h).woken = h.woken := rfl
@[simp] theorem putSlices_epoch (s n v : Nat) (h : Hart) : (putSlices s n v h).epoch = h.epoch := rfl
@[simp] theorem putSlices_stepped (s n v : Nat) (h : Hart) : (putSlices s n v h).stepped = h.stepped := rfl
@[simp] theorem putSlices_handles (s n v : Nat) (h : Hart) : (putSlices s n v h).handles = h.handles := rfl
@[simp] theorem putSlices_walked (s n v : Nat) (h : Hart) : (putSlices s n v h).walked = h.walked := rfl
@[simp] theorem putSlices_walkFaults (s n v : Nat) (h : Hart) : (putSlices s n v h).walkFaults = h.walkFaults := rfl
@[simp] theorem putSlices_out (s n v : Nat) (h : Hart) : (putSlices s n v h).out = h.out := rfl
@[simp] theorem putSlices_hist (s n v : Nat) (h : Hart) : (putSlices s n v h).hist = h.hist := rfl
@[simp] theorem putSlices_work (s n v : Nat) (h : Hart) : (putSlices s n v h).work = h.work := rfl
@[simp] theorem putSlices_rels (s n v : Nat) (h : Hart) : (putSlices s n v h).rels = h.rels := rfl

/-! emptySlices -/

@[simp] theorem emptySlices_name (s n : Nat) (h : Hart) : (emptySlices s n h).name = h.name := rfl
@[simp] theorem emptySlices_pc (s n : Nat) (h : Hart) : (emptySlices s n h).pc = h.pc := rfl
@[simp] theorem emptySlices_mode (s n : Nat) (h : Hart) : (emptySlices s n h).mode = h.mode := rfl
@[simp] theorem emptySlices_slices (s n : Nat) (h : Hart) : (emptySlices s n h).slices = h.slices := rfl
@[simp] theorem emptySlices_gfull (s n : Nat) (h : Hart) : (emptySlices s n h).gfull = h.gfull &&& ~~~granules s n := rfl
@[simp] theorem emptySlices_gbad (s n : Nat) (h : Hart) : (emptySlices s n h).gbad = h.gbad := rfl
@[simp] theorem emptySlices_v (s n : Nat) (h : Hart) : (emptySlices s n h).v = h.v := rfl
@[simp] theorem emptySlices_vfull (s n : Nat) (h : Hart) : (emptySlices s n h).vfull = h.vfull := rfl
@[simp] theorem emptySlices_vbad (s n : Nat) (h : Hart) : (emptySlices s n h).vbad = h.vbad := rfl
@[simp] theorem emptySlices_c (s n : Nat) (h : Hart) : (emptySlices s n h).c = h.c := rfl
@[simp] theorem emptySlices_cfull (s n : Nat) (h : Hart) : (emptySlices s n h).cfull = h.cfull := rfl
@[simp] theorem emptySlices_cbad (s n : Nat) (h : Hart) : (emptySlices s n h).cbad = h.cbad := rfl
@[simp] theorem emptySlices_xw (s n : Nat) (h : Hart) : (emptySlices s n h).xw = h.xw := rfl
@[simp] theorem emptySlices_xi (s n : Nat) (h : Hart) : (emptySlices s n h).xi = h.xi := rfl
@[simp] theorem emptySlices_xe (s n : Nat) (h : Hart) : (emptySlices s n h).xe = h.xe := rfl
@[simp] theorem emptySlices_xt (s n : Nat) (h : Hart) : (emptySlices s n h).xt = h.xt := rfl
@[simp] theorem emptySlices_xm (s n : Nat) (h : Hart) : (emptySlices s n h).xm = h.xm := rfl
@[simp] theorem emptySlices_xiv (s n : Nat) (h : Hart) : (emptySlices s n h).xiv = h.xiv := rfl
@[simp] theorem emptySlices_rx (s n : Nat) (h : Hart) : (emptySlices s n h).rx = h.rx := rfl
@[simp] theorem emptySlices_rxFull (s n : Nat) (h : Hart) : (emptySlices s n h).rxFull = h.rxFull := rfl
@[simp] theorem emptySlices_rxq (s n : Nat) (h : Hart) : (emptySlices s n h).rxq = h.rxq := rfl
@[simp] theorem emptySlices_hwaitlim (s n : Nat) (h : Hart) : (emptySlices s n h).hwaitlim = h.hwaitlim := rfl
@[simp] theorem emptySlices_hb (s n : Nat) (h : Hart) : (emptySlices s n h).hb = h.hb := rfl
@[simp] theorem emptySlices_fb (s n : Nat) (h : Hart) : (emptySlices s n h).fb = h.fb := rfl
@[simp] theorem emptySlices_fwdeleg (s n : Nat) (h : Hart) : (emptySlices s n h).fwdeleg = h.fwdeleg := rfl
@[simp] theorem emptySlices_hie (s n : Nat) (h : Hart) : (emptySlices s n h).hie = h.hie := rfl
@[simp] theorem emptySlices_hip (s n : Nat) (h : Hart) : (emptySlices s n h).hip = h.hip := rfl
@[simp] theorem emptySlices_hipVal (s n : Nat) (h : Hart) : (emptySlices s n h).hipVal = h.hipVal := rfl
@[simp] theorem emptySlices_hipi (s n : Nat) (h : Hart) : (emptySlices s n h).hipi = h.hipi := rfl
@[simp] theorem emptySlices_htcmp (s n : Nat) (h : Hart) : (emptySlices s n h).htcmp = h.htcmp := rfl
@[simp] theorem emptySlices_txn (s n : Nat) (h : Hart) : (emptySlices s n h).txn = h.txn := rfl
@[simp] theorem emptySlices_task (s n : Nat) (h : Hart) : (emptySlices s n h).task = h.task := rfl
@[simp] theorem emptySlices_nenq (s n : Nat) (h : Hart) : (emptySlices s n h).nenq = h.nenq := rfl
@[simp] theorem emptySlices_streams (s n : Nat) (h : Hart) : (emptySlices s n h).streams = h.streams := rfl
@[simp] theorem emptySlices_unacked (s n : Nat) (h : Hart) : (emptySlices s n h).unacked = h.unacked := rfl
@[simp] theorem emptySlices_stat (s n : Nat) (h : Hart) : (emptySlices s n h).stat = h.stat := rfl
@[simp] theorem emptySlices_woken (s n : Nat) (h : Hart) : (emptySlices s n h).woken = h.woken := rfl
@[simp] theorem emptySlices_epoch (s n : Nat) (h : Hart) : (emptySlices s n h).epoch = h.epoch := rfl
@[simp] theorem emptySlices_stepped (s n : Nat) (h : Hart) : (emptySlices s n h).stepped = h.stepped := rfl
@[simp] theorem emptySlices_handles (s n : Nat) (h : Hart) : (emptySlices s n h).handles = h.handles := rfl
@[simp] theorem emptySlices_walked (s n : Nat) (h : Hart) : (emptySlices s n h).walked = h.walked := rfl
@[simp] theorem emptySlices_walkFaults (s n : Nat) (h : Hart) : (emptySlices s n h).walkFaults = h.walkFaults := rfl
@[simp] theorem emptySlices_out (s n : Nat) (h : Hart) : (emptySlices s n h).out = h.out := rfl
@[simp] theorem emptySlices_hist (s n : Nat) (h : Hart) : (emptySlices s n h).hist = h.hist := rfl
@[simp] theorem emptySlices_work (s n : Nat) (h : Hart) : (emptySlices s n h).work = h.work := rfl
@[simp] theorem emptySlices_rels (s n : Nat) (h : Hart) : (emptySlices s n h).rels = h.rels := rfl

/-! putVec -/

@[simp] theorem putVec_name (k : Nat) (v : Line) (h : Hart) : (putVec k v h).name = h.name := rfl
@[simp] theorem putVec_pc (k : Nat) (v : Line) (h : Hart) : (putVec k v h).pc = h.pc := rfl
@[simp] theorem putVec_mode (k : Nat) (v : Line) (h : Hart) : (putVec k v h).mode = h.mode := rfl
@[simp] theorem putVec_slices (k : Nat) (v : Line) (h : Hart) : (putVec k v h).slices = h.slices := rfl
@[simp] theorem putVec_gfull (k : Nat) (v : Line) (h : Hart) : (putVec k v h).gfull = h.gfull := rfl
@[simp] theorem putVec_gbad (k : Nat) (v : Line) (h : Hart) : (putVec k v h).gbad = h.gbad := rfl
@[simp] theorem putVec_v (k : Nat) (v : Line) (h : Hart) : (putVec k v h).v = setNth h.v k v := rfl
@[simp] theorem putVec_vfull (k : Nat) (v : Line) (h : Hart) : (putVec k v h).vfull = h.vfull ||| bit16 k := rfl
@[simp] theorem putVec_vbad (k : Nat) (v : Line) (h : Hart) : (putVec k v h).vbad = h.vbad &&& ~~~bit16 k := rfl
@[simp] theorem putVec_c (k : Nat) (v : Line) (h : Hart) : (putVec k v h).c = h.c := rfl
@[simp] theorem putVec_cfull (k : Nat) (v : Line) (h : Hart) : (putVec k v h).cfull = h.cfull := rfl
@[simp] theorem putVec_cbad (k : Nat) (v : Line) (h : Hart) : (putVec k v h).cbad = h.cbad := rfl
@[simp] theorem putVec_xw (k : Nat) (v : Line) (h : Hart) : (putVec k v h).xw = h.xw := rfl
@[simp] theorem putVec_xi (k : Nat) (v : Line) (h : Hart) : (putVec k v h).xi = h.xi := rfl
@[simp] theorem putVec_xe (k : Nat) (v : Line) (h : Hart) : (putVec k v h).xe = h.xe := rfl
@[simp] theorem putVec_xt (k : Nat) (v : Line) (h : Hart) : (putVec k v h).xt = h.xt := rfl
@[simp] theorem putVec_xm (k : Nat) (v : Line) (h : Hart) : (putVec k v h).xm = h.xm := rfl
@[simp] theorem putVec_xiv (k : Nat) (v : Line) (h : Hart) : (putVec k v h).xiv = h.xiv := rfl
@[simp] theorem putVec_rx (k : Nat) (v : Line) (h : Hart) : (putVec k v h).rx = h.rx := rfl
@[simp] theorem putVec_rxFull (k : Nat) (v : Line) (h : Hart) : (putVec k v h).rxFull = h.rxFull := rfl
@[simp] theorem putVec_rxq (k : Nat) (v : Line) (h : Hart) : (putVec k v h).rxq = h.rxq := rfl
@[simp] theorem putVec_hwaitlim (k : Nat) (v : Line) (h : Hart) : (putVec k v h).hwaitlim = h.hwaitlim := rfl
@[simp] theorem putVec_hb (k : Nat) (v : Line) (h : Hart) : (putVec k v h).hb = h.hb := rfl
@[simp] theorem putVec_fb (k : Nat) (v : Line) (h : Hart) : (putVec k v h).fb = h.fb := rfl
@[simp] theorem putVec_fwdeleg (k : Nat) (v : Line) (h : Hart) : (putVec k v h).fwdeleg = h.fwdeleg := rfl
@[simp] theorem putVec_hie (k : Nat) (v : Line) (h : Hart) : (putVec k v h).hie = h.hie := rfl
@[simp] theorem putVec_hip (k : Nat) (v : Line) (h : Hart) : (putVec k v h).hip = h.hip := rfl
@[simp] theorem putVec_hipVal (k : Nat) (v : Line) (h : Hart) : (putVec k v h).hipVal = h.hipVal := rfl
@[simp] theorem putVec_hipi (k : Nat) (v : Line) (h : Hart) : (putVec k v h).hipi = h.hipi := rfl
@[simp] theorem putVec_htcmp (k : Nat) (v : Line) (h : Hart) : (putVec k v h).htcmp = h.htcmp := rfl
@[simp] theorem putVec_txn (k : Nat) (v : Line) (h : Hart) : (putVec k v h).txn = h.txn := rfl
@[simp] theorem putVec_task (k : Nat) (v : Line) (h : Hart) : (putVec k v h).task = h.task := rfl
@[simp] theorem putVec_nenq (k : Nat) (v : Line) (h : Hart) : (putVec k v h).nenq = h.nenq := rfl
@[simp] theorem putVec_streams (k : Nat) (v : Line) (h : Hart) : (putVec k v h).streams = h.streams := rfl
@[simp] theorem putVec_unacked (k : Nat) (v : Line) (h : Hart) : (putVec k v h).unacked = h.unacked := rfl
@[simp] theorem putVec_stat (k : Nat) (v : Line) (h : Hart) : (putVec k v h).stat = h.stat := rfl
@[simp] theorem putVec_woken (k : Nat) (v : Line) (h : Hart) : (putVec k v h).woken = h.woken := rfl
@[simp] theorem putVec_epoch (k : Nat) (v : Line) (h : Hart) : (putVec k v h).epoch = h.epoch := rfl
@[simp] theorem putVec_stepped (k : Nat) (v : Line) (h : Hart) : (putVec k v h).stepped = h.stepped := rfl
@[simp] theorem putVec_handles (k : Nat) (v : Line) (h : Hart) : (putVec k v h).handles = h.handles := rfl
@[simp] theorem putVec_walked (k : Nat) (v : Line) (h : Hart) : (putVec k v h).walked = h.walked := rfl
@[simp] theorem putVec_walkFaults (k : Nat) (v : Line) (h : Hart) : (putVec k v h).walkFaults = h.walkFaults := rfl
@[simp] theorem putVec_out (k : Nat) (v : Line) (h : Hart) : (putVec k v h).out = h.out := rfl
@[simp] theorem putVec_hist (k : Nat) (v : Line) (h : Hart) : (putVec k v h).hist = h.hist := rfl
@[simp] theorem putVec_work (k : Nat) (v : Line) (h : Hart) : (putVec k v h).work = h.work := rfl
@[simp] theorem putVec_rels (k : Nat) (v : Line) (h : Hart) : (putVec k v h).rels = h.rels := rfl

/-! emptyVec -/

@[simp] theorem emptyVec_name (k : Nat) (h : Hart) : (emptyVec k h).name = h.name := rfl
@[simp] theorem emptyVec_pc (k : Nat) (h : Hart) : (emptyVec k h).pc = h.pc := rfl
@[simp] theorem emptyVec_mode (k : Nat) (h : Hart) : (emptyVec k h).mode = h.mode := rfl
@[simp] theorem emptyVec_slices (k : Nat) (h : Hart) : (emptyVec k h).slices = h.slices := rfl
@[simp] theorem emptyVec_gfull (k : Nat) (h : Hart) : (emptyVec k h).gfull = h.gfull := rfl
@[simp] theorem emptyVec_gbad (k : Nat) (h : Hart) : (emptyVec k h).gbad = h.gbad := rfl
@[simp] theorem emptyVec_v (k : Nat) (h : Hart) : (emptyVec k h).v = h.v := rfl
@[simp] theorem emptyVec_vfull (k : Nat) (h : Hart) : (emptyVec k h).vfull = h.vfull &&& ~~~bit16 k := rfl
@[simp] theorem emptyVec_vbad (k : Nat) (h : Hart) : (emptyVec k h).vbad = h.vbad := rfl
@[simp] theorem emptyVec_c (k : Nat) (h : Hart) : (emptyVec k h).c = h.c := rfl
@[simp] theorem emptyVec_cfull (k : Nat) (h : Hart) : (emptyVec k h).cfull = h.cfull := rfl
@[simp] theorem emptyVec_cbad (k : Nat) (h : Hart) : (emptyVec k h).cbad = h.cbad := rfl
@[simp] theorem emptyVec_xw (k : Nat) (h : Hart) : (emptyVec k h).xw = h.xw := rfl
@[simp] theorem emptyVec_xi (k : Nat) (h : Hart) : (emptyVec k h).xi = h.xi := rfl
@[simp] theorem emptyVec_xe (k : Nat) (h : Hart) : (emptyVec k h).xe = h.xe := rfl
@[simp] theorem emptyVec_xt (k : Nat) (h : Hart) : (emptyVec k h).xt = h.xt := rfl
@[simp] theorem emptyVec_xm (k : Nat) (h : Hart) : (emptyVec k h).xm = h.xm := rfl
@[simp] theorem emptyVec_xiv (k : Nat) (h : Hart) : (emptyVec k h).xiv = h.xiv := rfl
@[simp] theorem emptyVec_rx (k : Nat) (h : Hart) : (emptyVec k h).rx = h.rx := rfl
@[simp] theorem emptyVec_rxFull (k : Nat) (h : Hart) : (emptyVec k h).rxFull = h.rxFull := rfl
@[simp] theorem emptyVec_rxq (k : Nat) (h : Hart) : (emptyVec k h).rxq = h.rxq := rfl
@[simp] theorem emptyVec_hwaitlim (k : Nat) (h : Hart) : (emptyVec k h).hwaitlim = h.hwaitlim := rfl
@[simp] theorem emptyVec_hb (k : Nat) (h : Hart) : (emptyVec k h).hb = h.hb := rfl
@[simp] theorem emptyVec_fb (k : Nat) (h : Hart) : (emptyVec k h).fb = h.fb := rfl
@[simp] theorem emptyVec_fwdeleg (k : Nat) (h : Hart) : (emptyVec k h).fwdeleg = h.fwdeleg := rfl
@[simp] theorem emptyVec_hie (k : Nat) (h : Hart) : (emptyVec k h).hie = h.hie := rfl
@[simp] theorem emptyVec_hip (k : Nat) (h : Hart) : (emptyVec k h).hip = h.hip := rfl
@[simp] theorem emptyVec_hipVal (k : Nat) (h : Hart) : (emptyVec k h).hipVal = h.hipVal := rfl
@[simp] theorem emptyVec_hipi (k : Nat) (h : Hart) : (emptyVec k h).hipi = h.hipi := rfl
@[simp] theorem emptyVec_htcmp (k : Nat) (h : Hart) : (emptyVec k h).htcmp = h.htcmp := rfl
@[simp] theorem emptyVec_txn (k : Nat) (h : Hart) : (emptyVec k h).txn = h.txn := rfl
@[simp] theorem emptyVec_task (k : Nat) (h : Hart) : (emptyVec k h).task = h.task := rfl
@[simp] theorem emptyVec_nenq (k : Nat) (h : Hart) : (emptyVec k h).nenq = h.nenq := rfl
@[simp] theorem emptyVec_streams (k : Nat) (h : Hart) : (emptyVec k h).streams = h.streams := rfl
@[simp] theorem emptyVec_unacked (k : Nat) (h : Hart) : (emptyVec k h).unacked = h.unacked := rfl
@[simp] theorem emptyVec_stat (k : Nat) (h : Hart) : (emptyVec k h).stat = h.stat := rfl
@[simp] theorem emptyVec_woken (k : Nat) (h : Hart) : (emptyVec k h).woken = h.woken := rfl
@[simp] theorem emptyVec_epoch (k : Nat) (h : Hart) : (emptyVec k h).epoch = h.epoch := rfl
@[simp] theorem emptyVec_stepped (k : Nat) (h : Hart) : (emptyVec k h).stepped = h.stepped := rfl
@[simp] theorem emptyVec_handles (k : Nat) (h : Hart) : (emptyVec k h).handles = h.handles := rfl
@[simp] theorem emptyVec_walked (k : Nat) (h : Hart) : (emptyVec k h).walked = h.walked := rfl
@[simp] theorem emptyVec_walkFaults (k : Nat) (h : Hart) : (emptyVec k h).walkFaults = h.walkFaults := rfl
@[simp] theorem emptyVec_out (k : Nat) (h : Hart) : (emptyVec k h).out = h.out := rfl
@[simp] theorem emptyVec_hist (k : Nat) (h : Hart) : (emptyVec k h).hist = h.hist := rfl
@[simp] theorem emptyVec_work (k : Nat) (h : Hart) : (emptyVec k h).work = h.work := rfl
@[simp] theorem emptyVec_rels (k : Nat) (h : Hart) : (emptyVec k h).rels = h.rels := rfl

/-! putCap -/

@[simp] theorem putCap_name (k : Nat) (v : Cap) (h : Hart) : (putCap k v h).name = h.name := rfl
@[simp] theorem putCap_pc (k : Nat) (v : Cap) (h : Hart) : (putCap k v h).pc = h.pc := rfl
@[simp] theorem putCap_mode (k : Nat) (v : Cap) (h : Hart) : (putCap k v h).mode = h.mode := rfl
@[simp] theorem putCap_slices (k : Nat) (v : Cap) (h : Hart) : (putCap k v h).slices = h.slices := rfl
@[simp] theorem putCap_gfull (k : Nat) (v : Cap) (h : Hart) : (putCap k v h).gfull = h.gfull := rfl
@[simp] theorem putCap_gbad (k : Nat) (v : Cap) (h : Hart) : (putCap k v h).gbad = h.gbad := rfl
@[simp] theorem putCap_v (k : Nat) (v : Cap) (h : Hart) : (putCap k v h).v = h.v := rfl
@[simp] theorem putCap_vfull (k : Nat) (v : Cap) (h : Hart) : (putCap k v h).vfull = h.vfull := rfl
@[simp] theorem putCap_vbad (k : Nat) (v : Cap) (h : Hart) : (putCap k v h).vbad = h.vbad := rfl
@[simp] theorem putCap_c (k : Nat) (v : Cap) (h : Hart) : (putCap k v h).c = setNth h.c k v := rfl
@[simp] theorem putCap_cfull (k : Nat) (v : Cap) (h : Hart) : (putCap k v h).cfull = h.cfull ||| bit16 k := rfl
@[simp] theorem putCap_cbad (k : Nat) (v : Cap) (h : Hart) : (putCap k v h).cbad = h.cbad &&& ~~~bit16 k := rfl
@[simp] theorem putCap_xw (k : Nat) (v : Cap) (h : Hart) : (putCap k v h).xw = h.xw := rfl
@[simp] theorem putCap_xi (k : Nat) (v : Cap) (h : Hart) : (putCap k v h).xi = h.xi := rfl
@[simp] theorem putCap_xe (k : Nat) (v : Cap) (h : Hart) : (putCap k v h).xe = h.xe := rfl
@[simp] theorem putCap_xt (k : Nat) (v : Cap) (h : Hart) : (putCap k v h).xt = h.xt := rfl
@[simp] theorem putCap_xm (k : Nat) (v : Cap) (h : Hart) : (putCap k v h).xm = h.xm := rfl
@[simp] theorem putCap_xiv (k : Nat) (v : Cap) (h : Hart) : (putCap k v h).xiv = h.xiv := rfl
@[simp] theorem putCap_rx (k : Nat) (v : Cap) (h : Hart) : (putCap k v h).rx = h.rx := rfl
@[simp] theorem putCap_rxFull (k : Nat) (v : Cap) (h : Hart) : (putCap k v h).rxFull = h.rxFull := rfl
@[simp] theorem putCap_rxq (k : Nat) (v : Cap) (h : Hart) : (putCap k v h).rxq = h.rxq := rfl
@[simp] theorem putCap_hwaitlim (k : Nat) (v : Cap) (h : Hart) : (putCap k v h).hwaitlim = h.hwaitlim := rfl
@[simp] theorem putCap_hb (k : Nat) (v : Cap) (h : Hart) : (putCap k v h).hb = h.hb := rfl
@[simp] theorem putCap_fb (k : Nat) (v : Cap) (h : Hart) : (putCap k v h).fb = h.fb := rfl
@[simp] theorem putCap_fwdeleg (k : Nat) (v : Cap) (h : Hart) : (putCap k v h).fwdeleg = h.fwdeleg := rfl
@[simp] theorem putCap_hie (k : Nat) (v : Cap) (h : Hart) : (putCap k v h).hie = h.hie := rfl
@[simp] theorem putCap_hip (k : Nat) (v : Cap) (h : Hart) : (putCap k v h).hip = h.hip := rfl
@[simp] theorem putCap_hipVal (k : Nat) (v : Cap) (h : Hart) : (putCap k v h).hipVal = h.hipVal := rfl
@[simp] theorem putCap_hipi (k : Nat) (v : Cap) (h : Hart) : (putCap k v h).hipi = h.hipi := rfl
@[simp] theorem putCap_htcmp (k : Nat) (v : Cap) (h : Hart) : (putCap k v h).htcmp = h.htcmp := rfl
@[simp] theorem putCap_txn (k : Nat) (v : Cap) (h : Hart) : (putCap k v h).txn = h.txn := rfl
@[simp] theorem putCap_task (k : Nat) (v : Cap) (h : Hart) : (putCap k v h).task = h.task := rfl
@[simp] theorem putCap_nenq (k : Nat) (v : Cap) (h : Hart) : (putCap k v h).nenq = h.nenq := rfl
@[simp] theorem putCap_streams (k : Nat) (v : Cap) (h : Hart) : (putCap k v h).streams = h.streams := rfl
@[simp] theorem putCap_unacked (k : Nat) (v : Cap) (h : Hart) : (putCap k v h).unacked = h.unacked := rfl
@[simp] theorem putCap_stat (k : Nat) (v : Cap) (h : Hart) : (putCap k v h).stat = h.stat := rfl
@[simp] theorem putCap_woken (k : Nat) (v : Cap) (h : Hart) : (putCap k v h).woken = h.woken := rfl
@[simp] theorem putCap_epoch (k : Nat) (v : Cap) (h : Hart) : (putCap k v h).epoch = h.epoch := rfl
@[simp] theorem putCap_stepped (k : Nat) (v : Cap) (h : Hart) : (putCap k v h).stepped = h.stepped := rfl
@[simp] theorem putCap_handles (k : Nat) (v : Cap) (h : Hart) : (putCap k v h).handles = h.handles := rfl
@[simp] theorem putCap_walked (k : Nat) (v : Cap) (h : Hart) : (putCap k v h).walked = h.walked := rfl
@[simp] theorem putCap_walkFaults (k : Nat) (v : Cap) (h : Hart) : (putCap k v h).walkFaults = h.walkFaults := rfl
@[simp] theorem putCap_out (k : Nat) (v : Cap) (h : Hart) : (putCap k v h).out = h.out := rfl
@[simp] theorem putCap_hist (k : Nat) (v : Cap) (h : Hart) : (putCap k v h).hist = h.hist := rfl
@[simp] theorem putCap_work (k : Nat) (v : Cap) (h : Hart) : (putCap k v h).work = h.work := rfl
@[simp] theorem putCap_rels (k : Nat) (v : Cap) (h : Hart) : (putCap k v h).rels = h.rels := rfl

/-! emptyCap -/

@[simp] theorem emptyCap_name (k : Nat) (h : Hart) : (emptyCap k h).name = h.name := rfl
@[simp] theorem emptyCap_pc (k : Nat) (h : Hart) : (emptyCap k h).pc = h.pc := rfl
@[simp] theorem emptyCap_mode (k : Nat) (h : Hart) : (emptyCap k h).mode = h.mode := rfl
@[simp] theorem emptyCap_slices (k : Nat) (h : Hart) : (emptyCap k h).slices = h.slices := rfl
@[simp] theorem emptyCap_gfull (k : Nat) (h : Hart) : (emptyCap k h).gfull = h.gfull := rfl
@[simp] theorem emptyCap_gbad (k : Nat) (h : Hart) : (emptyCap k h).gbad = h.gbad := rfl
@[simp] theorem emptyCap_v (k : Nat) (h : Hart) : (emptyCap k h).v = h.v := rfl
@[simp] theorem emptyCap_vfull (k : Nat) (h : Hart) : (emptyCap k h).vfull = h.vfull := rfl
@[simp] theorem emptyCap_vbad (k : Nat) (h : Hart) : (emptyCap k h).vbad = h.vbad := rfl
@[simp] theorem emptyCap_c (k : Nat) (h : Hart) : (emptyCap k h).c = h.c := rfl
@[simp] theorem emptyCap_cfull (k : Nat) (h : Hart) : (emptyCap k h).cfull = h.cfull &&& ~~~bit16 k := rfl
@[simp] theorem emptyCap_cbad (k : Nat) (h : Hart) : (emptyCap k h).cbad = h.cbad := rfl
@[simp] theorem emptyCap_xw (k : Nat) (h : Hart) : (emptyCap k h).xw = h.xw := rfl
@[simp] theorem emptyCap_xi (k : Nat) (h : Hart) : (emptyCap k h).xi = h.xi := rfl
@[simp] theorem emptyCap_xe (k : Nat) (h : Hart) : (emptyCap k h).xe = h.xe := rfl
@[simp] theorem emptyCap_xt (k : Nat) (h : Hart) : (emptyCap k h).xt = h.xt := rfl
@[simp] theorem emptyCap_xm (k : Nat) (h : Hart) : (emptyCap k h).xm = h.xm := rfl
@[simp] theorem emptyCap_xiv (k : Nat) (h : Hart) : (emptyCap k h).xiv = h.xiv := rfl
@[simp] theorem emptyCap_rx (k : Nat) (h : Hart) : (emptyCap k h).rx = h.rx := rfl
@[simp] theorem emptyCap_rxFull (k : Nat) (h : Hart) : (emptyCap k h).rxFull = h.rxFull := rfl
@[simp] theorem emptyCap_rxq (k : Nat) (h : Hart) : (emptyCap k h).rxq = h.rxq := rfl
@[simp] theorem emptyCap_hwaitlim (k : Nat) (h : Hart) : (emptyCap k h).hwaitlim = h.hwaitlim := rfl
@[simp] theorem emptyCap_hb (k : Nat) (h : Hart) : (emptyCap k h).hb = h.hb := rfl
@[simp] theorem emptyCap_fb (k : Nat) (h : Hart) : (emptyCap k h).fb = h.fb := rfl
@[simp] theorem emptyCap_fwdeleg (k : Nat) (h : Hart) : (emptyCap k h).fwdeleg = h.fwdeleg := rfl
@[simp] theorem emptyCap_hie (k : Nat) (h : Hart) : (emptyCap k h).hie = h.hie := rfl
@[simp] theorem emptyCap_hip (k : Nat) (h : Hart) : (emptyCap k h).hip = h.hip := rfl
@[simp] theorem emptyCap_hipVal (k : Nat) (h : Hart) : (emptyCap k h).hipVal = h.hipVal := rfl
@[simp] theorem emptyCap_hipi (k : Nat) (h : Hart) : (emptyCap k h).hipi = h.hipi := rfl
@[simp] theorem emptyCap_htcmp (k : Nat) (h : Hart) : (emptyCap k h).htcmp = h.htcmp := rfl
@[simp] theorem emptyCap_txn (k : Nat) (h : Hart) : (emptyCap k h).txn = h.txn := rfl
@[simp] theorem emptyCap_task (k : Nat) (h : Hart) : (emptyCap k h).task = h.task := rfl
@[simp] theorem emptyCap_nenq (k : Nat) (h : Hart) : (emptyCap k h).nenq = h.nenq := rfl
@[simp] theorem emptyCap_streams (k : Nat) (h : Hart) : (emptyCap k h).streams = h.streams := rfl
@[simp] theorem emptyCap_unacked (k : Nat) (h : Hart) : (emptyCap k h).unacked = h.unacked := rfl
@[simp] theorem emptyCap_stat (k : Nat) (h : Hart) : (emptyCap k h).stat = h.stat := rfl
@[simp] theorem emptyCap_woken (k : Nat) (h : Hart) : (emptyCap k h).woken = h.woken := rfl
@[simp] theorem emptyCap_epoch (k : Nat) (h : Hart) : (emptyCap k h).epoch = h.epoch := rfl
@[simp] theorem emptyCap_stepped (k : Nat) (h : Hart) : (emptyCap k h).stepped = h.stepped := rfl
@[simp] theorem emptyCap_handles (k : Nat) (h : Hart) : (emptyCap k h).handles = h.handles := rfl
@[simp] theorem emptyCap_walked (k : Nat) (h : Hart) : (emptyCap k h).walked = h.walked := rfl
@[simp] theorem emptyCap_walkFaults (k : Nat) (h : Hart) : (emptyCap k h).walkFaults = h.walkFaults := rfl
@[simp] theorem emptyCap_out (k : Nat) (h : Hart) : (emptyCap k h).out = h.out := rfl
@[simp] theorem emptyCap_hist (k : Nat) (h : Hart) : (emptyCap k h).hist = h.hist := rfl
@[simp] theorem emptyCap_work (k : Nat) (h : Hart) : (emptyCap k h).work = h.work := rfl
@[simp] theorem emptyCap_rels (k : Nat) (h : Hart) : (emptyCap k h).rels = h.rels := rfl

end Sys2Proof.Machine
end

