-- ==== Sys2Proof/Laws/Issue.lean ====
section
/-! SUPPORT. The checks before issue: they let an instruction issue just where `Ready` says so, and what issuing
changes. -/

namespace Sys2Proof.Machine

open Sys2Proof Sys2Proof.Safety

theorem firstNeed_none {p : Need → Bool} {l : List Need} (h : ∀ n ∈ l, p n = false) : firstNeed p l = none := by
  simp only [firstNeed, List.find?_eq_none]
  intro n hn
  simp [h n hn]

/-- The checks of R144 on operands pass where sources are full and destinations are free. -/
theorem gateOperands_none {g : Gate} {s : State} (hu : ∀ n ∈ g.needs, needUnbound s.me n = false)
    (hf : ∀ n ∈ g.needs, needFailed s.me n = false) (he : ∀ n ∈ g.needs, needEmpty s.me n = false)
    (hb : ∀ t ∈ g.tgts, tgtBusy s.me t = false) (ht : g.tags ≠ 0 → g.tags ≤ (freeTags s.me.nm s).length)
    (hx : Tgt.tx ∈ g.tgts → txFault s = none) : gateOperands g s = none := by
  have e : firstNeed (fun n => needEmpty s.me n && s.me.xe.getLsbD (needBit n)) g.needs = none :=
    firstNeed_none fun n hn => by simp [he n hn]
  have e2 : g.needs.any (needEmpty s.me) = false := by
    rw [List.any_eq_false]; intro n hn; simp [he n hn]
  have e3 : g.tgts.any (tgtBusy s.me) = false := by
    rw [List.any_eq_false]; intro t h; simp [hb t h]
  have e4 : (g.tags != 0 && decide ((freeTags s.me.nm s).length < g.tags)) = false := by
    by_cases h0 : g.tags = 0
    · simp [h0]
    · have := ht h0
      simp only [Bool.and_eq_false_iff, decide_eq_false_iff_not]
      exact Or.inr (by omega)
  simp only [gateOperands, firstNeed_none hu, firstNeed_none hf, e, e2, e3, e4]
  by_cases hc : Tgt.tx ∈ g.tgts
  · simp [hx hc]
  · simp [hc]

/-- A ready instruction passes every check. -/
theorem gate_of_ready {g : Gate} {s : State} (h : Ready g s) : gate g s = none := by
  obtain ⟨hm, hi, hc, hu, hf, he, hb, ht, hx⟩ := h
  simp [gate, hm, hc, gateOperands_none hu hf he hb ht hx]
  exact hi

/-- A ready instruction issues: its effect acts on the state in which it has issued. -/
theorem issue_of_ready {g : Gate} {k : State → State} {s : State} (h : Ready g s) : issue g k s = k (advance g s) := by
  simp [issue, gate_of_ready h]

end Sys2Proof.Machine
end

