-- ==== Sys2Proof/Laws/Memory.lean ====
section
/-! SUPPORT. Memory: what a read after a write gives, that a write leaves every other place alone, and that each
operation keeps the canonical form. -/

namespace Sys2Proof.Machine

open Sys2Proof

/-! ### Bytes -/

theorem cellsOk_mono {lo lo' : Nat} {l : List Host.Cell} (h : cellsOk lo' l = true) (hl : lo ≤ lo') :
    cellsOk lo l = true := by
  cases l with
  | nil => rfl
  | cons c t =>
    simp only [cellsOk, Bool.and_eq_true, decide_eq_true_eq] at h ⊢
    exact ⟨⟨by omega, h.1.2⟩, h.2⟩

theorem cellsOk_insertByte {a : Nat} {v : Byte} {lo : Nat} {l : List Host.Cell} (h : cellsOk lo l = true)
    (hl : lo ≤ a) : cellsOk lo (insertByte a v l) = true := by
  induction l generalizing lo with
  | nil =>
    unfold insertByte
    split <;> simp_all [cellsOk]
  | cons c t ih =>
    simp only [cellsOk, Bool.and_eq_true, decide_eq_true_eq] at h
    obtain ⟨⟨h1, h2⟩, h3⟩ := h
    unfold insertByte
    split
    · split
      · simp [cellsOk, h1, h2, h3]
      · rename_i h4 h5
        simp only [cellsOk, Bool.and_eq_true, decide_eq_true_eq]
        exact ⟨⟨hl, h5⟩, ⟨by omega, h2⟩, h3⟩
    · split
      · rename_i h4 h5
        split
        · exact cellsOk_mono h3 (by omega)
        · rename_i h6
          simp only [cellsOk, Bool.and_eq_true, decide_eq_true_eq]
          exact ⟨⟨hl, h6⟩, by rw [← h5]; exact h3⟩
      · rename_i h4 h5
        simp only [cellsOk, Bool.and_eq_true, decide_eq_true_eq]
        exact ⟨⟨h1, h2⟩, ih h3 (by omega)⟩

theorem lookupByte_below {a lo : Nat} {l : List Host.Cell} (h : cellsOk lo l = true) (ha : a < lo) :
    lookupByte a l = none := by
  cases l with
  | nil => rfl
  | cons c t =>
    simp only [cellsOk, Bool.and_eq_true, decide_eq_true_eq] at h
    have h1 := h.1.1
    unfold lookupByte
    rw [if_neg (by omega), if_pos (by omega)]

theorem lookup_insert_same {a : Nat} {v : Byte} {lo : Nat} {l : List Host.Cell} (h : cellsOk lo l = true) :
    (lookupByte a (insertByte a v l)).getD (unlisted a) = v := by
  induction l generalizing lo with
  | nil =>
    unfold insertByte
    split <;> simp_all [lookupByte]
  | cons c t ih =>
    simp only [cellsOk, Bool.and_eq_true, decide_eq_true_eq] at h
    obtain ⟨⟨h1, h2⟩, h3⟩ := h
    unfold insertByte
    split
    · rename_i h4
      split
      · rename_i h5
        simp [lookupByte, Nat.ne_of_gt h4, h4, h5]
      · simp [lookupByte]
    · split
      · rename_i h4 h5
        split
        · rename_i h6
          rw [lookupByte_below h3 (by omega)]
          simp [h6]
        · simp [lookupByte]
      · rename_i h4 h5
        simp only [lookupByte, if_neg h5, if_neg h4]
        exact ih h3

theorem lookup_insert_other {a b : Nat} {v : Byte} {lo : Nat} {l : List Host.Cell} (h : cellsOk lo l = true)
    (hb : b ≠ a) : lookupByte b (insertByte a v l) = lookupByte b l := by
  induction l generalizing lo with
  | nil =>
    unfold insertByte
    split
    · rfl
    · simp only [lookupByte, if_neg (Ne.symm hb)]
      split <;> rfl
  | cons c t ih =>
    simp only [cellsOk, Bool.and_eq_true, decide_eq_true_eq] at h
    obtain ⟨⟨h1, h2⟩, h3⟩ := h
    unfold insertByte
    split
    · rename_i h4
      split
      · rfl
      · simp only [lookupByte, if_neg (Ne.symm hb)]
        by_cases h5 : b < a
        · simp [h5, show ¬ c.1 = b by omega, show b < c.1 by omega]
        · simp [h5]
    · split
      · rename_i h4 h5
        subst h5
        split
        · simp only [lookupByte, if_neg (Ne.symm hb)]
          split
          · exact lookupByte_below h3 (by omega)
          · rfl
        · simp only [lookupByte, if_neg (Ne.symm hb)]
      · simp only [lookupByte]
        split
        · rfl
        · split
          · rfl
          · exact ih h3

/-- Only the canonical form of a memory's bytes. -/
abbrev bytesOk (m : Mem) : Prop := cellsOk 0 m.cells = true

theorem bytesOk_of_wf {m : Mem} (h : Memory.wf m = true) : bytesOk m := by
  simp only [Memory.wf, Bool.and_eq_true] at h
  exact h.1

theorem bytesOk_writeByte {m : Mem} (h : bytesOk m) (a : Nat) (v : Byte) : bytesOk (writeByte m a v) :=
  cellsOk_insertByte h (Nat.zero_le a)

theorem readByte_writeByte_same {m : Mem} (h : bytesOk m) (a : Nat) (v : Byte) : readByte (writeByte m a v) a = v :=
  lookup_insert_same h

theorem readByte_writeByte_other {m : Mem} (h : bytesOk m) {a b : Nat} (v : Byte) (hb : b ≠ a) :
    readByte (writeByte m a v) b = readByte m b := by
  unfold readByte writeByte
  rw [lookup_insert_other h hb]

/-! ### Runs of bytes and words -/

theorem bytesOk_storeBytes {m : Mem} (h : bytesOk m) (a : Nat) (l : List Byte) : bytesOk (storeBytes m a l) := by
  induction l generalizing m a with
  | nil => exact h
  | cons b t ih => exact ih (bytesOk_writeByte h a b) (a + 1)

theorem readByte_storeBytes_other {m : Mem} (h : bytesOk m) {a b : Nat} (l : List Byte)
    (hb : b < a ∨ a + l.length ≤ b) : readByte (storeBytes m a l) b = readByte m b := by
  induction l generalizing m a with
  | nil => rfl
  | cons x t ih =>
    simp only [List.length_cons] at hb
    rw [storeBytes, ih (bytesOk_writeByte h a x) (by omega), readByte_writeByte_other h x (by omega)]

theorem readByte_storeBytes_in {m : Mem} (h : bytesOk m) {a i : Nat} {l : List Byte} (hi : i < l.length) :
    readByte (storeBytes m a l) (a + i) = l[i] := by
  induction l generalizing m a i with
  | nil => exact absurd hi (Nat.not_lt_zero i)
  | cons x t ih =>
    cases i with
    | zero =>
      rw [storeBytes, readByte_storeBytes_other (bytesOk_writeByte h a x) t (by omega)]
      exact readByte_writeByte_same h a x
    | succ j =>
      have hj : j < t.length := by simpa using hi
      rw [storeBytes, show a + (j + 1) = a + 1 + j by omega, ih (bytesOk_writeByte h a x) hj]
      rfl

@[simp] theorem storeBytes_side (m : Mem) (a : Nat) (l : List Byte) : (storeBytes m a l).side = m.side := by
  induction l generalizing m a with
  | nil => rfl
  | cons x t ih => rw [storeBytes, ih]; rfl

@[simp] theorem toBytes_length (v n : Nat) : (toBytes v n).length = n := by
  induction n generalizing v with
  | zero => rfl
  | succ n ih => simp [toBytes, ih]

theorem ofBytes_toBytes (v n : Nat) : ofBytes (toBytes v n) = v % 256 ^ n := by
  induction n generalizing v with
  | zero => simp [toBytes, ofBytes, Nat.mod_one]
  | succ n ih =>
    simp only [toBytes, ofBytes, ih, BitVec.toNat_ofNat]
    rw [show (2 : Nat) ^ 8 = 256 from rfl, Nat.mod_mod, Nat.pow_succ', Nat.mod_mul]

theorem wordBytes_setRawWord {m : Mem} (h : bytesOk m) (w v : Nat) :
    wordBytes (setRawWord m w v) w = toBytes v 8 := by
  apply List.ext_getElem
  · simp [wordBytes]
  · intro i h1 h2
    simp only [wordBytes, List.getElem_map, List.getElem_range, setRawWord]
    exact readByte_storeBytes_in h h2

theorem rawWord_setRawWord_same {m : Mem} (h : bytesOk m) (w v : Nat) :
    rawWord (setRawWord m w v) w = v % 2 ^ 64 := by
  rw [rawWord, wordBytes_setRawWord h, ofBytes_toBytes, show 256 ^ 8 = 2 ^ 64 from rfl]

theorem readByte_setRawWord_other {m : Mem} (h : bytesOk m) {w a : Nat} (v : Nat) (ha : a / 8 ≠ w) :
    readByte (setRawWord m w v) a = readByte m a := by
  apply readByte_storeBytes_other h
  simp only [toBytes_length]
  omega

theorem rawWord_setRawWord_other {m : Mem} (h : bytesOk m) {w u : Nat} (v : Nat) (hu : u ≠ w) :
    rawWord (setRawWord m w v) u = rawWord m u := by
  unfold rawWord wordBytes
  congr 1
  apply List.map_congr_left
  intro i hi
  have : i < 8 := by simpa using hi
  exact readByte_setRawWord_other h v (by omega)

@[simp] theorem setRawWord_side (m : Mem) (w v : Nat) : (setRawWord m w v).side = m.side := storeBytes_side ..

/-! ### Key-value lists -/

theorem lookupNat_insertNat_other {α : Type} (k j : Nat) (a : α) (l : List (Nat × α)) (h : j ≠ k) :
    lookupNat j (insertNat k a l) = lookupNat j l := by
  induction l with
  | nil => simp [insertNat, lookupNat, Ne.symm h]
  | cons c t ih =>
    obtain ⟨k', a'⟩ := c
    unfold insertNat
    split
    · simp [lookupNat, Ne.symm h]
    · split
      · rename_i h2 h3
        subst h3
        simp [lookupNat, Ne.symm h]
      · simp [lookupNat, ih]

theorem lookupNat_filter_other {α : Type} (k j : Nat) (l : List (Nat × α)) (h : j ≠ k) :
    lookupNat j (l.filter fun x => x.1 != k) = lookupNat j l := by
  induction l with
  | nil => rfl
  | cons c t ih =>
    obtain ⟨k', a'⟩ := c
    by_cases hk : k' = k
    · subst hk
      simp [lookupNat, ih, Ne.symm h]
    · simp [lookupNat, ih, hk]

theorem lookupNat_updateNat_other {α : Type} (k j : Nat) (v : Option α) (l : List (Nat × α)) (h : j ≠ k) :
    lookupNat j (updateNat k v l) = lookupNat j l := by
  cases v
  · exact lookupNat_filter_other k j l h
  · exact lookupNat_insertNat_other k j _ l h

theorem lookupNat_updateNat_same {α : Type} (k : Nat) (v : Option α) (l : List (Nat × α)) :
    lookupNat k (updateNat k v l) = v := by
  cases v with
  | none =>
    induction l with
    | nil => rfl
    | cons c t ih =>
      obtain ⟨k', a'⟩ := c
      by_cases hk : k' = k
      · subst hk
        simpa [updateNat] using ih
      · simpa [updateNat, lookupNat, hk] using ih
  | some a =>
    show lookupNat k (insertNat k a l) = some a
    induction l with
    | nil => simp [insertNat, lookupNat]
    | cons c t ih =>
      obtain ⟨k', a'⟩ := c
      unfold insertNat
      split
      · simp [lookupNat]
      · split
        · rename_i h2 h3
          simp [lookupNat]
        · rename_i h2 h3
          simp only [lookupNat, if_neg (show ¬ k' = k by omega)]
          exact ih

/-! ### Side bands -/

theorem sideOk_mono {lo lo' : Nat} {l : List (Nat × SideBand)} (h : sideOk lo' l = true) (hl : lo ≤ lo') :
    sideOk lo l = true := by
  cases l with
  | nil => rfl
  | cons c t =>
    simp only [sideOk, Bool.and_eq_true, decide_eq_true_eq] at h ⊢
    exact ⟨⟨by omega, h.1.2⟩, h.2⟩

theorem sideOk_filter {lo : Nat} {l : List (Nat × SideBand)} (p : Nat × SideBand → Bool) (h : sideOk lo l = true) :
    sideOk lo (l.filter p) = true := by
  induction l generalizing lo with
  | nil => rfl
  | cons c t ih =>
    simp only [sideOk, Bool.and_eq_true, decide_eq_true_eq] at h
    obtain ⟨⟨h1, h2⟩, h3⟩ := h
    rw [List.filter_cons]
    split
    · simp only [sideOk, Bool.and_eq_true, decide_eq_true_eq]
      exact ⟨⟨h1, h2⟩, ih h3⟩
    · exact sideOk_mono (ih h3) (by omega)

theorem sideOk_insertNat {k lo : Nat} {b : SideBand} {l : List (Nat × SideBand)} (h : sideOk lo l = true)
    (hk : lo ≤ k) (hb : b ≠ SideBand.init) : sideOk lo (insertNat k b l) = true := by
  induction l generalizing lo with
  | nil => simp [insertNat, sideOk, hk, hb]
  | cons c t ih =>
    obtain ⟨k', b'⟩ := c
    simp only [sideOk, Bool.and_eq_true, decide_eq_true_eq] at h
    obtain ⟨⟨h1, h2⟩, h3⟩ := h
    unfold insertNat
    split
    · simp only [sideOk, Bool.and_eq_true, decide_eq_true_eq, bne_iff_ne]
      exact ⟨⟨hk, hb⟩, ⟨by omega, by simpa using h2⟩, h3⟩
    · split
      · rename_i h4 h5
        simp only [sideOk, Bool.and_eq_true, decide_eq_true_eq, bne_iff_ne]
        exact ⟨⟨hk, hb⟩, by rw [h5]; exact h3⟩
      · simp only [sideOk, Bool.and_eq_true, decide_eq_true_eq]
        exact ⟨⟨h1, h2⟩, ih h3 (by omega)⟩

theorem sideOk_updateNat {k lo : Nat} {v : Option SideBand} {l : List (Nat × SideBand)} (h : sideOk lo l = true)
    (hk : lo ≤ k) (hv : v ≠ some SideBand.init) : sideOk lo (updateNat k v l) = true := by
  cases v with
  | none => exact sideOk_filter _ h
  | some b => exact sideOk_insertNat h hk fun e => hv (by rw [e])

@[simp] theorem setSide_cells (m : Mem) (l : Nat) (b : SideBand) : (setSide m l b).cells = m.cells := rfl

@[simp] theorem readByte_setSide (m : Mem) (l : Nat) (b : SideBand) (a : Nat) :
    readByte (setSide m l b) a = readByte m a := rfl

@[simp] theorem rawWord_setSide (m : Mem) (l : Nat) (b : SideBand) (w : Nat) :
    rawWord (setSide m l b) w = rawWord m w := rfl

theorem getSide_setSide_same (m : Mem) (l : Nat) (b : SideBand) :
    getSide (setSide m l b) l = b := by
  unfold getSide setSide
  rw [lookupNat_updateNat_same]
  split
  · rename_i h1; simp [h1]
  · rfl

theorem getSide_setSide_other (m : Mem) {l k : Nat} (b : SideBand) (hk : k ≠ l) :
    getSide (setSide m l b) k = getSide m k := by
  unfold getSide setSide
  rw [lookupNat_updateNat_other _ _ _ _ hk]

@[simp] theorem getSide_setRawWord (m : Mem) (w v l : Nat) : getSide (setRawWord m w v) l = getSide m l := by
  unfold getSide
  rw [setRawWord_side]

/-! ### The canonical form -/

theorem wf_setSide {m : Mem} (h : Memory.wf m = true) (l : Nat) (b : SideBand) : Memory.wf (setSide m l b) = true := by
  simp only [Memory.wf, Bool.and_eq_true] at h ⊢
  refine ⟨h.1, sideOk_updateNat h.2 (Nat.zero_le l) ?_⟩
  split
  · simp
  · rename_i h1
    simpa using h1

theorem wf_storeBytes {m : Mem} (h : Memory.wf m = true) (a : Nat) (l : List Byte) :
    Memory.wf (storeBytes m a l) = true := by
  simp only [Memory.wf, Bool.and_eq_true] at h ⊢
  exact ⟨bytesOk_storeBytes h.1 a l, by rw [storeBytes_side]; exact h.2⟩

theorem wf_writeByte {m : Mem} (h : Memory.wf m = true) (a : Nat) (v : Byte) :
    Memory.wf (writeByte m a v) = true := wf_storeBytes h a [v]

theorem wf_setRawWord {m : Mem} (h : Memory.wf m = true) (w v : Nat) : Memory.wf (setRawWord m w v) = true :=
  wf_storeBytes h _ _

theorem cellsOk_filter {lo : Nat} {l : List Host.Cell} (p : Host.Cell → Bool) (h : cellsOk lo l = true) :
    cellsOk lo (l.filter p) = true := by
  induction l generalizing lo with
  | nil => rfl
  | cons c t ih =>
    simp only [cellsOk, Bool.and_eq_true, decide_eq_true_eq] at h
    obtain ⟨⟨h1, h2⟩, h3⟩ := h
    rw [List.filter_cons]
    split
    · simp only [cellsOk, Bool.and_eq_true, decide_eq_true_eq]
      exact ⟨⟨h1, h2⟩, ih h3⟩
    · exact cellsOk_mono (ih h3) (by omega)


theorem wf_filter {m : Mem} (h : Memory.wf m = true) (p : Host.Cell → Bool) (q : Nat × SideBand → Bool) :
    Memory.wf ⟨m.cells.filter p, m.side.filter q⟩ = true := by
  simp only [Memory.wf, Bool.and_eq_true] at h ⊢
  exact ⟨cellsOk_filter p h.1, sideOk_filter q h.2⟩

end Sys2Proof.Machine
end

