-- ==== Sys2Proof/Laws/KeptByOps.lean ====
section
/-! SUPPORT. What the operations do to memory: most leave it as it is, and those that write keep its canonical form.
This file goes as far as the requests and the instructions that send them. -/

namespace Sys2Proof.Machine

set_option linter.unusedTactic false
set_option linter.unreachableTactic false
set_option linter.unnecessarySeqFocus false
set_option linter.unusedSimpArgs false
set_option linter.unusedVariables false

open Sys2Proof

/-! ### Folds -/

@[simp] theorem foldl_mem {α : Type} (f : State → α → State) (l : List α) (s : State)
    (hf : ∀ s a, (f s a).mem = s.mem) : (l.foldl f s).mem = s.mem := by
  induction l generalizing s with
  | nil => rfl
  | cons a t ih => rw [List.foldl_cons, ih, hf]

@[simp] theorem foldl_wf {α : Type} (f : State → α → State) (l : List α) (s : State)
    (hf : ∀ s a, Memory.wf s.mem = true → Memory.wf (f s a).mem = true) (h : Memory.wf s.mem = true) :
    Memory.wf (l.foldl f s).mem = true := by
  induction l generalizing s with
  | nil => exact h
  | cons a t ih => exact ih _ (hf s a h)

@[simp] theorem setSide_wf (m : Mem) (l : Nat) (b : SideBand) (h : Memory.wf m = true) :
    Memory.wf (setSide m l b) = true := wf_setSide h l b

@[simp] theorem setRawWord_wf (m : Mem) (w v : Nat) (h : Memory.wf m = true) :
    Memory.wf (setRawWord m w v) = true := wf_setRawWord h w v

@[simp] theorem storeBytes_wf (m : Mem) (a : Nat) (l : List Byte) (h : Memory.wf m = true) :
    Memory.wf (storeBytes m a l) = true := wf_storeBytes h a l

/-! ### Ops.lean -/

@[simp] theorem sealBy_mem (iface key : Nat) (s : State) : (sealBy iface key s).2.mem = s.mem := rfl

@[simp] theorem sealFrom_mem (tile : Nat) (dst : Option Nat) (key : Nat) (s : State) :
    (sealFrom tile dst key s).2.mem = s.mem := by
  unfold sealFrom
  dsimp only [freshId]
  (repeat' split) <;> first | rfl | simp

@[simp] theorem answerSeal_mem (iface : Nat) (stamp : Option Seal) (s : State) :
    (answerSeal iface stamp s).mem = s.mem := by
  unfold answerSeal
  (repeat' split) <;> first | rfl | simp

@[simp] theorem sealTo_mem (tile dst key : Nat) (s : State) : (sealTo tile dst key s).mem = s.mem := by
  unfold sealTo
  (repeat' split) <;> first | rfl | simp

@[simp] theorem waitOn_mem (l : List Loc) (s : State) : (waitOn l s).mem = s.mem := rfl

@[simp] theorem parkMe_mem (st : Stat) (s : State) : (parkMe st s).mem = s.mem := by
  unfold parkMe
  (repeat' split) <;> first | rfl | simp

@[simp] theorem signalHart_mem (n : Nat) (l : Loc) (s : State) : (signalHart n l s).mem = s.mem := rfl

@[simp] theorem signalAll_mem (l : Loc) (s : State) : (signalAll l s).mem = s.mem := rfl

@[simp] theorem signalOcc_mem (n : Nat) (s : State) : (signalOcc n s).mem = s.mem := rfl

@[simp] theorem register_mem (line : Nat) (h : Hart) (s : State) : (register line h s).mem = s.mem := by
  unfold register
  dsimp only [freshId]
  (repeat' split) <;> first | rfl | simp

@[simp] theorem cancelWakes_mem (n : Nat) (s : State) : (cancelWakes n s).mem = s.mem := rfl

@[simp] theorem wakeLine_mem (line : Nat) (s : State) : (wakeLine line s).mem = s.mem := by
  unfold wakeLine
  dsimp only [freshId]
  (repeat' split) <;> first | rfl | simp

@[simp] theorem giveUpSlot_mem (n : Nat) (s : State) : (giveUpSlot n s).mem = s.mem := by
  unfold giveUpSlot
  (repeat' split) <;> first | rfl | simp

@[simp] theorem leaveSlot_mem (n : Nat) (s : State) : (leaveSlot n s).mem = s.mem := by
  unfold leaveSlot
  dsimp only [freshId]
  (repeat' split) <;> first | rfl | simp

@[simp] theorem dropPend_mem (p : Pend) (s : State) : (dropPend p s).mem = s.mem := by
  unfold dropPend
  dsimp only [freshId]
  (repeat' split) <;> first | rfl | simp

@[simp] theorem dropReplies_mem (n : Nat) (s : State) : (dropReplies n s).mem = s.mem := by
  unfold dropReplies
  (repeat' split) <;> first | rfl | simp

@[simp] theorem vacate_mem (n : Nat) (s : State) : (vacate n s).mem = s.mem := by
  unfold vacate
  (repeat' split) <;> first | rfl | simp

theorem takeTask_mem (e : TaskEnq) (s t : State) (h : takeTask e s = some t) : t.mem = s.mem := by
  unfold takeTask at h
  dsimp only at h
  (repeat' split at h) <;> simp_all <;> subst h <;> rfl

@[simp] theorem requeue_mem (e : TaskEnq) (s : State) : (requeue e s).mem = s.mem := by
  unfold requeue
  cases h : takeTask e s with
  | none => rfl
  | some t => exact takeTask_mem e s t h

@[simp] theorem cancelChildren_mem (k : TaskKey) (s : State) : (cancelChildren k s).mem = s.mem := by
  unfold cancelChildren
  (repeat' split) <;> first | rfl | simp

@[simp] theorem rollback_mem (n : Nat) (wakeOn : Option (List Nat)) (s : State) : (rollback n wakeOn s).mem = s.mem := by
  unfold rollback
  (repeat' split) <;> first | rfl | simp

@[simp] theorem abortAt_mem (n status detail : Nat) (s : State) : (abortAt n status detail s).mem = s.mem := by
  unfold abortAt
  (repeat' split) <;> first | rfl | simp

@[simp] theorem abortMe_mem (status detail : Nat) (s : State) : (abortMe status detail s).mem = s.mem := by
  unfold abortMe
  (repeat' split) <;> first | rfl | simp

@[simp] theorem trapAt_mem (n cls detail tval : Nat) (w : Bool) (s : State) :
    (trapAt n cls detail tval w s).mem = s.mem := by
  unfold trapAt
  (repeat' split) <;> first | rfl | simp

@[simp] theorem cause_mem (c : Cause) (tval : Nat) (s : State) : (cause c tval s).mem = s.mem := by
  unfold cause
  (repeat' split) <;> first | rfl | simp

@[simp] theorem causeAt_mem (n : Nat) (c : Cause) (tval : Nat) (w : Bool) (s : State) :
    (causeAt n c tval w s).mem = s.mem := by
  unfold causeAt
  (repeat' split) <;> first | rfl | simp

@[simp] theorem sendError_mem (n val : Nat) (s : State) : (sendError n val s).mem = s.mem := rfl

@[simp] theorem turnPast_mem (n : Nat) (s : State) : (turnPast n s).mem = s.mem := rfl

@[simp] theorem passTurn_mem (n : Nat) (t : State) : (passTurn n t).mem = t.mem := by
  unfold passTurn
  (repeat' split) <;> first | rfl | simp

/-! ### Operands.lean -/

@[simp] theorem beginMove_mem (dst : MigTo) (toTile : Nat) (s : State) : (beginMove dst toTile s).mem = s.mem := by
  unfold beginMove
  (repeat' split) <;> first | rfl | simp

@[simp] theorem advance_mem (g : Gate) (s : State) : (advance g s).mem = s.mem := rfl

theorem gateOperands_mem (g : Gate) (s t : State) (h : gateOperands g s = some t) : t.mem = s.mem := by
  unfold gateOperands at h
  (repeat' split at h) <;> simp_all <;> subst h <;> simp

theorem gate_mem (g : Gate) (s t : State) (h : gate g s = some t) : t.mem = s.mem := by
  unfold gate at h
  (repeat' split at h) <;> first
    | (exact gateOperands_mem g s t h)
    | (simp only [Option.some.injEq] at h; subst h; simp)

@[simp] theorem issue_mem (g : Gate) (k : State → State) (s : State) (hk : ∀ t, (k t).mem = t.mem) :
    (issue g k s).mem = s.mem := by
  unfold issue
  split
  · rename_i t h; exact gate_mem g s t h
  · rw [hk]; simp [advance]

theorem issue_wf (g : Gate) (k : State → State) (s : State)
    (hk : ∀ t, Memory.wf t.mem = true → Memory.wf (k t).mem = true) (hw : Memory.wf s.mem = true) :
    Memory.wf (issue g k s).mem = true := by
  unfold issue
  split
  · rename_i t h; rw [gate_mem g s t h]; exact hw
  · exact hk _ (by simpa [advance] using hw)

@[simp] theorem sendMsg_mem (src dst v : Nat) (s : State) : (sendMsg src dst v s).mem = s.mem := by
  unfold sendMsg
  dsimp only [freshId]
  (repeat' split) <;> first | rfl | simp

@[simp] theorem sendTx_mem (v : Nat) (s : State) : (sendTx v s).mem = s.mem := by
  unfold sendTx
  (repeat' split) <;> first | rfl | simp

@[simp] theorem writeOp_mem (sc : Scale) (p : Pos) (x : Byte) (v : Nat) (s : State) :
    (writeOp sc p x v s).mem = s.mem := by
  unfold writeOp
  (repeat' split) <;> first | rfl | simp

@[simp] theorem writeOpd_mem (p : Pos) (o : Opd) (v : Nat) (s : State) : (writeOpd p o v s).mem = s.mem := by
  unfold writeOpd
  (repeat' split) <;> first | rfl | simp

/-! ### Scalar.lean -/

@[simp] theorem op3_mem (i : Instr) (f : Nat → Val → Val → Nat) (b a d : Opd) (s : State) :
    (op3 i f b a d s).mem = s.mem := by
  unfold op3
  (repeat' split) <;> first | rfl | simp

@[simp] theorem op2_mem (i : Instr) (f : Nat → Val → Val → Nat) (b a : Opd) (s : State) :
    (op2 i f b a s).mem = s.mem := by
  unfold op2
  (repeat' split) <;> first | rfl | simp

@[simp] theorem op1_mem (i : Instr) (f : Nat → Val → Nat) (a d : Opd) (s : State) : (op1 i f a d s).mem = s.mem := by
  unfold op1
  (repeat' split) <;> first | rfl | simp

@[simp] theorem opD1_mem (i : Instr) (f : Nat → Nat → Val → Nat) (a d : Opd) (s : State) :
    (opD1 i f a d s).mem = s.mem := by
  unfold opD1
  (repeat' split) <;> first | rfl | simp

@[simp] theorem opSel_mem (i : Instr) (b a d : Opd) (s : State) : (opSel i b a d s).mem = s.mem := by
  unfold opSel
  (repeat' split) <;> first | rfl | simp

@[simp] theorem opLi_mem (i : Instr) (v : Val) (d : Opd) (s : State) : (opLi i v d s).mem = s.mem := by
  unfold opLi
  (repeat' split) <;> first | rfl | simp

/-! ### Caps.lean -/

@[simp] theorem opCap_mem (i : Instr) (needs : List Need) (d : Nat) (r : CapRes) (s : State) :
    (opCap i needs d r s).mem = s.mem := by
  unfold opCap
  try dsimp only [freshId]
  (repeat' split) <;> first
    | rfl
    | (simp; done)
    | (rename_i t h; exact gate_mem _ _ _ h)
    | (first
         | refine issue_mem _ _ _ fun t => ?_
         | refine access_mem _ _ _ _ _ _ _ _ _ _ _ fun a t => ?_
         | refine accessBy_mem _ _ _ _ _ _ _ _ _ _ fun a t => ?_
       try dsimp only [freshId]
       (repeat' split) <;> first | rfl | simp)

/-! ### Memory.lean -/

@[simp] theorem putView_wf (w : Nat) (v : WordView) (s : State) (hw : Memory.wf s.mem = true) :
    Memory.wf (putView w v s).mem = true := by
  unfold putView
  (repeat' split) <;> simp_all

@[simp] theorem sealLine_wf (l key : Nat) (s : State) (hw : Memory.wf s.mem = true) :
    Memory.wf (sealLine l key s).mem = true := by
  unfold sealLine
  (repeat' split) <;> simp_all

@[simp] theorem clearSlice_wf (l : Nat) (s : State) (hw : Memory.wf s.mem = true) :
    Memory.wf (clearSlice l s).mem = true := by
  unfold clearSlice
  (repeat' split) <;> simp_all

@[simp] theorem clearBad_wf (w : Nat) (s : State) (hw : Memory.wf s.mem = true) :
    Memory.wf (clearBad w s).mem = true := by
  unfold clearBad
  (repeat' split) <;> simp_all

@[simp] theorem applyWord_wf (o : MOp) (w : Nat) (s : State) (hw : Memory.wf s.mem = true) :
    Memory.wf (applyWord o w s).mem = true := by
  unfold applyWord
  (repeat' split) <;> simp_all

@[simp] theorem applyOp_wf (key : Nat) (o : MOp) (s : State) (h : Memory.wf s.mem = true) :
    Memory.wf (applyOp key o s).mem = true := by
  unfold applyOp
  exact foldl_wf _ _ _ (fun s w h => by simp [h]) h

@[simp] theorem applyOps_wf (key : Nat) (l : List MOp) (s : State) (hw : Memory.wf s.mem = true) :
    Memory.wf (applyOps key l s).mem = true := by
  unfold applyOps
  (repeat' split) <;> simp_all

/-! ### Translate.lean -/

@[simp] theorem tlbFill_mem (h : Hart) (m : Mapping) (s : State) : (tlbFill h m s).mem = s.mem := rfl

@[simp] theorem tlbTouch_mem (h : Hart) (a : Nat) (s : State) : (tlbTouch h a s).mem = s.mem := by
  unfold tlbTouch
  dsimp only [freshId]
  (repeat' split) <;> first | rfl | simp

/-! ### Txn.lean -/

@[simp] theorem modEvery_mem (f : Hart → Hart) (s : State) : (modEvery f s).mem = s.mem := rfl

@[simp] theorem modTxn_mem (id : Nat) (f : Txn → Txn) (s : State) : (modTxn id f s).mem = s.mem := rfl

@[simp] theorem doomTxn_mem (id status detail : Nat) (s : State) : (doomTxn id status detail s).mem = s.mem := rfl

@[simp] theorem conflictWrite_mem (line : Nat) (task : Option TaskRun) (s : State) :
    (conflictWrite line task s).mem = s.mem := by
  unfold conflictWrite
  refine foldl_mem _ _ _ fun s a => ?_
  (repeat' split) <;> first | rfl | simp

@[simp] theorem modEnqs_mem (f : TaskEnq → TaskEnq) (s : State) : (modEnqs f s).mem = s.mem := rfl

@[simp] theorem foreignWrite_mem (w mask : Nat) (task : Option TaskRun) (s : State) :
    (foreignWrite w mask task s).mem = s.mem := by
  unfold foreignWrite
  (repeat' split) <;> first | rfl | simp

@[simp] theorem foreignLine_mem (l : Nat) (s : State) : (foreignLine l s).mem = s.mem := by
  unfold foreignLine
  (repeat' split) <;> first | rfl | simp

@[simp] theorem conflictTxn_mem (p : Hart) (line : Nat) (writes : Bool) (s : State) :
    (conflictTxn p line writes s).mem = s.mem := by
  unfold conflictTxn
  refine foldl_mem _ _ _ fun s a => ?_
  (repeat' split) <;> simp

@[simp] theorem addRead_mem (id gen line : Nat) (s : State) : (addRead id gen line s).mem = s.mem := by
  unfold addRead
  dsimp only [freshId]
  (repeat' split) <;> first | rfl | simp

@[simp] theorem addWrite_mem (id gen req : Nat) (o : MOp) (s : State) : (addWrite id gen req o s).mem = s.mem := by
  unfold addWrite
  dsimp only [freshId]
  (repeat' split) <;> first | rfl | simp

@[simp] theorem abandonReqs_mem (id mark : Nat) (s : State) : (abandonReqs id mark s).mem = s.mem := rfl

@[simp] theorem retryAt_mem (n : Nat) (s : State) : (retryAt n s).mem = s.mem := by
  unfold retryAt
  dsimp only [freshId]
  (repeat' split) <;> first | rfl | simp

/-! ### Page.lean -/

@[simp] theorem pagePut_wf (off v : Nat) (s : State) (hw : Memory.wf s.mem = true) :
    Memory.wf (pagePut off v s).mem = true := by
  unfold pagePut
  (repeat' split) <;> simp_all

@[simp] theorem pageTake_wf (off : Nat) (s : State) (hw : Memory.wf s.mem = true) :
    Memory.wf (pageTake off s).mem = true := by
  unfold pageTake
  (repeat' split) <;> simp_all

@[simp] theorem notify_mem (val : Nat) (s : State) : (notify val s).mem = s.mem := rfl

@[simp] theorem logEvent_wf (kind idx phys : Nat) (s : State) (hw : Memory.wf s.mem = true) :
    Memory.wf (logEvent kind idx phys s).mem = true := by
  unfold logEvent
  dsimp only [freshId]
  (repeat' split) <;> simp_all

@[simp] theorem failChannels_wf (stack new : Nat) (s : State) (h : Memory.wf s.mem = true) :
    Memory.wf (failChannels stack new s).mem = true := by
  unfold failChannels
  dsimp only
  have f (l : List Nat) (s : State) (h : Memory.wf s.mem = true) :
      Memory.wf (l.foldl (fun s _ => logEvent 3 stack 0 s) s).mem = true :=
    foldl_wf _ _ _ (fun s _ h => logEvent_wf _ _ _ _ h) h
  have g (c : Prop) [Decidable c] (off v : Nat) (s : State) (h : Memory.wf s.mem = true) :
      Memory.wf (if c then pagePut off v s else s).mem = true := by
    split
    · exact pagePut_wf _ _ _ h
    · exact h
  have g' (c : Prop) [Decidable c] (off v : Nat) (s : State) (h : Memory.wf s.mem = true) :
      Memory.wf (if c then s else pagePut off v s).mem = true := by
    split
    · exact h
    · exact pagePut_wf _ _ _ h
  exact g _ _ _ _ (f _ _ (g' _ _ _ _ h))

@[simp] theorem setScrub_mem (k : Nat) (v : Scrub) (s : State) : (setScrub k v s).mem = s.mem := rfl

@[simp] theorem countRead_wf (l : Nat) (s : State) (hw : Memory.wf s.mem = true) :
    Memory.wf (countRead l s).mem = true := by
  unfold countRead
  dsimp only [freshId]
  (repeat' split) <;> simp_all

@[simp] theorem countFailing_wf (l : Nat) (s : State) (hw : Memory.wf s.mem = true) :
    Memory.wf (countFailing l s).mem = true := by
  unfold countFailing
  (repeat' split) <;> simp_all

@[simp] theorem repairLine_wf (l : Nat) (s : State) (hw : Memory.wf s.mem = true) :
    Memory.wf (repairLine l s).mem = true := by
  unfold repairLine
  extract_lets k t
  have ht : Memory.wf t.mem = true := countRead_wf l s hw
  split
  · exact ht
  · exact logEvent_wf _ _ _ _ (wf_setSide ht _ _)

theorem repairFirst_wf {lines : List Nat} {s t : State} (h : repairFirst lines s = some t) (hw : Memory.wf s.mem = true) :
    Memory.wf t.mem = true := by
  unfold repairFirst at h
  obtain ⟨l, -, rfl⟩ := Option.map_eq_some_iff.mp h
  exact repairLine_wf l s hw

@[simp] theorem pageStore_wf (w : Nat) (o : MOp) (s : State) (hw : Memory.wf s.mem = true) :
    Memory.wf (pageStore w o s).mem = true := by
  unfold pageStore
  dsimp only [freshId]
  (repeat' split) <;> simp_all

@[simp] theorem pageSet_wf (off v : Nat) (s : State) (hw : Memory.wf s.mem = true) :
    Memory.wf (pageSet off v s).mem = true := by
  unfold pageSet
  (repeat' split) <;> simp_all

@[simp] theorem pageInit_wf (off v : Nat) (full : Bool) (s : State) (hw : Memory.wf s.mem = true) :
    Memory.wf (pageInit off v full s).mem = true := by
  unfold pageInit
  (repeat' split) <;> simp_all

@[simp] theorem pageFill_wf (off n v : Nat) (full : Bool) (s : State) (hw : Memory.wf s.mem = true) :
    Memory.wf (pageFill off n v full s).mem = true := by
  unfold pageFill
  (repeat' split) <;> simp_all

@[simp] theorem initPage_wf (s : State) (hw : Memory.wf s.mem = true) : Memory.wf (initPage s).mem = true := by
  unfold initPage
  extract_lets a b c
  have ha : Memory.wf a.mem = true := pageInit_wf _ _ _ _ (pageInit_wf _ _ _ _ hw)
  have hb : Memory.wf b.mem = true := pageInit_wf _ _ _ _ (pageInit_wf _ _ _ _ (pageFill_wf _ _ _ _ _ ha))
  have hc : Memory.wf c.mem = true :=
    pageInit_wf _ _ _ _ (pageInit_wf _ _ _ _ (pageInit_wf _ _ _ _ (pageInit_wf _ _ _ _ hb)))
  exact pageFill_wf _ _ _ _ _ hc

@[simp] theorem renewPage_wf (old s : State) (hw : Memory.wf s.mem = true) : Memory.wf (renewPage old s).mem = true := by
  unfold renewPage
  (repeat' split) <;> simp_all

/-! ### Access.lean -/

@[simp] theorem sendReq_mem (q : ReqSpec) (s : State) : (sendReq q s).mem = s.mem := by
  unfold sendReq
  dsimp only [freshId]
  (repeat' split) <;> first | rfl | simp

@[simp] theorem sendReqs_mem (l : List ReqSpec) (s : State) : (sendReqs l s).mem = s.mem := by
  unfold sendReqs
  (repeat' split) <;> first | rfl | simp

@[simp] theorem drawTags_mem (n : Nat) (s : State) : (drawTags n s).2.mem = s.mem := by
  unfold drawTags
  dsimp only [freshId]
  (repeat' split) <;> first | rfl | simp

@[simp] theorem expectTagged_mem (dest : Dest) (shape : Shape) (parts : List (Option (BitVec 520)))
    (tags : List Nat) (holds : Bool) (next : Option Addr) (eats : List Nat) (s : State) : (expectTagged dest shape parts tags holds next eats s).2.mem = s.mem := rfl

@[simp] theorem expectWith_mem (dest : Dest) (shape : Shape) (parts : List (Option (BitVec 520))) (ntags : Nat)
    (holds : Bool) (next : Option Addr) (eats : List Nat) (s : State) : (expectWith dest shape parts ntags holds next eats s).2.mem = s.mem := by
  unfold expectWith
  dsimp only [freshId]
  (repeat' split) <;> first | rfl | simp

@[simp] theorem expect_mem (dest : Dest) (shape : Shape) (nparts ntags : Nat) (holds : Bool) (s : State) :
    (expect dest shape nparts ntags holds s).2.mem = s.mem := by
  unfold expect
  (repeat' split) <;> first | rfl | simp

@[simp] theorem countWords_wf (h : Hart) (words : List Nat) (s : State) (hw : Memory.wf s.mem = true) :
    Memory.wf (countWords h words s).mem = true := by
  unfold countWords
  (repeat' split) <;> simp_all

@[simp] theorem accessBy_wf (c : Cap) (off perm : Nat) (write stays : Bool) (reads : Acc → Nat) (k : Kind) (base : Gate)
    (fin : Acc → State → State) (s : State)
    (hf : ∀ a t, Memory.wf t.mem = true → Memory.wf (fin a t).mem = true) (hw : Memory.wf s.mem = true) :
    Memory.wf (accessBy c off perm write stays reads k base fin s).mem = true := by
  unfold accessBy
  (repeat' split) <;> first
    | (rename_i t h; rw [gate_mem _ _ _ h]; exact hw)
    | exact hf _ _ (by simp [hw])
    | simp [hw]

@[simp] theorem access_wf (g : Acc → Gate) (c : Cap) (off perm : Nat) (write stays : Bool) (reads : Acc → Nat)
    (k : Kind) (base : Gate) (eff : Acc → State → State) (s : State)
    (hf : ∀ a t, Memory.wf t.mem = true → Memory.wf (eff a t).mem = true) (hw : Memory.wf s.mem = true) :
    Memory.wf (access g c off perm write stays reads k base eff s).mem = true := by
  unfold access
  exact accessBy_wf _ _ _ _ _ _ _ _ _ _ (fun a t h => issue_wf _ _ _ (hf a) h) hw

@[simp] theorem accessHeld_wf (g : Acc → Gate) (c : Cap) (off perm : Nat) (write stays : Bool) (reads : Acc → Nat)
    (k : Kind) (base : Gate) (eff : Acc → State → State) (s : State)
    (hf : ∀ a t, Memory.wf t.mem = true → Memory.wf (eff a t).mem = true) (hw : Memory.wf s.mem = true) :
    Memory.wf (accessHeld g c off perm write stays reads k base eff s).mem = true := by
  unfold accessHeld
  refine accessBy_wf _ _ _ _ _ _ _ _ _ _ (fun a t hw => ?_) hw
  cases h : gate (g a) t with
  | none => exact hf a t hw
  | some u => show Memory.wf u.mem = true; rw [gate_mem _ _ _ h]; exact hw

/-! ### Home.lean -/

@[simp] theorem setHist_mem (r : Req) (w mask : Nat) (s : State) : (setHist r w mask s).mem = s.mem := rfl

@[simp] theorem spreadHist_mem (i : Nat) (l : List Nat) (s : State) : (spreadHist i l s).mem = s.mem := by
  unfold spreadHist
  (repeat' split) <;> first | rfl | simp

@[simp] theorem reply_mem (r : Req) (v : Nat) (hist : List Nat) (s : State) : (reply r v hist s).mem = s.mem := by
  unfold reply
  (repeat' split) <;> first | rfl | simp

@[simp] theorem ack_mem (r : Req) (s : State) : (ack r s).mem = s.mem := by
  unfold ack
  (repeat' split) <;> first | rfl | simp

@[simp] theorem settleInvals_mem (s : State) : (settleInvals s).mem = s.mem := rfl

@[simp] theorem markLines_mem (lines hist : List Nat) (s : State) : (markLines lines hist s).mem = s.mem := rfl

@[simp] theorem sealTrip_mem (tile key : Nat) (host : Bool) (l : Nat) (s : State) :
    (sealTrip tile key host l s).mem = s.mem := by
  unfold sealTrip
  dsimp only [freshId]
  (repeat' split) <;> first | rfl | simp

@[simp] theorem sealTrips_mem (tile key : Nat) (words : List Nat) (s : State) :
    (sealTrips tile key words s).mem = s.mem := by
  unfold sealTrips
  (repeat' split) <;> first | rfl | simp

@[simp] theorem traceWrite_mem (src w mask : Nat) (remote : Bool) (s : State) :
    (traceWrite src w mask remote s).mem = s.mem := by
  unfold traceWrite
  dsimp only [freshId]
  (repeat' split) <;> first | rfl | simp

@[simp] theorem memWrite_wf (task : Option TaskRun) (r : Req) (o : MOp) (s : State) (hw : Memory.wf s.mem = true) :
    Memory.wf (memWrite task r o s).mem = true := by
  unfold memWrite
  split
  · simp [hw]
  · refine foldl_wf _ _ _ (fun s w h => ?_) (by simp [hw])
    dsimp only
    (repeat' split) <;> simp [h]

@[simp] theorem pageWrite_wf (r : Req) (o : MOp) (s : State) (w : Nat) (hw : Memory.wf s.mem = true) :
    Memory.wf (pageWrite r o s w).mem = true := by
  unfold pageWrite
  (repeat' split) <;> simp_all

@[simp] theorem sendHost_mem (pasid addr : Nat) (val mask : Line) (s : State) :
    (sendHost pasid addr val mask s).mem = s.mem := by
  unfold sendHost
  (repeat' split) <;> first | rfl | simp

@[simp] theorem storeWords_wf (task : Option TaskRun) (r : Req) (o : MOp) (s : State)
    (hw : Memory.wf s.mem = true) : Memory.wf (storeWords task r o s).mem = true := by
  unfold storeWords
  (repeat' split) <;> simp_all

@[simp] theorem storeHomeFor_wf (task : Option TaskRun) (r : Req) (o : MOp) (s : State)
    (hw : Memory.wf s.mem = true) : Memory.wf (storeHomeFor task r o s).mem = true := by
  unfold storeHomeFor
  (repeat' split) <;> simp_all

@[simp] theorem storeHome_wf (r : Req) (o : MOp) (s : State) (hw : Memory.wf s.mem = true) :
    Memory.wf (storeHome r o s).mem = true := by
  unfold storeHome
  (repeat' split) <;> simp_all

@[simp] theorem writeReq_wf (r : Req) (o : MOp) (s : State) (hw : Memory.wf s.mem = true) :
    Memory.wf (writeReq r o s).mem = true := by
  unfold writeReq
  (repeat' split) <;> simp_all

@[simp] theorem writeAll_wf (r : Req) (l : List MOp) (s : State) (hw : Memory.wf s.mem = true) :
    Memory.wf (writeAll r l s).mem = true := by
  unfold writeAll
  (repeat' split) <;> simp_all

@[simp] theorem noteRead_mem (r : Req) (line : Nat) (s : State) : (noteRead r line s).mem = s.mem := by
  unfold noteRead
  (repeat' split) <;> first | rfl | simp

@[simp] theorem undoForm_mem (p : Pend) (s : State) : (undoForm p s).mem = s.mem := by
  unfold undoForm
  (repeat' split) <;> first | rfl | simp

@[simp] theorem formFails_mem (r : Req) (line : Nat) (hist : List Nat) (s : State) :
    (formFails r line hist s).mem = s.mem := by
  unfold formFails
  dsimp only [freshId]
  (repeat' split) <;> first | rfl | simp

@[simp] theorem trapLater_mem (n : Nat) (c : Cause) (t : Nat) (s : State) : (trapLater n c t s).mem = s.mem := by
  unfold trapLater
  (repeat' split) <;> first | rfl | simp

@[simp] theorem formTraps_wf (r : Req) (c : Cause) (t : Nat) (s : State) (hw : Memory.wf s.mem = true) :
    Memory.wf (formTraps r c t s).mem = true := by
  unfold formTraps
  dsimp only [freshId]
  (repeat' split) <;> simp_all

@[simp] theorem readTraps_wf (r : Req) (c : Cause) (s : State) (hw : Memory.wf s.mem = true) :
    Memory.wf (readTraps r c s).mem = true := by
  unfold readTraps
  dsimp only [freshId]
  (repeat' split) <;> simp_all

@[simp] theorem logAppend_mem (e : LogEntry) (s : State) : (logAppend e s).mem = s.mem := rfl

/-! ### Units.lean -/

@[simp] theorem unitStore_wf (key : Nat) (o : MOp) (s : State) (hw : Memory.wf s.mem = true) :
    Memory.wf (unitStore key o s).mem = true := by
  unfold unitStore
  (repeat' split) <;> simp_all

@[simp] theorem unitStores_wf (key : Nat) (l : List MOp) (s : State) (hw : Memory.wf s.mem = true) :
    Memory.wf (unitStores key l s).mem = true := by
  unfold unitStores
  (repeat' split) <;> simp_all

/-! ### Publish.lean -/

@[simp] theorem semAdd_wf (v : SemV) (s : State) (hw : Memory.wf s.mem = true) : Memory.wf (semAdd v s).mem = true := by
  unfold semAdd
  (repeat' split) <;> simp_all

@[simp] theorem semDrain_wf (w : Nat) (s : State) (hw : Memory.wf s.mem = true) :
    Memory.wf (semDrain w s).mem = true := by
  unfold semDrain
  dsimp only [freshId]
  (repeat' split) <;> simp_all

@[simp] theorem semSettle_wf (l : List MOp) (s : State) (hw : Memory.wf s.mem = true) :
    Memory.wf (semSettle l s).mem = true := by
  unfold semSettle
  refine foldl_wf _ _ _ (fun s a hw => ?_) hw
  (repeat' split) <;> simp_all

@[simp] theorem hdrWrite_wf (r : Req) (hdr : Nat) (l : List (Nat × Nat)) (s : State)
    (hw : Memory.wf s.mem = true) : Memory.wf (hdrWrite r hdr l s).mem = true := by
  unfold hdrWrite
  (repeat' split) <;> simp_all

@[simp] theorem setEngine_mem (t : Nat) (eng : Bool) (v : Engine) (s : State) : (setEngine t eng v s).mem = s.mem := rfl

@[simp] theorem chainAdvance_wf (r : Req) (ch : Chain) (n t : Nat) (eng : Bool) (s : State)
    (hw : Memory.wf s.mem = true) : Memory.wf (chainAdvance r ch n t eng s).mem = true := by
  unfold chainAdvance
  dsimp only [freshId]
  (repeat' split) <;> simp_all

@[simp] theorem markPending_wf (l : Nat) (on : Bool) (s : State) (hw : Memory.wf s.mem = true) :
    Memory.wf (markPending l on s).mem = true := by
  unfold markPending
  (repeat' split) <;> simp_all

@[simp] theorem addPending_wf (o : MOp) (shoff : Option Nat) (key : Nat) (hist : List Nat) (s : State)
    (hw : Memory.wf s.mem = true) : Memory.wf (addPending o shoff key hist s).mem = true := by
  unfold addPending
  (repeat' split) <;> simp_all

@[simp] theorem zeroLine_wf (key l : Nat) (s : State) (h : Memory.wf s.mem = true) :
    Memory.wf (zeroLine key l s).mem = true := by
  unfold zeroLine
  exact foldl_wf _ _ _ (fun s i h => by simp [h]) h

@[simp] theorem publishRegion_wf (r : Req) (pan : Option Nat) (depth path : Nat) (s : State)
    (hw : Memory.wf s.mem = true) : Memory.wf (publishRegion r pan depth path s).mem = true := by
  unfold publishRegion
  dsimp only
  refine foldl_wf _ _ _ (fun s l h => by simp [h]) ?_
  refine foldl_wf _ _ _ (fun s l h => by simp [h]) ?_
  refine foldl_wf _ _ _ (fun s l h => by simp [h]) ?_
  exact foldl_wf _ _ _ (fun s l h => by simp [h]) hw

/-! ### Perform.lean -/

@[simp] theorem mergeEntry_wf (r : Req) (s : State) (e : LogEntry) (hw : Memory.wf s.mem = true) :
    Memory.wf (mergeEntry r s e).mem = true := by
  unfold mergeEntry
  (repeat' split) <;> simp_all

@[simp] theorem readReply_wf (r : Req) (v : Nat) (s : State) (hw : Memory.wf s.mem = true) :
    Memory.wf (readReply r v s).mem = true := by
  unfold readReply
  (repeat' split) <;> simp_all

@[simp] theorem atomicFails_wf (r : Req) (c : Cause) (s : State) (hw : Memory.wf s.mem = true) :
    Memory.wf (atomicFails r c s).mem = true := by
  unfold atomicFails
  (repeat' split) <;> simp_all

@[simp] theorem performOp_wf (r : Req) (s : State) (hw : Memory.wf s.mem = true) :
    Memory.wf (performOp r s).mem = true := by
  unfold performOp
  dsimp only [freshId]
  (repeat' split) <;> simp_all

@[simp] theorem markPassed_mem (r : Req) (hist : List Nat) (s : State) : (markPassed r hist s).mem = s.mem := rfl

@[simp] theorem perform_wf (r : Req) (s : State) (hw : Memory.wf s.mem = true) : Memory.wf (perform r s).mem = true := by
  unfold perform
  (repeat' split) <;> simp_all

@[simp] theorem sealReply_mem (iface : Nat) (r : Req) (s : State) : (sealReply iface r s).mem = s.mem := by
  unfold sealReply
  (repeat' split) <;> first | rfl | simp

@[simp] theorem depositReply_mem (p : Pend) (s : State) : (depositReply p s).mem = s.mem := by
  unfold depositReply
  (repeat' split) <;> first | rfl | simp

/-! ### MemInstr.lean -/

@[simp] theorem expectForm_mem (i : Instr) (needs : List Need) (dest : Dest) (shape : Shape) (ntags : Nat)
    (s : State) : (expectForm i needs dest shape ntags s).2.mem = s.mem := by
  unfold expectForm
  (repeat' split) <;> first | rfl | simp

@[simp] theorem opLoad_wf (i : Instr) (o d : Opd) (c : Nat) (s : State) (hw : Memory.wf s.mem = true) :
    Memory.wf (opLoad i o d c s).mem = true := by
  unfold opLoad
  dsimp only [freshId]
  (repeat' split) <;> simp_all

@[simp] theorem opStore_wf (i : Instr) (hold : Bool) (o x : Opd) (c : Nat) (s : State)
    (hw : Memory.wf s.mem = true) : Memory.wf (opStore i hold o x c s).mem = true := by
  unfold opStore
  dsimp only [freshId]
  (repeat' split) <;> simp_all

@[simp] theorem opLoadFull_wf (i : Instr) (take : Bool) (o d : Opd) (c : Nat) (s : State)
    (hw : Memory.wf s.mem = true) : Memory.wf (opLoadFull i take o d c s).mem = true := by
  unfold opLoadFull
  dsimp only [freshId]
  (repeat' split) <;> simp_all

@[simp] theorem opStoreFull_wf (i : Instr) (toEmpty : Bool) (o x : Opd) (c : Nat) (s : State)
    (hw : Memory.wf s.mem = true) : Memory.wf (opStoreFull i toEmpty o x c s).mem = true := by
  unfold opStoreFull
  dsimp only [freshId]
  (repeat' split) <;> simp_all

@[simp] theorem opSpill_wf (i : Instr) (n s0 c : Nat) (s : State) (hw : Memory.wf s.mem = true) :
    Memory.wf (opSpill i n s0 c s).mem = true := by
  unfold opSpill
  dsimp only [freshId]
  (repeat' split) <;> simp_all

@[simp] theorem opFill_wf (i : Instr) (n s0 c : Nat) (s : State) (hw : Memory.wf s.mem = true) :
    Memory.wf (opFill i n s0 c s).mem = true := by
  unfold opFill
  refine accessBy_wf _ _ _ _ _ _ _ _ _ _ (fun a t hw => ?_) hw
  split
  · simp [hw]
  · exact issue_wf _ _ _ (fun t hw => by simp [hw]) hw

@[simp] theorem applyCommons_mem (c : Nat) (s : State) : (applyCommons c s).mem = s.mem := by
  unfold applyCommons
  dsimp only [freshId]
  (repeat' split) <;> first | rfl | simp

@[simp] theorem settleCommons_mem (n k : Nat) (s : State) : (settleCommons n k s).mem = s.mem := by
  induction k generalizing s with
  | zero => rfl
  | succ k ih =>
    unfold settleCommons
    split
    · rw [ih, applyCommons_mem]
    · rfl

@[simp] theorem settled_mem (s : State) : (settled s).mem = s.mem := by
  unfold settled
  (repeat' split) <;> first | rfl | simp

@[simp] theorem opCmld_mem (i : Instr) (sc : Scale) (o d : Byte) (s : State) : (opCmld i sc o d s).mem = s.mem := by
  unfold opCmld
  dsimp only
  split
  · rw [cause_mem, settled_mem]
  · rw [issue_mem _ _ _ fun t => by simp, settled_mem]

@[simp] theorem opCmst_mem (i : Instr) (sc : Scale) (o x : Byte) (s : State) : (opCmst i sc o x s).mem = s.mem := by
  unfold opCmst
  exact issue_mem _ _ _ fun t => by first | rfl | simp

@[simp] theorem opStcap_wf (i : Instr) (o : Byte) (k c : Nat) (s : State) (hw : Memory.wf s.mem = true) :
    Memory.wf (opStcap i o k c s).mem = true := by
  unfold opStcap
  try dsimp only [freshId]
  (repeat' split) <;> first
    | (simp_all; done)
    | (rename_i t h; rw [gate_mem _ _ _ h]; simp_all; done)
    | (first
         | refine issue_wf _ _ _ (fun t hw => ?_) hw
         | refine access_wf _ _ _ _ _ _ _ _ _ _ _ (fun a t hw => ?_) hw
         | refine accessHeld_wf _ _ _ _ _ _ _ _ _ _ _ (fun a t hw => ?_) hw
         | refine accessBy_wf _ _ _ _ _ _ _ _ _ _ (fun a t hw => ?_) hw
       try dsimp only [freshId]
       (repeat' split) <;> simp_all)

/-! ### Atomics.lean -/

@[simp] theorem opAmo_wf (i : Instr) (k : Kind) (bits : Nat) (srcs : List Need) (f : Acc → HomeOp) (o d : Byte)
    (c : Nat) (s : State) (hw : Memory.wf s.mem = true) : Memory.wf (opAmo i k bits srcs f o d c s).mem = true := by
  unfold opAmo
  dsimp only [freshId]
  (repeat' split) <;> simp_all

@[simp] theorem badWidth_mem (i : Instr) (g : Gate) (s : State) : (badWidth i g s).mem = s.mem := by
  unfold badWidth
  cases h : gate g s with
  | none => simp
  | some t => exact gate_mem _ _ _ h

@[simp] theorem opPost_wf (i : Instr) (k : Kind) (bits : Nat) (f : Acc → HomeOp) (o x : Byte) (c : Nat)
    (s : State) (hw : Memory.wf s.mem = true) : Memory.wf (opPost i k bits f o x c s).mem = true := by
  unfold opPost
  dsimp only [freshId]
  (repeat' split) <;> simp_all

@[simp] theorem opAmoInt_wf (i : Instr) (op : AmoOp) (o x : Byte) (c : Nat) (s : State)
    (hw : Memory.wf s.mem = true) : Memory.wf (opAmoInt i op o x c s).mem = true := by
  unfold opAmoInt
  dsimp only [freshId]
  (repeat' split) <;> simp_all

@[simp] theorem opAmoCas_wf (i : Instr) (o x : Byte) (c : Nat) (s : State) (hw : Memory.wf s.mem = true) :
    Memory.wf (opAmoCas i o x c s).mem = true := by
  unfold opAmoCas
  dsimp only [freshId]
  (repeat' split) <;> simp_all

@[simp] theorem opAmaxRst_wf (i : Instr) (o d : Byte) (c : Nat) (s : State) (hw : Memory.wf s.mem = true) :
    Memory.wf (opAmaxRst i o d c s).mem = true := by
  unfold opAmaxRst
  dsimp only [freshId]
  (repeat' split) <;> simp_all

@[simp] theorem opPostInt_wf (i : Instr) (op : AmoOp) (o x : Byte) (c : Nat) (s : State)
    (hw : Memory.wf s.mem = true) : Memory.wf (opPostInt i op o x c s).mem = true := by
  unfold opPostInt
  dsimp only [freshId]
  (repeat' split) <;> simp_all

@[simp] theorem opFadd_wf (i : Instr) (f16 : Bool) (o x : Byte) (c : Nat) (s : State)
    (hw : Memory.wf s.mem = true) : Memory.wf (opFadd i f16 o x c s).mem = true := by
  unfold opFadd
  dsimp only [freshId]
  (repeat' split) <;> simp_all

@[simp] theorem opFaddPost_wf (i : Instr) (f16 : Bool) (o x : Byte) (c : Nat) (s : State)
    (hw : Memory.wf s.mem = true) : Memory.wf (opFaddPost i f16 o x c s).mem = true := by
  unfold opFaddPost
  dsimp only [freshId]
  (repeat' split) <;> simp_all

@[simp] theorem opLmerge_wf (i : Instr) (d : Byte) (c : Nat) (s : State) (hw : Memory.wf s.mem = true) :
    Memory.wf (opLmerge i d c s).mem = true := by
  unfold opLmerge
  dsimp only [freshId]
  (repeat' split) <;> simp_all

/-! ### Csr.lean -/

@[simp] theorem sendIpi_mem (v : Nat) (s : State) : (sendIpi v s).mem = s.mem := by
  unfold sendIpi
  dsimp only [freshId]
  (repeat' split) <;> first | rfl | simp

@[simp] theorem csrPut_mem (n v : Nat) (s : State) : (csrPut n v s).mem = s.mem := by
  unfold csrPut
  (repeat' split) <;> first | rfl | simp

@[simp] theorem opCsrr_mem (i : Instr) (n : Nat) (d : Byte) (s : State) : (opCsrr i n d s).mem = s.mem := by
  unfold opCsrr
  (repeat' split) <;> first | rfl | simp

@[simp] theorem opCsrw_mem (i : Instr) (f : Nat → Nat → Nat → Nat) (n : Nat) (d : Byte) (s : State) :
    (opCsrw i f n d s).mem = s.mem := by
  unfold opCsrw
  dsimp only [freshId]
  (repeat' split) <;> first | rfl | simp

/-! ### Control.lean -/

@[simp] theorem gotoIf_mem (b : Bool) (a : Addr) (s : State) : (gotoIf b a s).mem = s.mem := by
  unfold gotoIf
  (repeat' split) <;> first | rfl | simp

@[simp] theorem opBz_mem (i : Instr) (onZero : Bool) (off : Int) (d : Opd) (s : State) :
    (opBz i onZero off d s).mem = s.mem := by
  unfold opBz
  (repeat' split) <;> first | rfl | simp

@[simp] theorem opDbnz_mem (i : Instr) (off : Int) (d : Opd) (s : State) : (opDbnz i off d s).mem = s.mem := by
  unfold opDbnz
  (repeat' split) <;> first | rfl | simp

@[simp] theorem opBranch_mem (i : Instr) (k : Cond) (c : Cls) (b a : Byte) (off : BitVec 8) (s : State) :
    (opBranch i k c b a off s).mem = s.mem := by
  unfold opBranch
  (repeat' split) <;> first | rfl | simp

@[simp] theorem opJump_mem (i : Instr) (off : Int) (s : State) : (opJump i off s).mem = s.mem := by
  unfold opJump
  exact issue_mem _ _ _ fun t => by first | rfl | simp

@[simp] theorem opJal_mem (i : Instr) (off : BitVec 16) (d : Byte) (s : State) : (opJal i off d s).mem = s.mem := by
  unfold opJal
  (repeat' split) <;> first | rfl | simp

@[simp] theorem opJr_mem (i : Instr) (a d : Byte) (s : State) : (opJr i a d s).mem = s.mem := by
  unfold opJr
  dsimp only [freshId]
  (repeat' split) <;> first | rfl | simp

@[simp] theorem opWin_mem (i : Instr) (b a d : BitVec 8) (s : State) : (opWin i b a d s).mem = s.mem := by
  unfold opWin
  exact issue_mem _ _ _ fun t => by first | rfl | simp

/-! ### TxnInstr.lean -/

@[simp] theorem opTbegin_mem (i : Instr) (off : BitVec 16) (s : State) : (opTbegin i off s).mem = s.mem := by
  unfold opTbegin
  try dsimp only [freshId]
  (repeat' split) <;> first
    | rfl
    | (simp; done)
    | (rename_i t h; exact gate_mem _ _ _ h)
    | (first
         | refine issue_mem _ _ _ fun t => ?_
         | refine access_mem _ _ _ _ _ _ _ _ _ _ _ fun a t => ?_
         | refine accessBy_mem _ _ _ _ _ _ _ _ _ _ fun a t => ?_
       try dsimp only [freshId]
       (repeat' split) <;> first | rfl | simp)

@[simp] theorem opOrelse_mem (i : Instr) (off : BitVec 16) (s : State) : (opOrelse i off s).mem = s.mem := by
  unfold opOrelse
  try dsimp only [freshId]
  (repeat' split) <;> first
    | rfl
    | (simp; done)
    | (rename_i t h; exact gate_mem _ _ _ h)
    | (first
         | refine issue_mem _ _ _ fun t => ?_
         | refine access_mem _ _ _ _ _ _ _ _ _ _ _ fun a t => ?_
         | refine accessBy_mem _ _ _ _ _ _ _ _ _ _ fun a t => ?_
       try dsimp only [freshId]
       (repeat' split) <;> first | rfl | simp)

@[simp] theorem opTend_mem (i : Instr) (s : State) : (opTend i s).mem = s.mem := by
  unfold opTend
  try dsimp only [freshId]
  (repeat' split) <;> first
    | rfl
    | (simp; done)
    | (rename_i t h; exact gate_mem _ _ _ h)
    | (first
         | refine issue_mem _ _ _ fun t => ?_
         | refine access_mem _ _ _ _ _ _ _ _ _ _ _ fun a t => ?_
         | refine accessBy_mem _ _ _ _ _ _ _ _ _ _ fun a t => ?_
       try dsimp only [freshId]
       (repeat' split) <;> first | rfl | simp)

@[simp] theorem opRetry_mem (i : Instr) (s : State) : (opRetry i s).mem = s.mem := by
  unfold opRetry
  (repeat' split) <;> first | rfl | simp

@[simp] theorem opTabort_mem (i : Instr) (code : BitVec 8) (s : State) : (opTabort i code s).mem = s.mem := by
  unfold opTabort
  refine issue_mem _ _ _ fun t => ?_
  (repeat' split) <;> first | rfl | simp

@[simp] theorem opTstat_mem (i : Instr) (d : Byte) (s : State) : (opTstat i d s).mem = s.mem := by
  unfold opTstat
  (repeat' split) <;> first | rfl | simp

/-! ### HartInstr.lean -/

@[simp] theorem placeHart_mem (h : Hart) (s : State) : (placeHart h s).mem = s.mem := rfl

@[simp] theorem answerPart_mem (p part v : Nat) (s : State) : (answerPart p part v s).mem = s.mem := rfl

@[simp] theorem opHspawn_mem (i : Instr) (b a d : Byte) (s : State) : (opHspawn i b a d s).mem = s.mem := by
  unfold opHspawn
  try dsimp only [freshId]
  (repeat' split) <;> first
    | rfl
    | (simp; done)
    | (rename_i t h; exact gate_mem _ _ _ h)
    | (first
         | refine issue_mem _ _ _ fun t => ?_
         | refine access_mem _ _ _ _ _ _ _ _ _ _ _ fun a t => ?_
         | refine accessBy_mem _ _ _ _ _ _ _ _ _ _ fun a t => ?_
       try dsimp only [freshId]
       (repeat' split) <;> first | rfl | simp)

@[simp] theorem sealAnswer_mem (p : Nat) (s : State) : (sealAnswer p s).mem = s.mem := by
  unfold sealAnswer
  (repeat' split) <;> first | rfl | simp

@[simp] theorem opHexit_mem (i : Instr) (s : State) : (opHexit i s).mem = s.mem := by
  unfold opHexit
  refine issue_mem _ _ _ fun t => ?_
  (repeat' split) <;> first | rfl | simp

@[simp] theorem opMig_mem (i : Instr) (a : Byte) (s : State) : (opMig i a s).mem = s.mem := by
  unfold opMig
  try dsimp only [freshId]
  (repeat' split) <;> first
    | rfl
    | (simp; done)
    | (rename_i t h; exact gate_mem _ _ _ h)
    | (first
         | refine issue_mem _ _ _ fun t => ?_
         | refine access_mem _ _ _ _ _ _ _ _ _ _ _ fun a t => ?_
         | refine accessBy_mem _ _ _ _ _ _ _ _ _ _ fun a t => ?_
       try dsimp only [freshId]
       (repeat' split) <;> first | rfl | simp)

@[simp] theorem sendTask_mem (e : TaskEnq) (s : State) : (sendTask e s).mem = s.mem := by
  unfold sendTask
  dsimp only [freshId]
  (repeat' split) <;> first | rfl | simp

@[simp] theorem opTenq_mem (i : Instr) (b a : Byte) (d : BitVec 6) (s : State) : (opTenq i b a d s).mem = s.mem := by
  unfold opTenq
  try dsimp only [freshId]
  (repeat' split) <;> first
    | rfl
    | (simp; done)
    | (rename_i t h; exact gate_mem _ _ _ h)
    | (first
         | refine issue_mem _ _ _ fun t => ?_
         | refine access_mem _ _ _ _ _ _ _ _ _ _ _ fun a t => ?_
         | refine accessBy_mem _ _ _ _ _ _ _ _ _ _ fun a t => ?_
       try dsimp only [freshId]
       (repeat' split) <;> first | rfl | simp)

@[simp] theorem opAmsg_mem (i : Instr) (o a : Byte) (c sub : Nat) (s : State) : (opAmsg i o a c sub s).mem = s.mem := by
  unfold opAmsg
  try dsimp only [freshId]
  (repeat' split) <;> first
    | rfl
    | (simp; done)
    | (rename_i t h; exact gate_mem _ _ _ h)
    | (first
         | refine issue_mem _ _ _ fun t => ?_
         | refine access_mem _ _ _ _ _ _ _ _ _ _ _ fun a t => ?_
         | refine accessBy_mem _ _ _ _ _ _ _ _ _ _ fun a t => ?_
       try dsimp only [freshId]
       (repeat' split) <;> first | rfl | simp)

@[simp] theorem opSpnext_mem (i : Instr) (b a d : Byte) (s : State) : (opSpnext i b a d s).mem = s.mem := by
  unfold opSpnext
  try dsimp only [freshId]
  (repeat' split) <;> first
    | rfl
    | (simp; done)
    | (rename_i t h; exact gate_mem _ _ _ h)
    | (first
         | refine issue_mem _ _ _ fun t => ?_
         | refine access_mem _ _ _ _ _ _ _ _ _ _ _ fun a t => ?_
         | refine accessBy_mem _ _ _ _ _ _ _ _ _ _ fun a t => ?_
       try dsimp only [freshId]
       (repeat' split) <;> first | rfl | simp)

@[simp] theorem opSbind_mem (i : Instr) (k : Nat) (a : Byte) (s : State) : (opSbind i k a s).mem = s.mem := by
  unfold opSbind
  try dsimp only [freshId]
  (repeat' split) <;> first
    | rfl
    | (simp; done)
    | (rename_i t h; exact gate_mem _ _ _ h)
    | (first
         | refine issue_mem _ _ _ fun t => ?_
         | refine access_mem _ _ _ _ _ _ _ _ _ _ _ fun a t => ?_
         | refine accessBy_mem _ _ _ _ _ _ _ _ _ _ fun a t => ?_
       try dsimp only [freshId]
       (repeat' split) <;> first | rfl | simp)

@[simp] theorem opSbindOff_mem (i : Instr) (k : Nat) (s : State) : (opSbindOff i k s).mem = s.mem := by
  unfold opSbindOff
  exact issue_mem _ _ _ fun t => by first | rfl | simp

end Sys2Proof.Machine
end

