-- ==== Sys2Proof/Laws/KeptByEvents.lean ====
section
/-! SUPPORT. What the operations do to memory, from the walker and the events to the fetch: most leave it as it is, and
those that write keep its canonical form. -/

namespace Sys2Proof.Machine

set_option linter.unusedTactic false
set_option linter.unreachableTactic false
set_option linter.unnecessarySeqFocus false
set_option linter.unusedSimpArgs false
set_option linter.unusedVariables false

open Sys2Proof

/-! ### Walk.lean -/

@[simp] theorem putWord_wf (key addr v : Nat) (s : State) (hw : Memory.wf s.mem = true) :
    Memory.wf (putWord key addr v s).mem = true := by
  unfold putWord
  (repeat' split) <;> simp_all

@[simp] theorem parkRecord_wf (p : Partition) (name depth path : Nat) (s : State) (hw : Memory.wf s.mem = true) :
    Memory.wf (parkRecord p name depth path s).mem = true := by
  unfold parkRecord
  dsimp only [freshId]
  (repeat' split) <;> simp_all

@[simp] theorem cacheRange_mem (fw : Bool) (tile a : Nat) (s : State) : (cacheRange fw tile a s).mem = s.mem := by
  unfold cacheRange
  dsimp only [freshId]
  (repeat' split) <;> first | rfl | simp

@[simp] theorem parkHart_wf (h : Hart) (line depth path : Nat) (s : State) (hw : Memory.wf s.mem = true) :
    Memory.wf (parkHart h line depth path s).mem = true := by
  unfold parkHart
  dsimp only
  have hs : Memory.wf ((match hartAt h.nm (modHart h.nm (fun h => { h with
      stat := .absent line, woken := false, epoch := h.epoch + 1 }) s) with
    | some h' => register line h' (modHart h.nm (fun h => { h with
        stat := .absent line, woken := false, epoch := h.epoch + 1 }) s)
    | none => modHart h.nm (fun h => { h with stat := .absent line, woken := false, epoch := h.epoch + 1 }) s).mem) = true := by
    split <;> simpa using hw
  split
  · exact parkRecord_wf _ _ _ _ _ hs
  · exact hs

@[simp] theorem markWalk_mem (l : List Hart) (words : List Nat) (s : State) : (markWalk l words s).mem = s.mem := by
  unfold markWalk
  refine foldl_mem _ _ _ fun s a => ?_
  (repeat' split) <;> first | rfl | simp

@[simp] theorem sealWalk_mem (key : Nat) (words : List Nat) (s : State) : (sealWalk key words s).mem = s.mem := by
  unfold sealWalk
  refine foldl_mem _ _ _ fun s a => ?_
  (repeat' split) <;> first | rfl | simp

@[simp] theorem walkDone_wf (n : Nat) (s : State) (hw : Memory.wf s.mem = true) :
    Memory.wf (walkDone n s).mem = true := by
  unfold walkDone
  dsimp only [freshId]
  (repeat' split) <;> simp_all

@[simp] theorem walkFor_wf (n : Nat) (s : State) (hw : Memory.wf s.mem = true) : Memory.wf (walkFor n s).mem = true := by
  unfold walkFor
  dsimp only
  (repeat' split) <;> first
    | exact hw
    | (rename_i h; exact repairFirst_wf h hw)
    | (rw [sealWalk_mem, markWalk_mem]
       exact foldl_wf _ _ _ (fun s h hs => walkDone_wf h.nm s hs) hw)

@[simp] theorem atcPut_mem (m : Mapping) (a : Nat) (r w : Bool) (s : State) : (atcPut m a r w s).mem = s.mem := rfl

@[simp] theorem atsHart_mem (n : Nat) (r w : Bool) (s : State) : (atsHart n r w s).mem = s.mem := by
  unfold atsHart
  (repeat' split) <;> first | rfl | simp

@[simp] theorem putAts_mem (tile : Nat) (eng : Bool) (x : Option (Nat × Nat)) (s : State) :
    (putAts tile eng x s).mem = s.mem := rfl

@[simp] theorem atsEngine_mem (tile : Nat) (eng : Bool) (r w : Bool) (s : State) :
    (atsEngine tile eng r w s).mem = s.mem := by
  unfold atsEngine
  (repeat' split) <;> first | rfl | simp

@[simp] theorem atsFor_mem (n : Nat) (r w : Bool) (s : State) : (atsFor n r w s).mem = s.mem := by
  unfold atsFor
  (repeat' split) <;> first | rfl | simp

@[simp] theorem priHart_mem (n : Nat) (ok : Bool) (s : State) : (priHart n ok s).mem = s.mem := by
  unfold priHart
  (repeat' split) <;> first | rfl | simp

@[simp] theorem priEngine_mem (tile : Nat) (eng ok : Bool) (s : State) : (priEngine tile eng ok s).mem = s.mem := by
  unfold priEngine
  (repeat' split) <;> first | rfl | simp

@[simp] theorem priFor_mem (n : Nat) (ok : Bool) (s : State) : (priFor n ok s).mem = s.mem := by
  unfold priFor
  (repeat' split) <;> first | rfl | simp

@[simp] theorem hostInvalidate_mem (pasid page pages : Nat) (s : State) : (hostInvalidate pasid page pages s).mem = s.mem :=
  rfl

/-! ### HartEvents.lean -/

@[simp] theorem stepTrap_mem (n : Nat) (s : State) : (stepTrap n s).mem = s.mem := by
  unfold stepTrap
  (repeat' split) <;> first | rfl | simp

@[simp] theorem wakeHart_mem (n : Nat) (s : State) : (wakeHart n s).mem = s.mem := by
  unfold wakeHart
  (repeat' split) <;> first | rfl | simp

@[simp] theorem limitHart_mem (n : Nat) (s : State) : (limitHart n s).mem = s.mem := by
  unfold limitHart
  (repeat' split) <;> first | rfl | simp

@[simp] theorem takeInterrupt_mem (n : Nat) (s : State) : (takeInterrupt n s).mem = s.mem := by
  unfold takeInterrupt
  (repeat' split) <;> first | rfl | simp

@[simp] theorem timerReached_mem (n : Nat) (s : State) : (timerReached n s).mem = s.mem := by
  unfold timerReached
  (repeat' split) <;> first | rfl | simp

@[simp] theorem hipiWrite_mem (n target kind : Nat) (s : State) : (hipiWrite n target kind s).mem = s.mem := by
  unfold hipiWrite
  dsimp only [freshId]
  (repeat' split) <;> first | rfl | simp

@[simp] theorem answerFrom_mem (tile src : Nat) (stamp : Option Seal) (s : State) :
    (answerFrom tile src stamp s).mem = s.mem := by
  unfold answerFrom
  (repeat' split) <;> first | rfl | simp

@[simp] theorem sealOn_mem (tile dst : Nat) (stamp : Option Seal) (s : State) :
    (sealOn tile dst stamp s).2.mem = s.mem := by
  unfold sealOn
  (repeat' split) <;> first | rfl | simp

@[simp] theorem ipiArrives_mem (i : Nat) (s : State) : (ipiArrives i s).mem = s.mem := by
  unfold ipiArrives
  dsimp only [freshId]
  (repeat' split) <;> first | rfl | simp

@[simp] theorem forwardReply_mem (p : Pend) (s : State) : (forwardReply p s).mem = s.mem := by
  unfold forwardReply
  (repeat' split) <;> first | rfl | simp

@[simp] theorem landReply_mem (i : Nat) (s : State) : (landReply i s).mem = s.mem := by
  unfold landReply
  (repeat' split) <;> first | rfl | simp

@[simp] theorem landQueued_mem (n : Nat) (s : State) : (landQueued n s).mem = s.mem := by
  unfold landQueued
  (repeat' split) <;> first | rfl | simp

@[simp] theorem messageDone_mem (m : Msg) (s : State) : (messageDone m s).mem = s.mem := by
  unfold messageDone
  (repeat' split) <;> first | rfl | simp

@[simp] theorem holdMessage_mem (m : Msg) (s : State) : (holdMessage m s).mem = s.mem := by
  unfold holdMessage
  (repeat' split) <;> first | rfl | simp

@[simp] theorem placeMessage_mem (i : Nat) (s : State) : (placeMessage i s).mem = s.mem := by
  unfold placeMessage
  dsimp only [freshId]
  (repeat' split) <;> first | rfl | simp

@[simp] theorem reinject_mem (i : Nat) (s : State) : (reinject i s).mem = s.mem := rfl

@[simp] theorem departTo_mem (h : Hart) (m : Nat) (s : State) : (departTo h m s).mem = s.mem := by
  unfold departTo
  dsimp only [freshId]
  (repeat' split) <;> first | rfl | simp

@[simp] theorem departHart_mem (n : Nat) (s : State) : (departHart n s).mem = s.mem := by
  unfold departHart
  (repeat' split) <;> first | rfl | simp

@[simp] theorem arriveHart_mem (n : Nat) (s : State) : (arriveHart n s).mem = s.mem := by
  unfold arriveHart
  (repeat' split) <;> first | rfl | simp

@[simp] theorem releaseSlot_mem (n : Nat) (s : State) : (releaseSlot n s).mem = s.mem := by
  unfold releaseSlot
  (repeat' split) <;> first | rfl | simp

@[simp] theorem acknowledge_mem (n : Nat) (s : State) : (acknowledge n s).mem = s.mem := by
  unfold acknowledge
  (repeat' split) <;> first | rfl | simp

@[simp] theorem performAt_wf (iface : Option Nat) (remote : Bool) (i : Nat) (s : State)
    (hw : Memory.wf s.mem = true) : Memory.wf (performAt iface remote i s).mem = true := by
  unfold performAt
  (repeat' split) <;> simp_all

@[simp] theorem performId_wf (remote : Bool) (i : Nat) (s : State) (hw : Memory.wf s.mem = true) :
    Memory.wf (performId remote i s).mem = true := by
  unfold performId
  (repeat' split) <;> simp_all

@[simp] theorem performWith_wf (i : Nat) (also : List Nat) (s : State) (hw : Memory.wf s.mem = true) :
    Memory.wf (performWith i also s).mem = true := by
  unfold performWith
  dsimp only [freshId]
  (repeat' split) <;> simp_all

@[simp] theorem releaseMerged_wf (l : List Nat) (s : State) (hw : Memory.wf s.mem = true) :
    Memory.wf (releaseMerged l s).mem = true := by
  unfold releaseMerged
  (repeat' split) <;> simp_all

/-! ### TaskEvents.lean -/

@[simp] theorem applyOne_wf (h : Hart) (r : Req) (o : MOp) (s : State) (hw : Memory.wf s.mem = true) :
    Memory.wf (applyOne h r o s).mem = true := by
  unfold applyOne
  (repeat' split) <;> simp_all

@[simp] theorem markCommitted_mem (h : Hart) (s : State) : (markCommitted h s).mem = s.mem := by
  unfold markCommitted
  exact foldl_mem _ _ _ fun s o => foldl_mem _ _ _ fun s l => by simp

@[simp] theorem applyBuf_wf (h : Hart) (s : State) (hw : Memory.wf s.mem = true) :
    Memory.wf (applyBuf h s).mem = true := by
  unfold applyBuf
  exact semSettle_wf _ _ (foldl_wf _ _ _ (fun s o hw => applyOne_wf h _ _ s hw) (by simpa using hw))

@[simp] theorem commitTxn_wf (n : Nat) (s : State) (hw : Memory.wf s.mem = true) :
    Memory.wf (commitTxn n s).mem = true := by
  unfold commitTxn
  (repeat' split) <;> simp_all

@[simp] theorem abortDue_mem (task : Bool) (n : Nat) (s : State) : (abortDue task n s).mem = s.mem := by
  unfold abortDue
  (repeat' split) <;> first | rfl | simp

@[simp] theorem arriveTask_mem (i : Nat) (s : State) : (arriveTask i s).mem = s.mem := by
  have h (e : TaskEnq) (t : State) (ht : t.mem = s.mem) : ((takeTask e t).getD s).mem = s.mem := by
    cases h : takeTask e t with
    | none => rfl
    | some u => exact (takeTask_mem e t u h).trans ht
  unfold arriveTask
  dsimp only
  (repeat' split) <;> first
    | rfl
    | exact h _ _ rfl
    | exact h _ _ (sealTo_mem _ _ _ _)

@[simp] theorem startTask_mem (tile : Nat) (s : State) : (startTask tile s).mem = s.mem := by
  unfold startTask
  dsimp only [freshId]
  (repeat' split) <;> first | rfl | simp

@[simp] theorem setFrontier_mem (n : Nat) (s : State) : (setFrontier n s).mem = s.mem := rfl

@[simp] theorem commitTask_wf (n : Nat) (s : State) (hw : Memory.wf s.mem = true) :
    Memory.wf (commitTask n s).mem = true := by
  unfold commitTask
  dsimp only [freshId]
  (repeat' split) <;> simp_all

@[simp] theorem startHandler_mem (cell : Nat) (s : State) : (startHandler cell s).mem = s.mem := by
  unfold startHandler
  dsimp only [freshId]
  (repeat' split) <;> first | rfl | simp

/-! ### Manager.lean -/

@[simp] theorem keepLines_wf (p : Nat → Bool) (s : State) (hw : Memory.wf s.mem = true) :
    Memory.wf (keepLines p s).mem = true := wf_filter hw _ _

@[simp] theorem stopTiles_mem (inT : Nat → Bool) (s : State) : (stopTiles inT s).mem = s.mem := rfl

@[simp] theorem wipeTiles_wf (inT : Nat → Bool) (s : State) (hw : Memory.wf s.mem = true) :
    Memory.wf (wipeTiles inT s).mem = true := by
  unfold wipeTiles
  (repeat' split) <;> simp_all

@[simp] theorem initSysPage_wf (p : Partition) (s : State) (hw : Memory.wf s.mem = true) :
    Memory.wf (initSysPage p s).mem = true := by
  unfold initSysPage
  refine foldl_wf _ _ _ (fun t i ht => ?_) (keepLines_wf _ _ hw)
  simp only [wakeLine_mem, foreignLine_mem]
  exact wf_setSide ht _ _

@[simp] theorem loadRanges_mem (p : Partition) (s : State) : (loadRanges p s).mem = s.mem := by
  unfold loadRanges
  refine foldl_mem _ _ _ fun s d => foldl_mem _ _ _ fun s i => ?_
  split <;> simp

@[simp] theorem startProgram_mem (p : Partition) (s : State) : (startProgram p s).mem = s.mem := by
  unfold startProgram
  (repeat' split) <;> first | rfl | simp

@[simp] theorem putState_wf (n st : Nat) (s : State) (hw : Memory.wf s.mem = true) :
    Memory.wf (putState n st s).mem = true := by
  unfold putState
  (repeat' split) <;> simp_all

@[simp] theorem pmOpenCmd_wf (cmd : Nat) (s : State) (hw : Memory.wf s.mem = true) :
    Memory.wf (pmOpenCmd cmd s).2.mem = true := by
  unfold pmOpenCmd
  extract_lets n p r t tr t'
  have ht : Memory.wf t.mem = true := wipeTiles_wf _ _ hw
  have ht' : Memory.wf t'.mem = true := ht
  clear_value t' p n
  split
  · exact hw
  · split
    · exact hw
    · simp [ht']

@[simp] theorem dropPending_wf (key : Nat) (s : State) (hw : Memory.wf s.mem = true) :
    Memory.wf (dropPending key s).mem = true := by
  unfold dropPending
  (repeat' split) <;> simp_all

@[simp] theorem closePart_wf (p : Partition) (s : State) (hw : Memory.wf s.mem = true) :
    Memory.wf (closePart p s).mem = true :=
  putState_wf _ _ _ (dropPending_wf p.n (wipeTiles (inPartition p) s) (wipeTiles_wf _ _ hw))

@[simp] theorem pmCloseCmd_wf (cmd : Nat) (s : State) (hw : Memory.wf s.mem = true) :
    Memory.wf (pmCloseCmd cmd s).2.mem = true := by
  unfold pmCloseCmd
  dsimp only [freshId]
  (repeat' split) <;> simp_all

@[simp] theorem pmFenceCmd_wf (on : Bool) (cmd : Nat) (s : State) (hw : Memory.wf s.mem = true) :
    Memory.wf (pmFenceCmd on cmd s).2.mem = true := by
  unfold pmFenceCmd
  dsimp only [freshId]
  (repeat' split) <;> simp_all

@[simp] theorem pmSpanOpenCmd_mem (cmd : Nat) (s : State) : (pmSpanOpenCmd cmd s).2.mem = s.mem := by
  unfold pmSpanOpenCmd
  dsimp only [freshId]
  (repeat' split) <;> first | rfl | simp

@[simp] theorem pmSpanCloseCmd_mem (cmd : Nat) (s : State) : (pmSpanCloseCmd cmd s).2.mem = s.mem := by
  unfold pmSpanCloseCmd
  dsimp only [freshId]
  (repeat' split) <;> first | rfl | simp

@[simp] theorem manage_wf (op : Nat) (f : Nat → State → Nat × State) (s : State)
    (hf : ∀ c t, Memory.wf t.mem = true → Memory.wf (f c t).2.mem = true) (hw : Memory.wf s.mem = true) :
    Memory.wf (manage op f s).mem = true := by
  unfold manage
  dsimp only
  split
  · exact pagePut_wf _ _ _ (hf _ _ (pageTake_wf _ _ hw))
  · exact hw

@[simp] theorem manageBad_wf (s : State) (hw : Memory.wf s.mem = true) : Memory.wf (manageBad s).mem = true := by
  unfold manageBad
  dsimp only [freshId]
  (repeat' split) <;> simp_all

@[simp] theorem copyTrace_wf (n : Nat) (s : State) (hw : Memory.wf s.mem = true) :
    Memory.wf (copyTrace n s).mem = true := by
  unfold copyTrace
  split
  · exact hw
  · extract_lets w v tile bank s1 t r s2 s3
    have h1 : Memory.wf s1.mem = true := unitStore_wf _ _ _ hw
    have h2 : Memory.wf s2.mem = true := by unfold s2; split <;> simp [h1]
    have h3 : Memory.wf s3.mem = true := foldl_wf _ _ _ (fun s i h => putWord_wf _ _ _ _ h) h2
    clear_value s1 s3
    split
    · exact hw
    · split
      · exact putWord_wf _ _ _ _ h1
      · exact putWord_wf _ _ _ _ h3

@[simp] theorem newLeader_mem (p : Partition) (s : State) : (newLeader p s).mem = s.mem := by
  unfold newLeader
  (repeat' split) <;> first | rfl | simp

@[simp] theorem newReplica_mem (p : Partition) (s : State) : (newReplica p s).mem = s.mem := rfl

@[simp] theorem loseDie_mem (d : Nat) (s : State) (p : Partition) : (loseDie d s p).mem = s.mem := by
  unfold loseDie
  (repeat' split) <;> first | rfl | simp

@[simp] theorem electLeader_mem (d : Nat) (s : State) : (electLeader d s).mem = s.mem := by
  unfold electLeader
  (repeat' split) <;> first | rfl | simp

/-! ### HostPort.lean -/

@[simp] theorem answer_mem (a : Answer) (s : State) : (answer a s).mem = s.mem := rfl

@[simp] theorem refuse_mem (s : State) : (refuse s).mem = s.mem := rfl

@[simp] theorem mboxStore_wf (p : Partition) (k v : Nat) (s : State) (hw : Memory.wf s.mem = true) :
    Memory.wf (mboxStore p k v s).mem = true := by
  unfold mboxStore
  (repeat' split) <;> simp_all

@[simp] theorem barWrite_wf (off v : Nat) (s : State) (hw : Memory.wf s.mem = true) :
    Memory.wf (barWrite off v s).mem = true := by
  unfold barWrite
  (repeat' split) <;> simp_all

@[simp] theorem barAnswer_mem (off : Nat) (s : State) : (barAnswer off s).mem = s.mem := by
  unfold barAnswer
  (repeat' split) <;> first | rfl | simp

@[simp] theorem barAccess_wf (off : Nat) (v : Option Word) (s : State) (hw : Memory.wf s.mem = true) :
    Memory.wf (barAccess off v s).mem = true := by
  have hb : Memory.wf (barAnswer off s).mem = true := (congrArg Memory.wf (barAnswer_mem off s)).trans hw
  have ha : Memory.wf (answer .unsupported s).mem = true := (congrArg Memory.wf (answer_mem _ s)).trans hw
  unfold barAccess
  generalize s.host.iface = i
  cases v with
  | none => cases i <;> assumption
  | some v => cases i <;> first | assumption | exact barWrite_wf off v.toNat s hw

@[simp] theorem dropHostReq_mem (s : State) (r : Req) : (dropHostReq s r).mem = s.mem := by
  unfold dropHostReq
  (repeat' split) <;> first | rfl | simp

@[simp] theorem freeEngines_mem (s : State) : (freeEngines s).mem = s.mem := rfl

@[simp] theorem setIface_mem (i : Iface) (s : State) : (setIface i s).mem = s.mem := by
  unfold setIface
  dsimp only [freshId]
  (repeat' split) <;> first | rfl | simp

@[simp] theorem ifaceError_mem (s : State) : (ifaceError s).mem = s.mem := by
  unfold ifaceError
  (repeat' split) <;> first | rfl | simp

@[simp] theorem ifaceStop_wf (s : State) (hw : Memory.wf s.mem = true) : Memory.wf (ifaceStop s).mem = true := by
  unfold ifaceStop
  (repeat' split) <;> simp_all

@[simp] theorem ifaceLock_mem (s : State) : (ifaceLock s).mem = s.mem := by
  unfold ifaceLock
  (repeat' split) <;> first | rfl | simp

@[simp] theorem ifaceStart_mem (nonce : BitVec 256) (s : State) : (ifaceStart nonce s).mem = s.mem := by
  unfold ifaceStart
  (repeat' split) <;> first | rfl | simp

@[simp] theorem ifaceQuiesce_mem (s : State) : (ifaceQuiesce s).mem = s.mem := by
  unfold ifaceQuiesce
  (repeat' split) <;> first | rfl | simp

@[simp] theorem ifaceDrained_mem (s : State) : (ifaceDrained s).mem = s.mem := by
  unfold ifaceDrained
  (repeat' split) <;> first | rfl | simp

@[simp] theorem ifaceResume_mem (s : State) : (ifaceResume s).mem = s.mem := by
  unfold ifaceResume
  (repeat' split) <;> first | rfl | simp

@[simp] theorem openSession_mem (s : State) : (openSession s).mem = s.mem := by
  unfold openSession
  (repeat' split) <;> first | rfl | simp

@[simp] theorem setIdeKeys_mem (s : State) : (setIdeKeys s).mem = s.mem := by
  unfold setIdeKeys
  (repeat' split) <;> first | rfl | simp

@[simp] theorem tamper_wf (key : Nat) (s : State) (hw : Memory.wf s.mem = true) :
    Memory.wf (tamper key s).mem = true := by
  unfold tamper
  (repeat' split) <;> simp_all

@[simp] theorem interfaceReport_mem (s : State) : (interfaceReport s).mem = s.mem := by
  unfold interfaceReport
  (repeat' split) <;> first | rfl | simp

@[simp] theorem measure_mem (sign : Bool) (s : State) : (measure sign s).mem = s.mem := by
  unfold measure
  (repeat' split) <;> first | rfl | simp

@[simp] theorem bootStatus_mem (s : State) : (bootStatus s).mem = s.mem := rfl

@[simp] theorem resetDevice_wf (s : State) : Memory.wf (resetDevice s).mem = true := rfl

@[simp] theorem lifeChange_wf (l : LifeCycle) (s : State) (hw : Memory.wf s.mem = true) :
    Memory.wf (lifeChange l s).mem = true := by
  unfold lifeChange
  (repeat' split) <;> simp_all

@[simp] theorem useToken_wf (ok : Bool) (dev : BitVec 256) (ctr : Nat) (src : LifeCycle) (dst : LifeCycle)
    (also : Bool) (f : Trust → Trust) (s : State) (hw : Memory.wf s.mem = true) : Memory.wf (useToken ok dev ctr src dst also f s).mem = true := by
  unfold useToken
  (repeat' split) <;> simp_all

@[simp] theorem closeAll_wf (s : State) (hw : Memory.wf s.mem = true) : Memory.wf (closeAll s).mem = true := by
  unfold closeAll
  (repeat' split) <;> simp_all

@[simp] theorem beginScrub_wf (s : State) (hw : Memory.wf s.mem = true) : Memory.wf (beginScrub s).mem = true := by
  unfold beginScrub
  (repeat' split) <;> simp_all

@[simp] theorem startScrub_wf (ok : Bool) (dev : BitVec 256) (ctr : Nat) (s : State)
    (hw : Memory.wf s.mem = true) : Memory.wf (startScrub ok dev ctr s).mem = true := by
  unfold startScrub
  (repeat' split) <;> simp_all

@[simp] theorem recover_wf (ok : Bool) (ctr : Nat) (s : State) (hw : Memory.wf s.mem = true) :
    Memory.wf (recover ok ctr s).mem = true := by
  unfold recover
  (repeat' split) <;> simp_all

@[simp] theorem wipeAll_wf (s : State) (hw : Memory.wf s.mem = true) : Memory.wf (wipeAll s).mem = true := by
  unfold wipeAll
  (repeat' split) <;> simp_all

@[simp] theorem recovered_wf (s : State) (hw : Memory.wf s.mem = true) : Memory.wf (recovered s).mem = true := by
  unfold recovered
  (repeat' split) <;> simp_all

@[simp] theorem endScrub_wf (clean : Bool) (s : State) (hw : Memory.wf s.mem = true) :
    Memory.wf (endScrub clean s).mem = true := by
  unfold endScrub
  (repeat' split) <;> simp_all

@[simp] theorem giveRecord_mem (s : State) : (giveRecord s).mem = s.mem := by
  unfold giveRecord
  (repeat' split) <;> first | rfl | simp

@[simp] theorem activate_mem (tenant : Bool) (s : State) : (activate tenant s).mem = s.mem := by
  unfold activate
  (repeat' split) <;> first | rfl | simp

@[simp] theorem commitImage_mem (s : State) : (commitImage s).mem = s.mem := by
  unfold commitImage
  (repeat' split) <;> first | rfl | simp

@[simp] theorem abandonImage_mem (s : State) : (abandonImage s).mem = s.mem := by
  unfold abandonImage
  (repeat' split) <;> first | rfl | simp

/-! ### Boot.lean -/

@[simp] theorem setBoot_mem (die step : Nat) (failed : Bool) (reason : Nat) (s : State) :
    (setBoot die step failed reason s).mem = s.mem := rfl

@[simp] theorem endBoot_mem (die step : Nat) (failed : Bool) (reason : Nat) (s : State) :
    (endBoot die step failed reason s).mem = s.mem := rfl

@[simp] theorem enterImage_wf (s : State) (hw : Memory.wf s.mem = true) : Memory.wf (enterImage s).mem = true := by
  unfold enterImage
  (repeat' split) <;> simp_all

@[simp] theorem romStep_wf (die n : Nat) (s : State) (hw : Memory.wf s.mem = true) :
    Memory.wf (romStep die n s).mem = true := by
  unfold romStep
  dsimp only [freshId]
  (repeat' split) <;> simp_all

@[simp] theorem stackTrained_wf (die stack failed : Nat) (s : State) (hw : Memory.wf s.mem = true) :
    Memory.wf (stackTrained die stack failed s).mem = true := by
  unfold stackTrained
  (repeat' split) <;> simp_all

@[simp] theorem trained_wf (die stack : Nat) (failed : Option Nat) (s : State) (hw : Memory.wf s.mem = true) :
    Memory.wf (trained die stack failed s).mem = true := by
  have go (f : Nat) : Memory.wf (failChannels 0 f (initPage (stackTrained 0 0 0 s))).mem = true :=
    failChannels_wf _ _ _ (initPage_wf _ (stackTrained_wf _ _ _ _ hw))
  unfold trained
  (repeat' split) <;> simp_all
  split <;> simp_all

@[simp] theorem startDie_mem (die : Nat) (s : State) : (startDie die s).mem = s.mem := by
  unfold startDie
  dsimp only [freshId]
  (repeat' split) <;> first | rfl | simp

@[simp] theorem activateRow_wf (bank row : Nat) (s : State) (hw : Memory.wf s.mem = true) :
    Memory.wf (activateRow bank row s).mem = true := by
  unfold activateRow
  dsimp only [freshId]
  (repeat' split) <;> simp_all

@[simp] theorem newWindow_mem (s : State) : (newWindow s).mem = s.mem := rfl

@[simp] theorem notePasses_wf (s : State) (hw : Memory.wf s.mem = true) : Memory.wf (notePasses s).mem = true := by
  unfold notePasses
  dsimp only [freshId]
  (repeat' split) <;> simp_all

@[simp] theorem markLate_wf (k : Nat) (s : State) (hw : Memory.wf s.mem = true) :
    Memory.wf (markLate k s).mem = true := by
  unfold markLate
  (repeat' split) <;> simp_all

@[simp] theorem scrubRead_wf (k l : Nat) (s : State) (hw : Memory.wf s.mem = true) :
    Memory.wf (scrubRead k l s).mem = true := by
  unfold scrubRead
  (repeat' split) <;> simp_all

@[simp] theorem scrubNext_wf (k : Nat) (s : State) (hw : Memory.wf s.mem = true) :
    Memory.wf (scrubNext k s).mem = true := by
  have go (l : Nat) (t : State) (h : Memory.wf t.mem = true) : Memory.wf (scrubRead k l t).mem = true :=
    scrubRead_wf _ _ _ h
  have hl : Memory.wf (markLate k s).mem = true := markLate_wf _ _ hw
  unfold scrubNext
  dsimp only
  repeat' split
  · exact hw
  · exact go _ _ hl
  · exact notePasses_wf _ (go _ _ hl)
  · exact go _ _ hw
  · exact notePasses_wf _ (go _ _ hw)

@[simp] theorem scrubLate_wf (k : Nat) (s : State) (hw : Memory.wf s.mem = true) :
    Memory.wf (scrubLate k s).mem = true := by
  unfold scrubLate
  (repeat' split) <;> simp_all

@[simp] theorem wipeUnits_mem (s : State) : (wipeUnits s).mem = s.mem :=
  foldl_mem _ _ _ fun _ _ => wakeLine_mem _ _

@[simp] theorem fullService_wf (s : State) (hw : Memory.wf s.mem = true) : Memory.wf (fullService s).mem = true := by
  unfold fullService
  dsimp only
  split
  · exact pagePut_wf _ _ _ (renewPage_wf _ _ (keepLines_wf _ _ (by rw [wipeUnits_mem]; exact hw)))
  · exact hw

/-! ### Matrix.lean -/

@[simp] theorem modMyTile_mem (f : Tile → Tile) (s : State) : (modMyTile f s).mem = s.mem := rfl

@[simp] theorem checked_mem (g : Gate) (wait : Option State) (c : Chk) (eff : State → State) (s : State)
    (hw : ∀ t, wait = some t → t.mem = s.mem) (he : ∀ t, (eff t).mem = t.mem) :
    (checked g wait c eff s).mem = s.mem := by
  unfold checked
  split
  · rename_i t h; exact gate_mem _ _ _ h
  · split
    · exact hw _ rfl
    · split
      · simp
      · rw [he, advance_mem]

@[simp] theorem opMclaim_mem (i : Instr) (f : Nat) (d : Byte) (s : State) : (opMclaim i f d s).mem = s.mem := by
  unfold opMclaim
  (repeat' split) <;> first | rfl | simp

@[simp] theorem freeSlotOf_mem (tile k : Nat) (s : State) : (freeSlotOf tile k s).mem = s.mem := rfl

@[simp] theorem opMrel_mem (i : Instr) (a : Byte) (s : State) : (opMrel i a s).mem = s.mem := by
  unfold opMrel
  refine checked_mem _ _ _ _ _ (fun t h => by cases h) fun t => ?_
  (repeat' split) <;> first | rfl | simp

@[simp] theorem parkOn_mem (a : Nat) (s : State) : (parkOn a s).mem = s.mem := rfl

@[simp] theorem addFill_mem (k : Nat) (op : FillOp) (x : Source) (cov : Cover) (h : Hart) (s : State) :
    (addFill k op x cov h s).mem = s.mem := rfl

theorem sourcePark_mem (h : Hart) (x : Source) (early : Chk) (cov : Cover) (s t : State)
    (ht : sourcePark h x early cov s = some t) : t.mem = s.mem := by
  unfold sourcePark at ht
  split at ht
  · simp only [Option.map_eq_some_iff] at ht
    obtain ⟨b, _, rfl⟩ := ht
    exact parkOn_mem b s
  · cases ht

@[simp] theorem opMfill_mem (i : Instr) (b a : Byte) (s : State) : (opMfill i b a s).mem = s.mem := by
  unfold opMfill
  exact checked_mem _ _ _ _ _ (fun t h => sourcePark_mem _ _ _ _ _ _ h) fun t => by simp

@[simp] theorem opMscale_mem (i : Instr) (b a : Byte) (s : State) : (opMscale i b a s).mem = s.mem := by
  unfold opMscale
  dsimp only
  split
  · exact checked_mem _ _ _ _ _ (fun t h => sourcePark_mem _ _ _ _ _ _ h) fun t => by simp
  · exact checked_mem _ _ _ _ _ (fun t h => by cases h) fun t => by simp

@[simp] theorem workDone_mem (i : Nat) (s : State) : (workDone i s).mem = s.mem := rfl

@[simp] theorem workError_mem (i val : Nat) (s : State) : (workError i val s).mem = s.mem := by
  unfold workError
  (repeat' split) <;> first | rfl | simp

@[simp] theorem endFill_wf (tile i : Nat) (s : State) (hw : Memory.wf s.mem = true) :
    Memory.wf (endFill tile i s).mem = true := by
  unfold endFill
  dsimp only
  (repeat' split) <;> first
    | exact hw
    | (rename_i h; exact repairFirst_wf h hw)
    | (try rw [freeSlotOf_mem]
       rw [signalAll_mem, workDone_mem, spreadHist_mem, markLines_mem, sealTrips_mem]
       first
         | exact hw
         | (rw [workError_mem]; exact countFailing_wf _ _ hw))

@[simp] theorem opMsemP_mem (i : Instr) (k : Nat) (s : State) : (opMsemP i k s).mem = s.mem := by
  unfold opMsemP
  try dsimp only [freshId]
  (repeat' split) <;> first
    | rfl
    | (simp; done)
    | (rename_i t h; exact gate_mem _ _ _ h)
    | (first
         | refine issue_mem _ _ _ fun t => ?_
         | refine access_mem _ _ _ _ _ _ _ _ _ _ _ fun a t => ?_
         | refine accessBy_mem _ _ _ _ _ _ _ _ _ _ fun a t => ?_
       try dsimp only [freshId]
       (repeat' split) <;> first | rfl | simp)

@[simp] theorem opMsemV_mem (i : Instr) (k : Nat) (s : State) : (opMsemV i k s).mem = s.mem := by
  unfold opMsemV
  exact issue_mem _ _ _ fun t => by first | rfl | simp

@[simp] theorem applySemV_wf (tile i : Nat) (s : State) (hw : Memory.wf s.mem = true) :
    Memory.wf (applySemV tile i s).mem = true := by
  unfold applySemV
  dsimp only [freshId]
  (repeat' split) <;> simp_all

@[simp] theorem queueJob_mem (j : MJob) (s : State) : (queueJob j s).mem = s.mem := rfl

theorem queueFull_mem (s t : State) (h : queueFull s = some t) : t.mem = s.mem := by
  unfold queueFull at h
  split at h
  · cases h
  · simp only [Option.some.injEq] at h
    rw [← h, waitOn_mem]

@[simp] theorem opMmac_mem (i : Instr) (bank : Nat) (a : Byte) (s : State) : (opMmac i bank a s).mem = s.mem := by
  unfold opMmac
  exact checked_mem _ _ _ _ _ (queueFull_mem s) fun t => by simp

@[simp] theorem opMmask_mem (i : Instr) (b a : Byte) (s : State) : (opMmask i b a s).mem = s.mem := by
  unfold opMmask
  refine checked_mem _ _ _ _ _ (fun t h => by cases h) fun t => ?_
  (repeat' split) <;> first | rfl | simp

@[simp] theorem opMaccClr_mem (i : Instr) (bank : Nat) (s : State) : (opMaccClr i bank s).mem = s.mem := by
  unfold opMaccClr
  exact checked_mem _ _ _ _ _ (queueFull_mem s) fun t => by simp

@[simp] theorem rdExpect_mem (l : List (Nat × Nat)) (s : State) : (rdExpect l s).2.mem = s.mem := by
  have aux (tags : List Nat) : ∀ (l : List (Nat × Nat)) (a : List (Nat × Nat) × State), (l.foldl (fun (acc, s) (v, u) =>
      let (p, s) := expectTagged (.vec v) (.line false 0) [none] tags false none [] s
      (acc ++ [(p, u)], s)) a).2.mem = a.2.mem := by
    intro l
    induction l with
    | nil => exact fun _ => rfl
    | cons x t ih =>
      intro a
      rw [List.foldl_cons, ih]
      have h := expectTagged_mem (.vec x.1) (.line false 0) [none] tags false none [] a.2
      cases he : expectTagged (.vec x.1) (.line false 0) [none] tags false none [] a.2
      simp only [he] at h ⊢
      exact h
  unfold rdExpect
  have h := drawTags_mem 1 s
  cases hd : drawTags 1 s with
  | mk tags u =>
    rw [hd] at h
    exact (aux tags l ([], u)).trans h

@[simp] theorem opMaccRd_mem (i : Instr) (b a : Byte) (v : Nat) (s : State) : (opMaccRd i b a v s).mem = s.mem := by
  unfold opMaccRd
  exact checked_mem _ _ _ _ _ (queueFull_mem s) fun t => by simp

@[simp] theorem retireJob_mem (tile : Nat) (j : MJob) (s : State) : (retireJob tile j s).mem = s.mem := rfl

@[simp] theorem endMmac_mem (tile : Nat) (s : State) : (endMmac tile s).mem = s.mem := by
  unfold endMmac
  dsimp only
  split
  · split
    · rfl
    · simp only [retireJob_mem, apply_ite State.mem, workError_mem, setTile_mem, ite_self]
  · rfl

@[simp] theorem runClr_mem (tile : Nat) (s : State) : (runClr tile s).mem = s.mem := by
  unfold runClr
  dsimp only [freshId]
  (repeat' split) <;> first | rfl | simp

@[simp] theorem deliverPart_mem (p v : Nat) (s : State) : (deliverPart p v s).mem = s.mem := rfl

@[simp] theorem runRd_mem (tile : Nat) (s : State) : (runRd tile s).mem = s.mem := by
  unfold runRd
  dsimp only
  split
  · rw [retireJob_mem, foldl_mem _ _ _ (fun s a => deliverPart_mem ..)]
    split
    · exact workError_mem ..
    · rfl
  · rfl

/-! ### Engines.lean -/

@[simp] theorem settleHeader_mem (c : Cap) (fw : Bool) (tile hdr : Nat) (blk : Nat × Nat) (s : State) :
    (settleHeader c fw tile hdr blk s).mem = s.mem := by
  unfold settleHeader
  dsimp only
  split <;> rfl

@[simp] theorem opChadv_mem (i : Instr) (a : Byte) (s : State) : (opChadv i a s).mem = s.mem := by
  unfold opChadv
  refine checked_mem _ _ _ _ _ (fun t ht => ?_) fun t => by simp
  split at ht
  · simp only [Option.map_eq_some_iff] at ht
    obtain ⟨b, _, rfl⟩ := ht
    exact parkOn_mem _ _
  · cases ht

@[simp] theorem opPublish_mem (i : Instr) (a : Byte) (s : State) : (opPublish i a s).mem = s.mem := by
  unfold opPublish
  exact checked_mem _ _ _ _ _ (fun t h => by cases h) fun t => by simp

@[simp] theorem hdrTrip_mem (tile : Nat) (ch : Chain) (hist : List Nat) (words : List Nat) (s : State) :
    (hdrTrip tile ch hist words s).mem = s.mem := by
  unfold hdrTrip
  (repeat' split) <;> first | rfl | simp

theorem hdrDelay_wf {tile : Nat} {ch : Chain} {hist words : List Nat} {s t : State}
    (h : hdrDelay tile ch hist words s = some t) (hw : Memory.wf s.mem = true) : Memory.wf t.mem = true := by
  unfold hdrDelay at h
  split at h
  · cases h; exact hw
  · exact repairFirst_wf h hw

@[simp] theorem endNow_wf (tile : Nat) (eng : Bool) (ch : Chain) (hist : List Nat) (cur : Nat) (next : Option Nat)
    (f : Option CmdFault) (s : State) (hw : Memory.wf s.mem = true) :
    Memory.wf (endNow tile eng ch hist cur next f s).mem = true := by
  unfold endNow
  cases f <;> simp [hw]

theorem endCommand_wf (tile : Nat) (eng : Bool) (ch : Chain) (hist : List Nat) (cur : Nat) (next : Option Nat)
    (f : Option CmdFault) (s0 s : State) (h0 : Memory.wf s0.mem = true) (hw : Memory.wf s.mem = true) :
    Memory.wf (endCommand tile eng ch hist cur next f s0 s).mem = true := by
  unfold endCommand
  split
  · rename_i h; exact hdrDelay_wf h h0
  · exact endNow_wf _ _ _ _ _ _ _ _ hw

@[simp] theorem engAsk_mem (tile : Nat) (eng : Bool) (a : Nat) (s : State) : (engAsk tile eng a s).mem = s.mem := rfl

@[simp] theorem engPark_wf (tile : Nat) (eng : Bool) (line depth path : Nat) (s : State)
    (hw : Memory.wf s.mem = true) : Memory.wf (engPark tile eng line depth path s).mem = true := by
  unfold engPark
  dsimp only [freshId]
  (repeat' split) <;> simp_all

@[simp] theorem sideCode_wf (key frame fmt u : Nat) (m : Option Mapping) (wanted : Bool) (s : State)
    (hw : Memory.wf s.mem = true) : Memory.wf (sideCode key frame fmt u m wanted s).2.mem = true := by
  unfold sideCode
  (repeat' split) <;> first
    | exact hw
    | exact countFailing_wf _ _ hw

@[simp] theorem sideTrip_mem (tile : Nat) (fw : Bool) (walk words : List Nat) (host : Bool) (hist : List Nat)
    (s : State) : (sideTrip tile fw walk words host hist s).mem = s.mem := by
  unfold sideTrip
  (repeat' split) <;> first | rfl | simp

@[simp] theorem hostCommand_mem (hdr cur : Nat) (fw : Bool) (hist : List Nat) (s : State) :
    (hostCommand hdr cur fw hist s).2.mem = s.mem := rfl

@[simp] theorem goOn_mem (tile : Nat) (eng : Bool) (r : CmdRun) (s : State) : (goOn tile eng r s).mem = s.mem := rfl

theorem readDelay_wf {hist words : List Nat} {s t : State} (h : readDelay hist words s = some t)
    (hw : Memory.wf s.mem = true) : Memory.wf t.mem = true := by
  unfold readDelay at h
  split at h
  · cases h; exact hw
  · exact repairFirst_wf h hw

@[simp] theorem readCommandLine_wf (tile : Nat) (eng : Bool) (ch : Chain) (fw : Bool) (cur frame fmt u : Nat)
    (m : Option Mapping) (depth path : Nat) (hist : List Nat) (s : State) (hw : Memory.wf s.mem = true) :
    Memory.wf (readCommandLine tile eng ch fw cur frame fmt u m depth path hist s).mem = true := by
  unfold readCommandLine
  dsimp only
  (repeat' split) <;> first
  | exact endCommand_wf _ _ _ _ _ _ _ _ _ hw hw
  | (rename_i h; exact readDelay_wf h hw)
  | (rw [goOn_mem]; simpa using hw)
  | exact endCommand_wf _ _ _ _ _ _ _ _ _ hw (countFailing_wf _ _ (by simpa using hw))

@[simp] theorem fetchCommand_wf (tile : Nat) (eng : Bool) (ch : Chain) (s : State) (hw : Memory.wf s.mem = true) :
    Memory.wf (fetchCommand tile eng ch s).mem = true := by
  unfold fetchCommand
  extract_lets cur fw off walk hist stop
  have hstop (c : Cause) (d p : Nat) (l : List Nat) (t : State) (ht : Memory.wf t.mem = true) :
      Memory.wf (stop c d p l t).mem = true := endCommand_wf _ _ _ _ _ _ _ _ _ hw ht
  clear_value cur fw off walk hist stop
  split
  · exact hstop _ _ _ _ _ hw
  · split
    · rename_i h; exact readDelay_wf h hw
    · rename_i t _ _ _
      have ht : Memory.wf t.mem = true := by simpa [t] using hw
      clear_value t
      split
      · exact hstop _ _ _ _ _ ht
      · exact hstop _ _ _ _ _ (countFailing_wf _ _ ht)
      · exact hw
      · rw [engAsk_mem]; exact ht
      · exact engPark_wf _ _ _ _ _ _ ht
      · exact readCommandLine_wf _ _ _ _ _ _ _ _ _ _ _ _ _ ht

@[simp] theorem retranslate_wf (tile : Nat) (eng : Bool) (ch : Chain) (s : State) (hw : Memory.wf s.mem = true) :
    Memory.wf (retranslate tile eng ch s).mem = true := by
  unfold retranslate
  dsimp only
  (repeat' split) <;> first
  | exact hw
  | (rename_i h; exact readDelay_wf h hw)
  | (rw [setEngine_mem]; simpa using hw)

@[simp] theorem endChain_wf (tile : Nat) (eng : Bool) (ch : Chain) (s : State) (hw : Memory.wf s.mem = true) :
    Memory.wf (endChain tile eng ch s).mem = true := by
  unfold endChain
  dsimp only
  split
  · rename_i h; exact hdrDelay_wf h hw
  · rw [setEngine_mem]; exact hdrWrite_wf _ _ _ _ (by simpa using hw)

@[simp] theorem chainTurn_wf (tile : Nat) (eng : Bool) (ch : Chain) (s : State) (hw : Memory.wf s.mem = true) :
    Memory.wf (chainTurn tile eng ch s).mem = true := by
  unfold chainTurn
  dsimp only
  (repeat' split) <;> first
  | (rename_i h; exact repairFirst_wf h hw)
  | exact fetchCommand_wf _ _ _ _ hw
  | exact endChain_wf _ _ _ _ hw

@[simp] theorem commandFetch_wf (tile : Nat) (eng : Bool) (s : State) (hw : Memory.wf s.mem = true) :
    Memory.wf (commandFetch tile eng s).mem = true := by
  unfold commandFetch
  dsimp only
  (repeat' split) <;> first
    | exact hw
    | exact retranslate_wf _ _ _ _ hw
    | exact chainTurn_wf _ _ _ _ (by rw [setEngine_mem]; exact hw)

@[simp] theorem writePending_wf (tile : Nat) (ops : List MOp) (shoff : Option Nat) (key : Nat) (hist : List Nat) (s : State)
    (hw : Memory.wf s.mem = true) : Memory.wf (writePending tile ops shoff key hist s).mem = true :=
  foldl_wf _ _ _ (fun _ _ h => addPending_wf _ _ _ _ _ h) (by simpa using hw)

@[simp] theorem srcError_mem (ch : Chain) (w : Nat) (s : State) : (srcError ch w s).mem = s.mem := rfl

@[simp] theorem walkError_wf (ch : Chain) (l : Nat) (s : State) (hw : Memory.wf s.mem = true) :
    Memory.wf (walkError ch l s).mem = true := by
  unfold walkError
  (repeat' split) <;> simp_all

/-- What a unit came to leaves memory in its canonical form. -/
def UnitOut.memOk (o : UnitOut) : Prop :=
  match o with
  | .fault _ _ s => Memory.wf s.mem = true
  | .wait s => Memory.wf s.mem = true
  | .done _ s => Memory.wf s.mem = true

/-- The same for a source that has been read. -/
def sourceMemOk (x : Except UnitOut (Option SrcUnit × CmdRun × State)) : Prop :=
  match x with
  | .error o => o.memOk
  | .ok (_, _, t) => Memory.wf t.mem = true

theorem readUnit_wf (tile : Nat) (ch : Chain) (r : CmdRun) (z frame fmt u : Nat) (m : Option Mapping)
    (depth path : Nat) (wanted : Nat → Bool) (s0 s : State) (h0 : Memory.wf s0.mem = true) (hw : Memory.wf s.mem = true) :
    sourceMemOk (readUnit tile ch r z frame fmt u m depth path wanted s0 s) := by
  have hc (key : Nat) (t : State) (ht : Memory.wf t.mem = true) (x : Except Nat (Nat × Option Nat)) (v : State)
      (h : sideCode key frame fmt u m (wanted fmt) t = (x, v)) : Memory.wf v.mem = true := by
    have := sideCode_wf key frame fmt u m (wanted fmt) t ht
    rwa [h] at this
  unfold readUnit
  dsimp only
  split
  · exact hw
  · split
    · rename_i h; exact readDelay_wf h h0
    · split
      · rename_i h
        show Memory.wf (srcError ch _ _).mem = true
        rw [srcError_mem]
        exact hc _ _ (by simpa using hw) _ _ h
      · rename_i h; exact hc _ _ (by simpa using hw) _ _ h

theorem sourceMemOk_fault (f : CmdFault) (l : List Nat) (s : State) (hw : Memory.wf s.mem = true) :
    sourceMemOk (.error (.fault f l s)) := hw

theorem sourceAt_wf (tile : Nat) (eng : Bool) (ch : Chain) (r : CmdRun) (z : Nat) (wanted : Nat → Bool) (s0 t : State)
    (at' : SideAt) (h0 : Memory.wf s0.mem = true) (ht : Memory.wf t.mem = true) :
    sourceMemOk (sourceAt tile eng ch r z wanted s0 t at') := by
  cases at' with
  | fault e d p => exact ht
  | unread l => exact walkError_wf _ _ _ ht
  | delayed => exact h0
  | asks a => exact Eq.trans (congrArg Memory.wf (engAsk_mem _ _ _ _)) ht
  | absent l d p => exact engPark_wf _ _ _ _ _ _ ht
  | ok frame fmt u m d p => exact readUnit_wf _ _ _ _ _ _ _ _ _ _ _ _ _ h0 ht

theorem walkSource_wf (tile : Nat) (eng : Bool) (ch : Chain) (r : CmdRun) (z off : Nat) (wanted : Nat → Bool) (s : State)
    (hw : Memory.wf s.mem = true) : sourceMemOk (walkSource tile eng ch r z off wanted s) := by
  unfold walkSource
  dsimp only
  split
  · rename_i h; exact readDelay_wf h hw
  · exact sourceAt_wf _ _ _ _ _ _ _ _ _ hw (by simpa using hw)

theorem readSource_wf (tile : Nat) (eng : Bool) (ch : Chain) (r : CmdRun) (z off : Nat) (wanted : Nat → Bool) (s : State)
    (hw : Memory.wf s.mem = true) : sourceMemOk (readSource tile eng ch r z off wanted s) := by
  unfold readSource
  extract_lets c
  split
  · exact sourceMemOk_fault _ _ _ hw
  · split
    · exact hw
    · exact walkSource_wf _ _ _ _ _ _ _ _ hw

@[simp] theorem deliver_mem (h : Hart) (k width code : Nat) (s : State) : (deliver h k width code s).mem = s.mem := rfl

theorem copyStream_wf (tile : Nat) (r : CmdRun) (z : Nat) (src : Option SrcUnit) (s0 s : State)
    (h0 : Memory.wf s0.mem = true) (hw : Memory.wf s.mem = true) : (copyStream tile r z src s0 s).memOk := by
  unfold copyStream
  split
  · exact h0
  · split
    · exact h0
    · extract_lets df c code
      split
      · exact hw
      · exact Eq.trans (congrArg Memory.wf (deliver_mem ..)) hw

theorem copyPend_wf (tile key : Nat) (r : CmdRun) (z a frame df u depth path : Nat) (m : Option Mapping)
    (strip : Option MOp) (s : State) (code : Option Nat) (hw : Memory.wf s.mem = true) :
    (copyPend tile key r z a frame df u depth path m strip s code).memOk := by
  unfold copyPend
  split
  · exact hw
  · extract_lets ops
    split
    · exact hw
    · exact writePending_wf _ _ _ _ _ _ hw

theorem copyHere_wf (tile : Nat) (ch : Chain) (r : CmdRun) (z a frame df u d p : Nat) (m : Option Mapping)
    (src : Option SrcUnit) (s0 s : State) (h0 : Memory.wf s0.mem = true) (hw : Memory.wf s.mem = true) :
    (copyHere tile ch r z a frame df u d p m src s0 s).memOk := by
  unfold copyHere
  dsimp only
  split
  · exact hw
  · split
    · rename_i h; exact readDelay_wf h h0
    · split
      · exact copyPend_wf _ _ _ _ _ _ _ _ _ _ _ _ _ _
          (by rw [srcError_mem]; exact countFailing_wf _ _ (by simpa using hw))
      · exact copyPend_wf _ _ _ _ _ _ _ _ _ _ _ _ _ _ (by simpa using hw)

theorem copyPlace_wf (tile : Nat) (ch : Chain) (r : CmdRun) (z a off : Nat) (src : Option SrcUnit)
    (s0 s : State) (at' : SideAt) (h0 : Memory.wf s0.mem = true) (hw : Memory.wf s.mem = true) :
    (copyPlace tile ch r z a off src s0 s at').memOk := by
  unfold copyPlace
  dsimp only
  split
  · rename_i h; exact readDelay_wf h h0
  · split
    · simpa [UnitOut.memOk] using hw
    · exact walkError_wf _ _ _ (by simpa using hw)
    · exact h0
    · exact h0
    · exact engPark_wf _ _ _ _ _ _ h0
    · exact copyHere_wf _ _ _ _ _ _ _ _ _ _ _ _ _ _ h0 (by simpa using hw)

theorem copyWrite_wf (tile : Nat) (ch : Chain) (r : CmdRun) (z : Nat) (src : Option SrcUnit) (s0 s : State)
    (h0 : Memory.wf s0.mem = true) (hw : Memory.wf s.mem = true) : (copyWrite tile ch r z src s0 s).memOk := by
  unfold copyWrite
  dsimp only
  split
  · exact hw
  · split
    · exact hw
    · exact copyPlace_wf _ _ _ _ _ _ _ _ _ _ h0 hw

theorem copyPut_wf (tile : Nat) (ch : Chain) (r : CmdRun) (s : State)
    (x : Except UnitOut (Option SrcUnit × CmdRun × State)) (hw : Memory.wf s.mem = true) (h : sourceMemOk x) :
    (copyPut tile ch r s x).memOk := by
  unfold copyPut
  match x, h with
  | .error o, h => exact h
  | .ok (src, r', s'), h =>
    dsimp only
    split
    · exact copyStream_wf _ _ _ _ _ _ hw h
    · exact copyWrite_wf _ _ _ _ _ _ _ hw h

theorem copyUnit_wf (tile : Nat) (ch : Chain) (r : CmdRun) (s : State) (hw : Memory.wf s.mem = true) :
    (copyUnit tile ch r s).memOk :=
  copyPut_wf tile ch r s _ hw (readSource_wf tile false ch r r.z (cmdSoff r + r.z) _ s hw)

theorem copyNext_wf (tile : Nat) (ch : Chain) (r : CmdRun) (s : State) (o : UnitOut) (hw : Memory.wf s.mem = true)
    (h : o.memOk) : Memory.wf (copyNext tile ch r s o).mem = true := by
  unfold copyNext
  match o, h with
  | .fault f _ t, h => exact endCommand_wf _ _ _ _ _ _ _ _ _ hw h
  | .wait s, h => exact h
  | .done r t, h =>
    dsimp only
    generalize 4 ^ cmdLogs r = n
    split
    · exact endCommand_wf _ _ _ _ _ _ _ _ _ hw h
    · rw [goOn_mem]; exact h

theorem engineStep_wf (tile : Nat) (eng : Bool) (f : Chain → CmdRun → State → State) (s : State)
    (hw : Memory.wf s.mem = true) (hf : ∀ ch r, Memory.wf (f ch r s).mem = true) :
    Memory.wf (engineStep tile eng f s).mem = true := by
  unfold engineStep
  dsimp only
  repeat' split
  · exact hw
  · exact hw
  · exact hw
  · exact retranslate_wf _ _ _ _ hw
  · exact hf _ _

@[simp] theorem copyStep_wf (tile : Nat) (s : State) (hw : Memory.wf s.mem = true) :
    Memory.wf (copyStep tile s).mem = true := by
  refine engineStep_wf _ _ _ _ hw fun ch r => ?_
  split
  · exact endCommand_wf _ _ _ _ _ _ _ _ _ hw hw
  · exact copyNext_wf _ _ _ _ _ hw (copyUnit_wf tile ch r s hw)

/-- The same for a place that has been looked for. -/
def placeMemOk (x : Except UnitOut (Option (Nat × Nat × Mapping) × CmdRun × State)) : Prop :=
  match x with
  | .error o => o.memOk
  | .ok (_, _, t) => Memory.wf t.mem = true

theorem quantPlace_wf (r : CmdRun) (z a frame df u : Nat) (m : Option Mapping) (depth path : Nat) (src : Option SrcUnit)
    (s : State) (hw : Memory.wf s.mem = true) : placeMemOk (quantPlace r z a frame df u m depth path src s) := by
  unfold quantPlace
  dsimp only
  (repeat' split) <;> exact hw

theorem placeMemOk_fault (f : CmdFault) (l : List Nat) (s : State) (hw : Memory.wf s.mem = true) :
    placeMemOk (.error (.fault f l s)) := hw

theorem quantAt_wf (tile : Nat) (ch : Chain) (r : CmdRun) (z a : Nat) (src : Option SrcUnit) (s0 t : State) (at' : SideAt)
    (h0 : Memory.wf s0.mem = true) (ht : Memory.wf t.mem = true) : placeMemOk (quantAt tile ch r z a src s0 t at') := by
  cases at' with
  | fault e d p => exact ht
  | unread l => exact walkError_wf _ _ _ ht
  | delayed => exact h0
  | asks a => exact h0
  | absent l d p => exact engPark_wf _ _ _ _ _ _ h0
  | ok frame df u m d p => exact quantPlace_wf _ _ _ _ _ _ _ _ _ _ _ ht

theorem walkDest_wf (tile : Nat) (ch : Chain) (r : CmdRun) (z a off : Nat) (src : Option SrcUnit) (s0 s : State)
    (h0 : Memory.wf s0.mem = true) (hw : Memory.wf s.mem = true) : placeMemOk (walkDest tile ch r z a off src s0 s) := by
  unfold walkDest
  dsimp only
  split
  · rename_i h; exact readDelay_wf h h0
  · exact quantAt_wf _ _ _ _ _ _ _ _ _ h0 (by simpa using hw)

theorem quantDest_wf (tile : Nat) (ch : Chain) (r : CmdRun) (z : Nat) (src : Option SrcUnit) (s0 s : State)
    (h0 : Memory.wf s0.mem = true) (hw : Memory.wf s.mem = true) : placeMemOk (quantDest tile ch r z src s0 s) := by
  unfold quantDest
  extract_lets c off a
  clear_value a
  split
  · exact placeMemOk_fault _ _ _ hw
  · split
    · exact hw
    · exact walkDest_wf _ _ _ _ _ _ _ _ _ h0 hw

theorem quantJoin_wf (src : Option SrcUnit) (x : Except UnitOut (Option (Nat × Nat × Mapping) × CmdRun × State))
    (h : placeMemOk x) : (quantJoin src x).memOk := by
  match x, h with
  | .error o, h => exact h
  | .ok (_, _, _), h => exact h

theorem quantPut_wf (tile : Nat) (ch : Chain) (z : Nat) (s0 : State)
    (x : Except UnitOut (Option SrcUnit × CmdRun × State)) (hw : Memory.wf s0.mem = true) (h : sourceMemOk x) :
    (quantPut tile ch z s0 x).memOk := by
  match x, h with
  | .error o, h => exact h
  | .ok (src, r, s), h => exact quantJoin_wf _ _ (quantDest_wf tile ch r z src s0 s hw h)

theorem quantUnit_wf (tile : Nat) (ch : Chain) (r : CmdRun) (s : State) (hw : Memory.wf s.mem = true) :
    (quantUnit tile ch r s).memOk :=
  quantPut_wf tile ch r.z s _ hw (readSource_wf tile true ch r r.z (cmdSoff r + r.z) _ s hw)

@[simp] theorem quantWrite_wf (tile key : Nat) (r : CmdRun) (fmt base : Nat) (s : State) (q : QElem)
    (hw : Memory.wf s.mem = true) : Memory.wf (quantWrite tile key r fmt base s q).mem = true := by
  unfold quantWrite
  split
  · exact hw
  · exact writePending_wf _ _ _ _ _ _ hw

@[simp] theorem quantSquare_wf (tile key : Nat) (r : CmdRun) (s : State) (hw : Memory.wf s.mem = true) :
    Memory.wf (quantSquare tile key r s).2.mem = true := by
  show Memory.wf (signalAll _ _).mem = true
  rw [signalAll_mem]
  exact foldl_wf _ _ _ (fun _ _ h => quantWrite_wf _ _ _ _ _ _ _ h) hw

@[simp] theorem quantReport_wf (tile : Nat) (ch : Chain) (r : CmdRun) (hist : List Nat) (s : State)
    (hw : Memory.wf s.mem = true) : Memory.wf (quantReport tile ch r hist s).mem = true := by
  unfold quantReport
  extract_lets q at_ count u t b old
  have hu : Memory.wf u.mem = true := by simpa [u] using hw
  have ht : Memory.wf t.mem = true := by
    unfold t
    split
    · exact foldl_wf _ _ _ (fun s b h => storeHome_wf _ _ _ h) hu
    · exact hu
  clear_value t
  split
  · exact storeHome_wf _ _ _ ht
  · exact ht

theorem reportDelay_wf {tile : Nat} {ch : Chain} {r : CmdRun} {hist : List Nat} {s t : State}
    (h : reportDelay tile ch r hist s = some t) (hw : Memory.wf s.mem = true) : Memory.wf t.mem = true := by
  unfold reportDelay at h
  split at h
  · cases h; exact hw
  · split at h
    · rename_i h'; cases h; exact readDelay_wf h' hw
    · exact hdrDelay_wf h hw

theorem quantEnd_wf (tile : Nat) (ch : Chain) (r : CmdRun) (s0 s : State) (h0 : Memory.wf s0.mem = true)
    (hw : Memory.wf s.mem = true) : Memory.wf (quantEnd tile ch r s0 s).mem = true := by
  unfold quantEnd
  dsimp only
  split
  · rename_i h; exact reportDelay_wf h h0
  · exact endCommand_wf _ _ _ _ _ _ _ _ _ h0 (quantReport_wf _ _ _ _ _ hw)

theorem quantNext_wf (tile : Nat) (ch : Chain) (r : CmdRun) (s : State) (o : UnitOut) (hw : Memory.wf s.mem = true)
    (h : o.memOk) : Memory.wf (quantNext tile ch r s o).mem = true := by
  unfold quantNext
  match o, h with
  | .wait s, h => exact h
  | .fault f _ t, h => exact endCommand_wf _ _ _ _ _ _ _ _ _ hw (quantSquare_wf _ _ _ _ h)
  | .done r t, h =>
    dsimp only
    generalize 4 ^ cmdLogs r = n
    have hq := quantSquare_wf tile (tileKey tile r.fw t) r t h
    (repeat' split) <;> first
    | (rw [goOn_mem]; exact h)
    | (rw [goOn_mem]; exact hq)
    | exact quantEnd_wf _ _ _ _ _ hw hq

@[simp] theorem quantStep_wf (tile : Nat) (s : State) (hw : Memory.wf s.mem = true) :
    Memory.wf (quantStep tile s).mem = true := by
  refine engineStep_wf _ _ _ _ hw fun ch r => ?_
  split
  · exact endCommand_wf _ _ _ _ _ _ _ _ _ hw hw
  · exact quantNext_wf _ _ _ _ _ hw (quantUnit_wf tile ch r s hw)

/-! ### System.lean -/

@[simp] theorem opTrap_mem (i : Instr) (cls detail tval : Nat) (s : State) :
    (opTrap i cls detail tval s).mem = s.mem := by
  unfold opTrap
  exact issue_mem _ _ _ fun t => by first | rfl | simp

@[simp] theorem opTret_mem (i : Instr) (s : State) : (opTret i s).mem = s.mem := by
  unfold opTret
  exact issue_mem _ _ _ fun t => by first | rfl | simp

@[simp] theorem opFence_mem (i : Instr) (k : FenceScope) (s : State) : (opFence i k s).mem = s.mem := by
  unfold opFence
  try dsimp only [freshId]
  (repeat' split) <;> first
    | rfl
    | (simp; done)
    | (rename_i t h; exact gate_mem _ _ _ h)
    | (first
         | refine issue_mem _ _ _ fun t => ?_
         | refine access_mem _ _ _ _ _ _ _ _ _ _ _ fun a t => ?_
         | refine accessBy_mem _ _ _ _ _ _ _ _ _ _ fun a t => ?_
       try dsimp only [freshId]
       (repeat' split) <;> first | rfl | simp)

@[simp] theorem dropBlock_mem (scope d p : Nat) (s : State) : (dropBlock scope d p s).mem = s.mem := rfl

@[simp] theorem opRinv_mem (i : Instr) (b a : Byte) (s : State) : (opRinv i b a s).mem = s.mem := by
  unfold opRinv
  try dsimp only [freshId]
  (repeat' split) <;> first
    | rfl
    | (simp; done)
    | (rename_i t h; exact gate_mem _ _ _ h)
    | (first
         | refine issue_mem _ _ _ fun t => ?_
         | refine access_mem _ _ _ _ _ _ _ _ _ _ _ fun a t => ?_
         | refine accessBy_mem _ _ _ _ _ _ _ _ _ _ fun a t => ?_
       try dsimp only [freshId]
       (repeat' split) <;> first | rfl | simp)

/-! ### Vector.lean -/

@[simp] theorem opV_mem (i : Instr) (needs : List Need) (d : Byte) (v : Nat) (s : State) :
    (opV i needs d v s).mem = s.mem := by
  unfold opV
  exact issue_mem _ _ _ fun t => by first | rfl | simp

@[simp] theorem opV2_mem (i : Instr) (e : Nat) (f : Nat → Nat → Nat) (b a d : Byte) (s : State) :
    (opV2 i e f b a d s).mem = s.mem := by
  unfold opV2
  (repeat' split) <;> first | rfl | simp

@[simp] theorem opV1_mem (i : Instr) (e : Nat) (f : Nat → Nat) (a d : Byte) (s : State) :
    (opV1 i e f a d s).mem = s.mem := by
  unfold opV1
  (repeat' split) <;> first | rfl | simp

@[simp] theorem opVArith_mem (i : Instr) (k : VOp) (b a d : Byte) (s : State) : (opVArith i k b a d s).mem = s.mem := by
  unfold opVArith
  (repeat' split) <;> first | rfl | simp

@[simp] theorem opVsel_mem (i : Instr) (b a d : Byte) (s : State) : (opVsel i b a d s).mem = s.mem := by
  unfold opVsel
  (repeat' split) <;> first | rfl | simp

@[simp] theorem opVcvt_mem (i : Instr) (rm rs : Nat) (a d : Byte) (s : State) : (opVcvt i rm rs a d s).mem = s.mem := by
  unfold opVcvt
  (repeat' split) <;> first | rfl | simp

@[simp] theorem opVred_mem (i : Instr) (k : Nat) (a d : Byte) (s : State) : (opVred i k a d s).mem = s.mem := by
  unfold opVred
  (repeat' split) <;> first | rfl | simp

@[simp] theorem opVbcast_mem (i : Instr) (x d : Byte) (s : State) : (opVbcast i x d s).mem = s.mem := by
  unfold opVbcast
  (repeat' split) <;> first | rfl | simp

@[simp] theorem opVperm_mem (i : Instr) (b a d : Byte) (s : State) : (opVperm i b a d s).mem = s.mem := by
  unfold opVperm
  (repeat' split) <;> first | rfl | simp

@[simp] theorem opVcomp_mem (i : Instr) (b a d : Byte) (s : State) : (opVcomp i b a d s).mem = s.mem := by
  unfold opVcomp
  (repeat' split) <;> first | rfl | simp

@[simp] theorem opVexp_mem (i : Instr) (b a d : Byte) (s : State) : (opVexp i b a d s).mem = s.mem := by
  unfold opVexp
  (repeat' split) <;> first | rfl | simp

@[simp] theorem opVdot_mem (i : Instr) (b a d : Byte) (s : State) : (opVdot i b a d s).mem = s.mem := by
  unfold opVdot
  (repeat' split) <;> first | rfl | simp

@[simp] theorem opVisect_mem (i : Instr) (b a d : Byte) (s : State) : (opVisect i b a d s).mem = s.mem := by
  unfold opVisect
  exact issue_mem _ _ _ fun t => by first | rfl | simp

@[simp] theorem opVld_wf (i : Instr) (o d : Byte) (c : Nat) (s : State) (hw : Memory.wf s.mem = true) :
    Memory.wf (opVld i o d c s).mem = true := by
  unfold opVld
  dsimp only [freshId]
  (repeat' split) <;> simp_all

@[simp] theorem opVst_wf (i : Instr) (o x : Byte) (c : Nat) (s : State) (hw : Memory.wf s.mem = true) :
    Memory.wf (opVst i o x c s).mem = true := by
  unfold opVst
  dsimp only [freshId]
  (repeat' split) <;> simp_all

@[simp] theorem countLanes_wf (h : Hart) (e : Nat) (l : List (Option Acc)) (s : State)
    (hw : Memory.wf s.mem = true) : Memory.wf (countLanes h e l s).mem = true := by
  unfold countLanes
  (repeat' split) <;> simp_all

@[simp] theorem accessLanes_wf (c : Cap) (perm : Nat) (write : Bool) (e : Nat) (idx : List (Option Nat)) (base : Gate)
    (g : List (Option Acc) → Gate) (eff : List (Option Acc) → State → State) (s : State)
    (hf : ∀ l t, Memory.wf t.mem = true → Memory.wf (eff l t).mem = true) (hw : Memory.wf s.mem = true) :
    Memory.wf (accessLanes c perm write e idx base g eff s).mem = true := by
  unfold accessLanes
  (repeat' split) <;> first
    | (rename_i t h; rw [gate_mem _ _ _ h]; exact hw)
    | (simp [hw]; done)
    | (refine issue_wf _ _ _ (hf _) (foldl_wf _ _ _ (fun s o h => ?_) hw)
       split <;> simp [h])

@[simp] theorem opVgat_wf (i : Instr) (x d : Byte) (c : Nat) (s : State) (hw : Memory.wf s.mem = true) :
    Memory.wf (opVgat i x d c s).mem = true := by
  unfold opVgat
  refine accessLanes_wf _ _ _ _ _ _ _ _ _ (fun l t hw => ?_) hw
  dsimp only
  split <;> simp [hw]

@[simp] theorem opVsct_wf (i : Instr) (x d : Byte) (c : Nat) (s : State) (hw : Memory.wf s.mem = true) :
    Memory.wf (opVsct i x d c s).mem = true := by
  unfold opVsct
  exact accessLanes_wf _ _ _ _ _ _ _ _ _ (fun l t hw => by simp [hw]) hw

/-! ### Fetch.lean -/

@[simp] theorem fetchTouch_mem (s : State) : (fetchTouch s).mem = s.mem := by
  unfold fetchTouch
  (repeat' split) <;> first | rfl | simp

@[simp] theorem turnTo_mem (n : Nat) (s : State) : (turnTo n s).mem = s.mem := by
  unfold turnTo
  (repeat' split) <;> first | rfl | simp

@[simp] theorem portOrder_mem (a b : Nat) (s t u : State) : (portOrder a b s t u).mem = u.mem := rfl

@[simp] theorem nextChoice_mem (s : State) : (nextChoice s).2.mem = s.mem := by
  unfold nextChoice
  (repeat' split) <;> first | rfl | simp

@[simp] theorem placeWord_wf (s : State) (nbits w : Nat) (hw : Memory.wf s.mem = true) :
    Memory.wf (placeWord s nbits w).mem = true := by
  unfold placeWord
  refine wf_storeBytes ?_ _ _
  have fold : ∀ (l : List Nat) (m : Mem), Memory.wf m = true →
      Memory.wf (l.foldl (fun m i => setSide m (fetchBase / 64 + i) SideBand.init) m) = true := by
    intro l
    induction l with
    | nil => exact fun _ h => h
    | cons i t ih => exact fun m h => ih _ (wf_setSide h _ _)
  exact fold _ _ hw

end Sys2Proof.Machine
end

