-- ==== Sys2Proof/Laws/PerInstr.lean ====
section
/-! SUPPORT. Decoding what encoding an instruction gives (R134, R137 to R144): one lemma per constructor. -/

set_option linter.unusedSimpArgs false

namespace Sys2Proof.Laws

open Sys2Proof Sys2Proof.Machine

/-! ### Fields put together and taken apart -/

theorem hi_app {n m : Nat} (x : BitVec n) (y : BitVec m) : (x ++ y).extractLsb' m n = x := by
  apply BitVec.eq_of_getLsbD_eq
  intro i hi
  simp [BitVec.getLsbD_append, hi]

theorem lo_app {n m : Nat} (x : BitVec n) (y : BitVec m) : (x ++ y).extractLsb' 0 m = y := by
  apply BitVec.eq_of_getLsbD_eq
  intro i hi
  simp [BitVec.getLsbD_append, hi]

theorem join {n m : Nat} (o : BitVec (n + m)) : o.extractLsb' m n ++ o.extractLsb' 0 m = o := by
  apply BitVec.eq_of_getLsbD_eq
  intro i hi
  rw [BitVec.getLsbD_append, BitVec.getLsbD_extractLsb', BitVec.getLsbD_extractLsb']
  by_cases h : i < m
  · simp [h]
  · simp [h, show i - m < n by omega, show m + (i - m) = i by omega]

theorem join14 (o : BitVec 14) : o.extractLsb' 8 6 ++ o.extractLsb' 0 8 = o := join (n := 6) (m := 8) o
theorem join16 (o : BitVec 16) : o.extractLsb' 8 8 ++ o.extractLsb' 0 8 = o := join (n := 8) (m := 8) o
theorem join12 (o : BitVec 12) : o.extractLsb' 8 4 ++ o.extractLsb' 0 8 = o := join (n := 4) (m := 8) o
theorem join11 (o : BitVec 11) : o.extractLsb' 3 8 ++ o.extractLsb' 0 3 = o := join (n := 8) (m := 3) o
theorem join5 (o : BitVec 5) : o.extractLsb' 3 2 ++ o.extractLsb' 0 3 = o := join (n := 2) (m := 3) o

theorem join24 (o : BitVec 24) : o.extractLsb' 16 8 ++ o.extractLsb' 8 8 ++ o.extractLsb' 0 8 = o := by
  have h : o.extractLsb' 16 8 ++ o.extractLsb' 8 8 = o.extractLsb' 8 16 := by
    apply BitVec.eq_of_getLsbD_eq
    intro i hi
    rw [BitVec.getLsbD_append, BitVec.getLsbD_extractLsb', BitVec.getLsbD_extractLsb', BitVec.getLsbD_extractLsb']
    by_cases h : i < 8
    · simp [h, hi]
    · simp [h, hi, show i - 8 < 8 by omega, show 16 + (i - 8) = 8 + i by omega]
  rw [h]
  exact join (n := 16) (m := 8) o

/-- The middle of three fields. -/
theorem mid_app {n m k : Nat} (x : BitVec n) (y : BitVec m) (z : BitVec k) :
    (x ++ y ++ z).extractLsb' k m = y := by
  apply BitVec.eq_of_getLsbD_eq
  intro i hi
  simp [BitVec.getLsbD_append, hi]

theorem top_app (x : BitVec 1) (y : BitVec 5) (z : BitVec 2) : (x ++ y ++ z).extractLsb' 7 1 = x := by
  apply BitVec.eq_of_getLsbD_eq
  intro i hi
  have h : i = 0 := by omega
  subst h
  rw [BitVec.getLsbD_extractLsb', BitVec.getLsbD_append, BitVec.getLsbD_append]
  rfl

theorem topBit (x : BitVec 1) (y : BitVec 5) (z : BitVec 2) : (x ++ y ++ z).getLsbD 7 = x.getLsbD 0 := by
  rw [BitVec.getLsbD_append, BitVec.getLsbD_append]
  rfl

/-- A halfword's low byte: bit 0 and the major are those of its low field. -/
theorem low_bit (x : BitVec 3) (y : BitVec 5) : (x ++ y).getLsbD 0 = y.getLsbD 0 := by
  rw [BitVec.getLsbD_append]
  rfl

theorem major16 (x : BitVec 3) (y : BitVec 5) : (x ++ y).extractLsb' 1 4 = y.extractLsb' 1 4 := by
  apply BitVec.eq_of_getLsbD_eq
  intro i hi
  rw [BitVec.getLsbD_extractLsb', BitVec.getLsbD_extractLsb', BitVec.getLsbD_append]
  simp only [show 1 + i < 5 by omega, if_true]

theorem checked_instr {i : Instr} (h : formFault i = none) : checked true i = .instr i := by
  unfold checked
  rw [h]
  rfl

theorem clear_7C (k : BitVec 2) : clear (0x0#6 ++ k) 0x7C#8 = true := by revert k; decide
theorem clear_7C' (k : BitVec 2) : clear (0x20#6 ++ k) 0x7C#8 = true := by revert k; decide
theorem clear_F0 (k : BitVec 4) : clear (0x0#4 ++ k) 0xF0#8 = true := by revert k; decide
theorem clear_80 (r : BitVec 3) (s : BitVec 4) : clear (0x0#1 ++ r ++ s) 0x80#8 = true := by revert r s; decide
theorem clear_CF (o : BitVec 2) : clear (0x0#2 ++ o ++ 0x0#4) 0xCF#8 = true := by revert o; decide
theorem clear_h (h : BitVec 5) (g : BitVec 2) : clear (0x0#1 ++ h ++ g) 0x80#8 = true := by revert h g; decide
theorem bit7 (k : BitVec 2) : (0x0#6 ++ k).extractLsb' 7 1 = 0#1 := by revert k; decide
theorem bit7' (k : BitVec 2) : (0x20#6 ++ k).extractLsb' 7 1 = 1#1 := by revert k; decide

/-! ### The same, at the byte splits the encodings have -/

theorem hi_17 (x : BitVec 1) (y : BitVec 7) : (x ++ y : BitVec 8).extractLsb' 7 1 = x := hi_app x y
theorem lo_17 (x : BitVec 1) (y : BitVec 7) : (x ++ y : BitVec 8).extractLsb' 0 7 = y := lo_app x y
theorem hi_26 (x : BitVec 2) (y : BitVec 6) : (x ++ y : BitVec 8).extractLsb' 6 2 = x := hi_app x y
theorem lo_26 (x : BitVec 2) (y : BitVec 6) : (x ++ y : BitVec 8).extractLsb' 0 6 = y := lo_app x y
theorem hi_35 (x : BitVec 3) (y : BitVec 5) : (x ++ y : BitVec 8).extractLsb' 5 3 = x := hi_app x y
theorem lo_35 (x : BitVec 3) (y : BitVec 5) : (x ++ y : BitVec 8).extractLsb' 0 5 = y := lo_app x y
theorem hi_44 (x : BitVec 4) (y : BitVec 4) : (x ++ y : BitVec 8).extractLsb' 4 4 = x := hi_app x y
theorem lo_44 (x : BitVec 4) (y : BitVec 4) : (x ++ y : BitVec 8).extractLsb' 0 4 = y := lo_app x y
theorem hi_53 (x : BitVec 5) (y : BitVec 3) : (x ++ y : BitVec 8).extractLsb' 3 5 = x := hi_app x y
theorem lo_53 (x : BitVec 5) (y : BitVec 3) : (x ++ y : BitVec 8).extractLsb' 0 3 = y := lo_app x y
theorem hi_62 (x : BitVec 6) (y : BitVec 2) : (x ++ y : BitVec 8).extractLsb' 2 6 = x := hi_app x y
theorem lo_62 (x : BitVec 6) (y : BitVec 2) : (x ++ y : BitVec 8).extractLsb' 0 2 = y := lo_app x y
theorem hi_71 (x : BitVec 7) (y : BitVec 1) : (x ++ y : BitVec 8).extractLsb' 1 7 = x := hi_app x y
theorem lo_71 (x : BitVec 7) (y : BitVec 1) : (x ++ y : BitVec 8).extractLsb' 0 1 = y := lo_app x y
theorem up_152 (x : BitVec 1) (y : BitVec 5) (z : BitVec 2) : (x ++ y ++ z : BitVec 8).extractLsb' 7 1 = x := by
  apply BitVec.eq_of_getLsbD_eq
  intro i hi
  rw [BitVec.getLsbD_extractLsb', BitVec.getLsbD_append, BitVec.getLsbD_append]
  simp [hi, show ¬ 7 + i < 2 by omega, show ¬ 7 + i - 2 < 5 by omega, show 7 + i - 2 - 5 = i by omega]
theorem mid_152 (x : BitVec 1) (y : BitVec 5) (z : BitVec 2) : (x ++ y ++ z : BitVec 8).extractLsb' 2 5 = y := mid_app x y z
theorem low_152 (x : BitVec 1) (y : BitVec 5) (z : BitVec 2) : (x ++ y ++ z : BitVec 8).extractLsb' 0 2 = z := lo_app (x ++ y) z
theorem up_134 (x : BitVec 1) (y : BitVec 3) (z : BitVec 4) : (x ++ y ++ z : BitVec 8).extractLsb' 7 1 = x := by
  apply BitVec.eq_of_getLsbD_eq
  intro i hi
  rw [BitVec.getLsbD_extractLsb', BitVec.getLsbD_append, BitVec.getLsbD_append]
  simp [hi, show ¬ 7 + i < 4 by omega, show ¬ 7 + i - 4 < 3 by omega, show 7 + i - 4 - 3 = i by omega]
theorem mid_134 (x : BitVec 1) (y : BitVec 3) (z : BitVec 4) : (x ++ y ++ z : BitVec 8).extractLsb' 4 3 = y := mid_app x y z
theorem low_134 (x : BitVec 1) (y : BitVec 3) (z : BitVec 4) : (x ++ y ++ z : BitVec 8).extractLsb' 0 4 = z := lo_app (x ++ y) z
theorem up_224 (x : BitVec 2) (y : BitVec 2) (z : BitVec 4) : (x ++ y ++ z : BitVec 8).extractLsb' 6 2 = x := by
  apply BitVec.eq_of_getLsbD_eq
  intro i hi
  rw [BitVec.getLsbD_extractLsb', BitVec.getLsbD_append, BitVec.getLsbD_append]
  simp [hi, show ¬ 6 + i < 4 by omega, show ¬ 6 + i - 4 < 2 by omega, show 6 + i - 4 - 2 = i by omega]
theorem mid_224 (x : BitVec 2) (y : BitVec 2) (z : BitVec 4) : (x ++ y ++ z : BitVec 8).extractLsb' 4 2 = y := mid_app x y z
theorem low_224 (x : BitVec 2) (y : BitVec 2) (z : BitVec 4) : (x ++ y ++ z : BitVec 8).extractLsb' 0 4 = z := lo_app (x ++ y) z
theorem kind0 (k : BitVec 4) : (0x0#4 ++ k : BitVec 8).extractLsb' 6 2 = 0#2 := by revert k; decide
theorem kind1 (k : BitVec 4) : (0x4#4 ++ k : BitVec 8).extractLsb' 6 2 = 1#2 := by revert k; decide
theorem kind2 (k : BitVec 4) : (0x8#4 ++ k : BitVec 8).extractLsb' 6 2 = 2#2 := by revert k; decide
theorem kind3 (k : BitVec 4) : (0xC#4 ++ k : BitVec 8).extractLsb' 6 2 = 3#2 := by revert k; decide
theorem top0 (a : BitVec 5) (g : BitVec 2) : (0x0#1 ++ a ++ g : BitVec 8)[7] = false := by revert a g; decide
theorem clear_00 : clear 0x0#8 0xFF#8 = true := rfl
theorem clear_F8 (k : BitVec 3) : clear (0x0#5 ++ k) 0xF8#8 = true := by revert k; decide
theorem clear_C0 (k : BitVec 6) : clear (0x0#2 ++ k) 0xC0#8 = true := by revert k; decide
theorem clear_FE (k : BitVec 1) : clear (0x0#7 ++ k) 0xFE#8 = true := by revert k; decide
theorem clear_30a (k : BitVec 4) : clear (0x0#4 ++ k) 0x30#8 = true := by revert k; decide
theorem clear_30b (k : BitVec 4) : clear (0x4#4 ++ k) 0x30#8 = true := by revert k; decide
theorem clear_30c (k : BitVec 4) : clear (0x8#4 ++ k) 0x30#8 = true := by revert k; decide
theorem clear_30d (k : BitVec 4) : clear (0xC#4 ++ k) 0x30#8 = true := by revert k; decide

/-! ### The majors that a code divides -/

theorem dec_29 (d a b : Byte) : decode [0x29#8, d, a, b] =
    (match d.toNat with
    | 0 => checked true (.shlRegN b a)
    | 1 => checked true (.shrRegN b a)
    | 2 => checked true (.sraRegN b a)
    | 3 => checked true (.rolRegN b a)
    | 4 => checked true (.mulhN b a)
    | 5 => checked true (.mulhuN b a)
    | 6 => checked true (.divN b a)
    | 7 => checked true (.divuN b a)
    | 8 => checked true (.remN b a)
    | 9 => checked true (.remuN b a)
    | 10 => checked true (.minN b a)
    | 11 => checked true (.maxN b a)
    | 16 => checked true (.cmpEqN b a)
    | 17 => checked true (.cmpNeN b a)
    | 18 => checked true (.cmpLtN b a)
    | 19 => checked true (.cmpGeN b a)
    | 20 => checked true (.cmpLtuN b a)
    | 21 => checked true (.cmpGeuN b a)
    | _ => .illegal .undefinedCode) := rfl

theorem dec_2B (d a b : Byte) : decode [0x2B#8, d, a, b] =
    (match d.toNat with
    | 0 => checked true (.shlRegD b a)
    | 1 => checked true (.shrRegD b a)
    | 2 => checked true (.sraRegD b a)
    | 3 => checked true (.rolRegD b a)
    | 4 => checked true (.mulhD b a)
    | 5 => checked true (.mulhuD b a)
    | 6 => checked true (.divD b a)
    | 7 => checked true (.divuD b a)
    | 8 => checked true (.remD b a)
    | 9 => checked true (.remuD b a)
    | 10 => checked true (.minD b a)
    | 11 => checked true (.maxD b a)
    | 16 => checked true (.cmpEqD b a)
    | 17 => checked true (.cmpNeD b a)
    | 18 => checked true (.cmpLtD b a)
    | 19 => checked true (.cmpGeD b a)
    | 20 => checked true (.cmpLtuD b a)
    | 21 => checked true (.cmpGeuD b a)
    | _ => .illegal .undefinedCode) := rfl

theorem dec_2D (d a b : Byte) : decode [0x2D#8, d, a, b] =
    (match b.toNat with
    | 0 => checked true (.movZxN a d)
    | 1 => checked true (.movSxN a d)
    | 2 => checked true (.popcN a d)
    | 3 => checked true (.clzN a d)
    | 4 => checked true (.ctzN a d)
    | 5 => checked true (.brevN a d)
    | 6 => checked true (.unzipRN a d)
    | 7 => checked true (.unzipCN a d)
    | _ => .illegal .undefinedCode) := rfl

theorem dec_2F (d a b : Byte) : decode [0x2F#8, d, a, b] =
    (match b.toNat with
    | 0 => checked true (.movZxD a d)
    | 1 => checked true (.movSxD a d)
    | 2 => checked true (.popcD a d)
    | 3 => checked true (.clzD a d)
    | 4 => checked true (.ctzD a d)
    | 5 => checked true (.brevD a d)
    | 6 => checked true (.unzipRD a d)
    | 7 => checked true (.unzipCD a d)
    | _ => .illegal .undefinedCode) := rfl

theorem dec_35 (d a b : Byte) : decode [0x35#8, d, a, b] =
    (match (b.extractLsb' 6 2).toNat with
    | 0 => checked true (.shlImmN (b.extractLsb' 0 6) a d)
    | 1 => checked true (.shrImmN (b.extractLsb' 0 6) a d)
    | 2 => checked true (.sraImmN (b.extractLsb' 0 6) a d)
    | 3 => checked true (.rolImmN (b.extractLsb' 0 6) a d)
    | _ => .illegal .undefinedCode) := rfl

theorem dec_37 (d a b : Byte) : decode [0x37#8, d, a, b] =
    (match (b.extractLsb' 6 2).toNat with
    | 0 => checked true (.shlImmD (b.extractLsb' 0 6) a d)
    | 1 => checked true (.shrImmD (b.extractLsb' 0 6) a d)
    | 2 => checked true (.sraImmD (b.extractLsb' 0 6) a d)
    | 3 => checked true (.rolImmD (b.extractLsb' 0 6) a d)
    | _ => .illegal .undefinedCode) := rfl

theorem dec_39 (d a b : Byte) : decode [0x39#8, d, a, b] =
    (match (b.extractLsb' 6 2).toNat with
    | 0 => checked true (.extN (b.extractLsb' 0 6) a d)
    | 1 => checked true (.insN (b.extractLsb' 0 6) a d)
    | _ => .illegal .undefinedCode) := rfl

theorem dec_3B (d a b : Byte) : decode [0x3B#8, d, a, b] =
    (match (b.extractLsb' 6 2).toNat with
    | 0 => checked true (.extD (b.extractLsb' 0 6) a d)
    | 1 => checked true (.insD (b.extractLsb' 0 6) a d)
    | _ => .illegal .undefinedCode) := rfl

theorem dec_47 (d a b : Byte) : decode [0x47#8, d, a, b] =
    (match (b.extractLsb' 5 3).toNat with
    | 0 => checked true (.tasc (b.extractLsb' 0 5) a d)
    | 1 => checked true (.tdig (b.extractLsb' 0 5) a d)
    | _ => .illegal .undefinedCode) := rfl

theorem dec_51 (d a b : Byte) : decode [0x51#8, d, a, b] =
    (match (b.extractLsb' 6 2).toNat with
    | 0 => checked true (.bzN (b.extractLsb' 0 6 ++ a) d)
    | 1 => checked true (.bnzN (b.extractLsb' 0 6 ++ a) d)
    | 2 => checked true (.dbnzN (b.extractLsb' 0 6 ++ a) d)
    | _ => .illegal .undefinedCode) := rfl

theorem dec_53 (d a b : Byte) : decode [0x53#8, d, a, b] =
    (match (b.extractLsb' 6 2).toNat with
    | 0 => checked true (.bzD (b.extractLsb' 0 6 ++ a) d)
    | 1 => checked true (.bnzD (b.extractLsb' 0 6 ++ a) d)
    | 2 => checked true (.dbnzD (b.extractLsb' 0 6 ++ a) d)
    | _ => .illegal .undefinedCode) := rfl

theorem dec_61 (d a b : Byte) : decode [0x61#8, d, a, b] =
    (match (d.extractLsb' 0 4).toNat with
    | 0 => checked true (.ldN b a (d.extractLsb' 4 4))
    | 1 => checked true (.ldfeN b a (d.extractLsb' 4 4))
    | 2 => checked true (.ldffN b a (d.extractLsb' 4 4))
    | _ => .illegal .undefinedCode) := rfl

theorem dec_63 (d a b : Byte) : decode [0x63#8, d, a, b] =
    (match (d.extractLsb' 0 4).toNat with
    | 0 => checked true (.ldD b a (d.extractLsb' 4 4))
    | 1 => checked true (.ldfeD b a (d.extractLsb' 4 4))
    | 2 => checked true (.ldffD b a (d.extractLsb' 4 4))
    | _ => .illegal .undefinedCode) := rfl

theorem dec_65 (d a b : Byte) : decode [0x65#8, d, a, b] =
    (match (d.extractLsb' 0 4).toNat with
    | 0 => checked true (.stN b a (d.extractLsb' 4 4))
    | 1 => checked true (.stefN b a (d.extractLsb' 4 4))
    | 2 => checked true (.stffN b a (d.extractLsb' 4 4))
    | 3 => checked true (.stcN b a (d.extractLsb' 4 4))
    | _ => .illegal .undefinedCode) := rfl

theorem dec_67 (d a b : Byte) : decode [0x67#8, d, a, b] =
    (match (d.extractLsb' 0 4).toNat with
    | 0 => checked true (.stD b a (d.extractLsb' 4 4))
    | 1 => checked true (.stefD b a (d.extractLsb' 4 4))
    | 2 => checked true (.stffD b a (d.extractLsb' 4 4))
    | 3 => checked true (.stcD b a (d.extractLsb' 4 4))
    | _ => .illegal .undefinedCode) := rfl

theorem dec_69 (d a b : Byte) : decode [0x69#8, d, a, b] =
    (match (d.extractLsb' 0 4).toNat with
    | 0 => checked (clear d 0xF0) (.cmldN b a)
    | 1 => checked (clear d 0xF0) (.cmstN b a)
    | _ => .illegal .undefinedCode) := rfl

theorem dec_6B (d a b : Byte) : decode [0x6B#8, d, a, b] =
    (match (d.extractLsb' 0 4).toNat with
    | 0 => checked (clear d 0xF0) (.cmldD b a)
    | 1 => checked (clear d 0xF0) (.cmstD b a)
    | _ => .illegal .undefinedCode) := rfl

theorem dec_6D (d a b : Byte) : decode [0x6D#8, d, a, b] =
    (match (d.extractLsb' 0 4).toNat with
    | 0 => checked (clear a 0xF0) (.ldcap b (a.extractLsb' 0 4) (d.extractLsb' 4 4))
    | 1 => checked (clear a 0xF0) (.stcap b (a.extractLsb' 0 4) (d.extractLsb' 4 4))
    | _ => .illegal .undefinedCode) := rfl

theorem dec_6F (d a b : Byte) : decode [0x6F#8, d, a, b] =
    (match (d.extractLsb' 0 4).toNat with
    | 0 => checked true (.spill b a (d.extractLsb' 4 4))
    | 1 => checked true (.fill b a (d.extractLsb' 4 4))
    | _ => .illegal .undefinedCode) := rfl

theorem dec_71 (d a b : Byte) : decode [0x71#8, d, a, b] =
    (match (d.extractLsb' 0 4).toNat with
    | 0 => checked true (.amoAdd b a (d.extractLsb' 4 4))
    | 1 => checked true (.amoAnd b a (d.extractLsb' 4 4))
    | 2 => checked true (.amoOr b a (d.extractLsb' 4 4))
    | 3 => checked true (.amoXor b a (d.extractLsb' 4 4))
    | 4 => checked true (.amoMin b a (d.extractLsb' 4 4))
    | 5 => checked true (.amoMax b a (d.extractLsb' 4 4))
    | 6 => checked true (.amoSwap b a (d.extractLsb' 4 4))
    | 7 => checked true (.amoCas b a (d.extractLsb' 4 4))
    | 8 => checked true (.amoFadd b a (d.extractLsb' 4 4))
    | 9 => checked true (.amaxRst b a (d.extractLsb' 4 4))
    | 10 => checked true (.amoFaddF16 b a (d.extractLsb' 4 4))
    | _ => .illegal .undefinedCode) := rfl

theorem dec_73 (d a b : Byte) : decode [0x73#8, d, a, b] =
    (match (d.extractLsb' 0 4).toNat with
    | 0 => checked true (.amoAddPost b a (d.extractLsb' 4 4))
    | 1 => checked true (.amoAndPost b a (d.extractLsb' 4 4))
    | 2 => checked true (.amoOrPost b a (d.extractLsb' 4 4))
    | 3 => checked true (.amoXorPost b a (d.extractLsb' 4 4))
    | 4 => checked true (.amoMinPost b a (d.extractLsb' 4 4))
    | 5 => checked true (.amoMaxPost b a (d.extractLsb' 4 4))
    | 6 => checked true (.amoSwapPost b a (d.extractLsb' 4 4))
    | 8 => checked true (.amoFaddPost b a (d.extractLsb' 4 4))
    | 10 => checked true (.amoFaddF16Post b a (d.extractLsb' 4 4))
    | _ => .illegal .undefinedCode) := rfl

theorem dec_75 (d a b : Byte) : decode [0x75#8, d, a, b] =
    (match (d.extractLsb' 0 4).toNat with
    | 0 => checked true (.lapp b a (d.extractLsb' 4 4))
    | 1 => checked (b == 0x38) (.lmerge a (d.extractLsb' 4 4))
    | _ => .illegal .undefinedCode) := rfl

theorem dec_85 (d a b : Byte) : decode [0x85#8, d, a, b] =
    (match (d.extractLsb' 6 2).toNat with
    | 2 => checked true (.tenq b a (d.extractLsb' 0 6))
    | _ => .illegal .undefinedCode) := rfl

theorem dec_8F (d a b : Byte) : decode [0x8F#8, d, a, b] =
    (match (b.extractLsb' 7 1).toNat with
    | 0 => checked (clear b 0x7C && clear d 0xFF) (.sbind (b.extractLsb' 0 2) a)
    | 1 => checked (clear b 0x7C && clear a 0xFF && clear d 0xFF) (.sbindOff (b.extractLsb' 0 2))
    | _ => .illegal .undefinedCode) := rfl

theorem dec_9D (d a b : Byte) : decode [0x9D#8, d, a, b] =
    (match (b.extractLsb' 4 2).toNat with
    | 0 => checked (clear b 0xCF) (.vabs a d)
    | 1 => checked (clear b 0xCF) (.vneg a d)
    | 2 => checked (clear b 0xCF) (.vpopc a d)
    | _ => .illegal .undefinedCode) := rfl

theorem dec_BD (d a b : Byte) : decode [0xBD#8, d, a, b] =
    (match (d.extractLsb' 0 4).toNat with
    | 0 => checked true (.vld b a (d.extractLsb' 4 4))
    | 1 => checked true (.vst b a (d.extractLsb' 4 4))
    | _ => .illegal .undefinedCode) := rfl

theorem dec_BF (d a b : Byte) : decode [0xBF#8, d, a, b] =
    (match (d.extractLsb' 0 4).toNat with
    | 0 => checked true (.vgat b a (d.extractLsb' 4 4))
    | 1 => checked true (.vsct b a (d.extractLsb' 4 4))
    | _ => .illegal .undefinedCode) := rfl

theorem dec_CD (d a b : Byte) : decode [0xCD#8, d, a, b] =
    (match (d.extractLsb' 4 4).toNat with
    | 8 => checked true (.maccRd b a (d.extractLsb' 0 4))
    | _ => .illegal .undefinedCode) := rfl

theorem dec_F9 (d a b : Byte) : decode [0xF9#8, d, a, b] =
    (match (d.extractLsb' 0 3).toNat with
    | 0 => checked (clear b 0xFF && clear a 0xFF && clear d 0xF8) .fenceCell
    | 1 => checked (clear b 0xFF && clear a 0xFF && clear d 0xF8) .fenceTile
    | 2 => checked (clear b 0xFF && clear a 0xFF && clear d 0xF8) .fenceSector
    | 3 => checked (clear b 0xFF && clear a 0xFF && clear d 0xF8) .fenceStack
    | 4 => checked (clear b 0xFF && clear a 0xFF && clear d 0xF8) .fenceDomain
    | _ => .illegal .undefinedCode) := rfl

theorem dec_FB (d a b : Byte) : decode [0xFB#8, d, a, b] =
    (match (b.extractLsb' 6 2).toNat with
    | 0 => checked (clear b 0x30) (.csrr (b.extractLsb' 0 4 ++ a) d)
    | 1 => checked (clear b 0x30) (.csrw (b.extractLsb' 0 4 ++ a) d)
    | 2 => checked (clear b 0x30) (.csrs (b.extractLsb' 0 4 ++ a) d)
    | 3 => checked (clear b 0x30) (.csrc (b.extractLsb' 0 4 ++ a) d)
    | _ => .illegal .undefinedCode) := rfl

theorem dec_31 (d a b : Byte) :
    decode [0x31#8, d, a, b] = (checked true (.liN (b ++ a) d)) := rfl

theorem dec_33 (d a b : Byte) :
    decode [0x33#8, d, a, b] = (checked true (.liD (b ++ a) d)) := rfl

theorem dec_4B (d a b : Byte) :
    decode [0x4B#8, d, a, b] = (checked true (.jump (b ++ a ++ d))) := rfl

theorem dec_4D (d a b : Byte) :
    decode [0x4D#8, d, a, b] = (checked true (.jal (b ++ a) d)) := rfl

theorem dec_4F (d a b : Byte) :
    decode [0x4F#8, d, a, b] = (if d == 0x38 then checked (clear b 0xFF) (.ret a) else checked (clear b 0xFF) (.jr a d)) := rfl

theorem dec_79 (d a b : Byte) :
    decode [0x79#8, d, a, b] = (checked (clear d 0xFF) (.tbegin (b ++ a))) := rfl

theorem dec_7B (d a b : Byte) :
    decode [0x7B#8, d, a, b] = (checked (clear d 0xFF) (.orelse (b ++ a))) := rfl

theorem dec_8D (d a b : Byte) :
    decode [0x8D#8, d, a, b] = (checked true (.amsg b a (d.extractLsb' 4 4) (d.extractLsb' 0 4))) := rfl

theorem dec_AD (d a b : Byte) :
    decode [0xAD#8, d, a, b] = (checked (clear b 0x80) (.vcvt (b.extractLsb' 4 3) (b.extractLsb' 0 4) a d)) := rfl

theorem dec_AF (d a b : Byte) :
    decode [0xAF#8, d, a, b] = (checked (clear b 0xCF) (.vred (b.extractLsb' 4 2) a d)) := rfl

theorem dec_C1 (d a b : Byte) :
    decode [0xC1#8, d, a, b] = (checked (clear b 0xC0 && clear a 0xFF) (.mclaim (b.extractLsb' 0 6) d)) := rfl

theorem dec_C9 (d a b : Byte) :
    decode [0xC9#8, d, a, b] = (checked (clear b 0xFE && clear d 0xFF) (.mmac (b.extractLsb' 0 1) a)) := rfl

theorem dec_CF (d a b : Byte) :
    decode [0xCF#8, d, a, b] = (checked (clear b 0xFE && clear a 0xFF && clear d 0xFF) (.maccClr (b.extractLsb' 0 1))) := rfl

theorem dec_D1 (d a b : Byte) :
    decode [0xD1#8, d, a, b] = (checked (clear b 0xF8 && clear a 0xFF && clear d 0xFF) (.msemP (b.extractLsb' 0 3))) := rfl

theorem dec_D3 (d a b : Byte) :
    decode [0xD3#8, d, a, b] = (checked (clear b 0xF8 && clear a 0xFF && clear d 0xFF) (.msemV (b.extractLsb' 0 3))) := rfl

theorem dec_E1 (d a b : Byte) :
    decode [0xE1#8, d, a, b] = (checked (clear a 0xF0 && clear d 0xF0) (.cder b (a.extractLsb' 0 4) (d.extractLsb' 0 4))) := rfl

theorem dec_E3 (d a b : Byte) :
    decode [0xE3#8, d, a, b] = (checked (clear a 0xF0 && clear d 0xF0) (.cbnd b (a.extractLsb' 0 4) (d.extractLsb' 0 4))) := rfl

theorem dec_E5 (d a b : Byte) :
    decode [0xE5#8, d, a, b] = (checked (clear a 0xF0 && clear d 0xF0) (.cperm b (a.extractLsb' 0 4) (d.extractLsb' 0 4))) := rfl

theorem dec_E7 (d a b : Byte) :
    decode [0xE7#8, d, a, b] = (checked (clear d 0xF0) (.cseal b (a.extractLsb' 4 4) (a.extractLsb' 0 4) (d.extractLsb' 0 4))) := rfl

theorem dec_E9 (d a b : Byte) :
    decode [0xE9#8, d, a, b] = (checked (clear b 0xFF && clear d 0xF0) (.cunseal (a.extractLsb' 4 4) (a.extractLsb' 0 4) (d.extractLsb' 0 4))) := rfl

theorem dec_EB (d a b : Byte) :
    decode [0xEB#8, d, a, b] = (checked (clear d 0xFF) (.cget b (a.extractLsb' 4 4) (a.extractLsb' 0 4))) := rfl

theorem dec_ED (d a b : Byte) :
    decode [0xED#8, d, a, b] = (checked (clear b 0xFF && clear a 0xF0 && clear d 0xF0) (.cmov (a.extractLsb' 0 4) (d.extractLsb' 0 4))) := rfl

theorem dec_half (m d : Byte) (h : m.getLsbD 0 = false) : decode [m, d] = decode16 m d := by
  show (if m.getLsbD 0 then Decoded.illegal .short else decode16 m d) = decode16 m d
  rw [h]
  rfl

end Sys2Proof.Laws

namespace Sys2Proof.Laws.Encoding

open Sys2Proof Sys2Proof.Machine Sys2Proof.Laws

/-- The word of a well-formed instruction decodes to it. -/
def Statement (i : Instr) : Prop := WellFormed i → decode (encode i) = .instr i

theorem addN (b : BitVec 8) (a : BitVec 8) (d : BitVec 8) : Statement (.addN b a d) := fun w => checked_instr w.2.2
theorem addD (b : BitVec 8) (a : BitVec 8) (d : BitVec 8) : Statement (.addD b a d) := fun w => checked_instr w.2.2
theorem adduN (b : BitVec 8) (a : BitVec 8) (d : BitVec 8) : Statement (.adduN b a d) := fun w => checked_instr w.2.2
theorem adduD (b : BitVec 8) (a : BitVec 8) (d : BitVec 8) : Statement (.adduD b a d) := fun w => checked_instr w.2.2
theorem subN (b : BitVec 8) (a : BitVec 8) (d : BitVec 8) : Statement (.subN b a d) := fun w => checked_instr w.2.2
theorem subD (b : BitVec 8) (a : BitVec 8) (d : BitVec 8) : Statement (.subD b a d) := fun w => checked_instr w.2.2
theorem subuN (b : BitVec 8) (a : BitVec 8) (d : BitVec 8) : Statement (.subuN b a d) := fun w => checked_instr w.2.2
theorem subuD (b : BitVec 8) (a : BitVec 8) (d : BitVec 8) : Statement (.subuD b a d) := fun w => checked_instr w.2.2
theorem mulN (b : BitVec 8) (a : BitVec 8) (d : BitVec 8) : Statement (.mulN b a d) := fun w => checked_instr w.2.2
theorem mulD (b : BitVec 8) (a : BitVec 8) (d : BitVec 8) : Statement (.mulD b a d) := fun w => checked_instr w.2.2
theorem muluN (b : BitVec 8) (a : BitVec 8) (d : BitVec 8) : Statement (.muluN b a d) := fun w => checked_instr w.2.2
theorem muluD (b : BitVec 8) (a : BitVec 8) (d : BitVec 8) : Statement (.muluD b a d) := fun w => checked_instr w.2.2
theorem andN (b : BitVec 8) (a : BitVec 8) (d : BitVec 8) : Statement (.andN b a d) := fun w => checked_instr w.2.2
theorem andD (b : BitVec 8) (a : BitVec 8) (d : BitVec 8) : Statement (.andD b a d) := fun w => checked_instr w.2.2
theorem orN (b : BitVec 8) (a : BitVec 8) (d : BitVec 8) : Statement (.orN b a d) := fun w => checked_instr w.2.2
theorem orD (b : BitVec 8) (a : BitVec 8) (d : BitVec 8) : Statement (.orD b a d) := fun w => checked_instr w.2.2
theorem xorN (b : BitVec 8) (a : BitVec 8) (d : BitVec 8) : Statement (.xorN b a d) := fun w => checked_instr w.2.2
theorem xorD (b : BitVec 8) (a : BitVec 8) (d : BitVec 8) : Statement (.xorD b a d) := fun w => checked_instr w.2.2
theorem andnN (b : BitVec 8) (a : BitVec 8) (d : BitVec 8) : Statement (.andnN b a d) := fun w => checked_instr w.2.2
theorem andnD (b : BitVec 8) (a : BitVec 8) (d : BitVec 8) : Statement (.andnD b a d) := fun w => checked_instr w.2.2
theorem shlRegN (b : BitVec 8) (a : BitVec 8) : Statement (.shlRegN b a) := fun w => checked_instr w.2.2
theorem shlRegD (b : BitVec 8) (a : BitVec 8) : Statement (.shlRegD b a) := fun w => checked_instr w.2.2
theorem shrRegN (b : BitVec 8) (a : BitVec 8) : Statement (.shrRegN b a) := fun w => checked_instr w.2.2
theorem shrRegD (b : BitVec 8) (a : BitVec 8) : Statement (.shrRegD b a) := fun w => checked_instr w.2.2
theorem sraRegN (b : BitVec 8) (a : BitVec 8) : Statement (.sraRegN b a) := fun w => checked_instr w.2.2
theorem sraRegD (b : BitVec 8) (a : BitVec 8) : Statement (.sraRegD b a) := fun w => checked_instr w.2.2
theorem rolRegN (b : BitVec 8) (a : BitVec 8) : Statement (.rolRegN b a) := fun w => checked_instr w.2.2
theorem rolRegD (b : BitVec 8) (a : BitVec 8) : Statement (.rolRegD b a) := fun w => checked_instr w.2.2
theorem mulhN (b : BitVec 8) (a : BitVec 8) : Statement (.mulhN b a) := fun w => checked_instr w.2.2
theorem mulhD (b : BitVec 8) (a : BitVec 8) : Statement (.mulhD b a) := fun w => checked_instr w.2.2
theorem mulhuN (b : BitVec 8) (a : BitVec 8) : Statement (.mulhuN b a) := fun w => checked_instr w.2.2
theorem mulhuD (b : BitVec 8) (a : BitVec 8) : Statement (.mulhuD b a) := fun w => checked_instr w.2.2
theorem divN (b : BitVec 8) (a : BitVec 8) : Statement (.divN b a) := fun w => checked_instr w.2.2
theorem divD (b : BitVec 8) (a : BitVec 8) : Statement (.divD b a) := fun w => checked_instr w.2.2
theorem divuN (b : BitVec 8) (a : BitVec 8) : Statement (.divuN b a) := fun w => checked_instr w.2.2
theorem divuD (b : BitVec 8) (a : BitVec 8) : Statement (.divuD b a) := fun w => checked_instr w.2.2
theorem remN (b : BitVec 8) (a : BitVec 8) : Statement (.remN b a) := fun w => checked_instr w.2.2
theorem remD (b : BitVec 8) (a : BitVec 8) : Statement (.remD b a) := fun w => checked_instr w.2.2
theorem remuN (b : BitVec 8) (a : BitVec 8) : Statement (.remuN b a) := fun w => checked_instr w.2.2
theorem remuD (b : BitVec 8) (a : BitVec 8) : Statement (.remuD b a) := fun w => checked_instr w.2.2
theorem minN (b : BitVec 8) (a : BitVec 8) : Statement (.minN b a) := fun w => checked_instr w.2.2
theorem minD (b : BitVec 8) (a : BitVec 8) : Statement (.minD b a) := fun w => checked_instr w.2.2
theorem maxN (b : BitVec 8) (a : BitVec 8) : Statement (.maxN b a) := fun w => checked_instr w.2.2
theorem maxD (b : BitVec 8) (a : BitVec 8) : Statement (.maxD b a) := fun w => checked_instr w.2.2
theorem cmpEqN (b : BitVec 8) (a : BitVec 8) : Statement (.cmpEqN b a) := fun w => checked_instr w.2.2
theorem cmpEqD (b : BitVec 8) (a : BitVec 8) : Statement (.cmpEqD b a) := fun w => checked_instr w.2.2
theorem cmpNeN (b : BitVec 8) (a : BitVec 8) : Statement (.cmpNeN b a) := fun w => checked_instr w.2.2
theorem cmpNeD (b : BitVec 8) (a : BitVec 8) : Statement (.cmpNeD b a) := fun w => checked_instr w.2.2
theorem cmpLtN (b : BitVec 8) (a : BitVec 8) : Statement (.cmpLtN b a) := fun w => checked_instr w.2.2
theorem cmpLtD (b : BitVec 8) (a : BitVec 8) : Statement (.cmpLtD b a) := fun w => checked_instr w.2.2
theorem cmpGeN (b : BitVec 8) (a : BitVec 8) : Statement (.cmpGeN b a) := fun w => checked_instr w.2.2
theorem cmpGeD (b : BitVec 8) (a : BitVec 8) : Statement (.cmpGeD b a) := fun w => checked_instr w.2.2
theorem cmpLtuN (b : BitVec 8) (a : BitVec 8) : Statement (.cmpLtuN b a) := fun w => checked_instr w.2.2
theorem cmpLtuD (b : BitVec 8) (a : BitVec 8) : Statement (.cmpLtuD b a) := fun w => checked_instr w.2.2
theorem cmpGeuN (b : BitVec 8) (a : BitVec 8) : Statement (.cmpGeuN b a) := fun w => checked_instr w.2.2
theorem cmpGeuD (b : BitVec 8) (a : BitVec 8) : Statement (.cmpGeuD b a) := fun w => checked_instr w.2.2
theorem movZxN (a : BitVec 8) (d : BitVec 8) : Statement (.movZxN a d) := fun w => checked_instr w.2.2
theorem movZxD (a : BitVec 8) (d : BitVec 8) : Statement (.movZxD a d) := fun w => checked_instr w.2.2
theorem movSxN (a : BitVec 8) (d : BitVec 8) : Statement (.movSxN a d) := fun w => checked_instr w.2.2
theorem movSxD (a : BitVec 8) (d : BitVec 8) : Statement (.movSxD a d) := fun w => checked_instr w.2.2
theorem popcN (a : BitVec 8) (d : BitVec 8) : Statement (.popcN a d) := fun w => checked_instr w.2.2
theorem popcD (a : BitVec 8) (d : BitVec 8) : Statement (.popcD a d) := fun w => checked_instr w.2.2
theorem clzN (a : BitVec 8) (d : BitVec 8) : Statement (.clzN a d) := fun w => checked_instr w.2.2
theorem clzD (a : BitVec 8) (d : BitVec 8) : Statement (.clzD a d) := fun w => checked_instr w.2.2
theorem ctzN (a : BitVec 8) (d : BitVec 8) : Statement (.ctzN a d) := fun w => checked_instr w.2.2
theorem ctzD (a : BitVec 8) (d : BitVec 8) : Statement (.ctzD a d) := fun w => checked_instr w.2.2
theorem brevN (a : BitVec 8) (d : BitVec 8) : Statement (.brevN a d) := fun w => checked_instr w.2.2
theorem brevD (a : BitVec 8) (d : BitVec 8) : Statement (.brevD a d) := fun w => checked_instr w.2.2
theorem unzipRN (a : BitVec 8) (d : BitVec 8) : Statement (.unzipRN a d) := fun w => checked_instr w.2.2
theorem unzipRD (a : BitVec 8) (d : BitVec 8) : Statement (.unzipRD a d) := fun w => checked_instr w.2.2
theorem unzipCN (a : BitVec 8) (d : BitVec 8) : Statement (.unzipCN a d) := fun w => checked_instr w.2.2
theorem unzipCD (a : BitVec 8) (d : BitVec 8) : Statement (.unzipCD a d) := fun w => checked_instr w.2.2
theorem liN (i : BitVec 16) (d : BitVec 8) : Statement (.liN i d) := by
  intro w
  refine (dec_31 (d) (i.extractLsb' 0 8) (i.extractLsb' 8 8)).trans ?_
  simp [hi_17, lo_17, hi_26, lo_26, hi_35, lo_35, hi_44, lo_44, hi_53, lo_53, hi_62, lo_62, hi_71, lo_71, up_152, mid_152, low_152, up_134, mid_134, low_134, up_224, mid_224, low_224, clear_00, clear_F8, clear_C0, clear_FE, clear_30a, clear_30b, clear_30c, clear_30d, kind0, kind1, kind2, kind3, top0, join5, join11, join12, join14, join16, join24, clear_7C, clear_7C', clear_F0, clear_80, clear_CF, bit7, bit7', checked_instr w.2.2]
theorem liD (i : BitVec 16) (d : BitVec 8) : Statement (.liD i d) := by
  intro w
  refine (dec_33 (d) (i.extractLsb' 0 8) (i.extractLsb' 8 8)).trans ?_
  simp [hi_17, lo_17, hi_26, lo_26, hi_35, lo_35, hi_44, lo_44, hi_53, lo_53, hi_62, lo_62, hi_71, lo_71, up_152, mid_152, low_152, up_134, mid_134, low_134, up_224, mid_224, low_224, clear_00, clear_F8, clear_C0, clear_FE, clear_30a, clear_30b, clear_30c, clear_30d, kind0, kind1, kind2, kind3, top0, join5, join11, join12, join14, join16, join24, clear_7C, clear_7C', clear_F0, clear_80, clear_CF, bit7, bit7', checked_instr w.2.2]
theorem shlImmN (s : BitVec 6) (a : BitVec 8) (d : BitVec 8) : Statement (.shlImmN s a d) := by
  intro w
  refine (dec_35 (d) (a) (0x0#2 ++ s)).trans ?_
  simp [hi_17, lo_17, hi_26, lo_26, hi_35, lo_35, hi_44, lo_44, hi_53, lo_53, hi_62, lo_62, hi_71, lo_71, up_152, mid_152, low_152, up_134, mid_134, low_134, up_224, mid_224, low_224, clear_00, clear_F8, clear_C0, clear_FE, clear_30a, clear_30b, clear_30c, clear_30d, kind0, kind1, kind2, kind3, top0, join5, join11, join12, join14, join16, join24, clear_7C, clear_7C', clear_F0, clear_80, clear_CF, bit7, bit7', checked_instr w.2.2]
theorem shlImmD (s : BitVec 6) (a : BitVec 8) (d : BitVec 8) : Statement (.shlImmD s a d) := by
  intro w
  refine (dec_37 (d) (a) (0x0#2 ++ s)).trans ?_
  simp [hi_17, lo_17, hi_26, lo_26, hi_35, lo_35, hi_44, lo_44, hi_53, lo_53, hi_62, lo_62, hi_71, lo_71, up_152, mid_152, low_152, up_134, mid_134, low_134, up_224, mid_224, low_224, clear_00, clear_F8, clear_C0, clear_FE, clear_30a, clear_30b, clear_30c, clear_30d, kind0, kind1, kind2, kind3, top0, join5, join11, join12, join14, join16, join24, clear_7C, clear_7C', clear_F0, clear_80, clear_CF, bit7, bit7', checked_instr w.2.2]
theorem shrImmN (s : BitVec 6) (a : BitVec 8) (d : BitVec 8) : Statement (.shrImmN s a d) := by
  intro w
  refine (dec_35 (d) (a) (0x1#2 ++ s)).trans ?_
  simp [hi_17, lo_17, hi_26, lo_26, hi_35, lo_35, hi_44, lo_44, hi_53, lo_53, hi_62, lo_62, hi_71, lo_71, up_152, mid_152, low_152, up_134, mid_134, low_134, up_224, mid_224, low_224, clear_00, clear_F8, clear_C0, clear_FE, clear_30a, clear_30b, clear_30c, clear_30d, kind0, kind1, kind2, kind3, top0, join5, join11, join12, join14, join16, join24, clear_7C, clear_7C', clear_F0, clear_80, clear_CF, bit7, bit7', checked_instr w.2.2]
theorem shrImmD (s : BitVec 6) (a : BitVec 8) (d : BitVec 8) : Statement (.shrImmD s a d) := by
  intro w
  refine (dec_37 (d) (a) (0x1#2 ++ s)).trans ?_
  simp [hi_17, lo_17, hi_26, lo_26, hi_35, lo_35, hi_44, lo_44, hi_53, lo_53, hi_62, lo_62, hi_71, lo_71, up_152, mid_152, low_152, up_134, mid_134, low_134, up_224, mid_224, low_224, clear_00, clear_F8, clear_C0, clear_FE, clear_30a, clear_30b, clear_30c, clear_30d, kind0, kind1, kind2, kind3, top0, join5, join11, join12, join14, join16, join24, clear_7C, clear_7C', clear_F0, clear_80, clear_CF, bit7, bit7', checked_instr w.2.2]
theorem sraImmN (s : BitVec 6) (a : BitVec 8) (d : BitVec 8) : Statement (.sraImmN s a d) := by
  intro w
  refine (dec_35 (d) (a) (0x2#2 ++ s)).trans ?_
  simp [hi_17, lo_17, hi_26, lo_26, hi_35, lo_35, hi_44, lo_44, hi_53, lo_53, hi_62, lo_62, hi_71, lo_71, up_152, mid_152, low_152, up_134, mid_134, low_134, up_224, mid_224, low_224, clear_00, clear_F8, clear_C0, clear_FE, clear_30a, clear_30b, clear_30c, clear_30d, kind0, kind1, kind2, kind3, top0, join5, join11, join12, join14, join16, join24, clear_7C, clear_7C', clear_F0, clear_80, clear_CF, bit7, bit7', checked_instr w.2.2]
theorem sraImmD (s : BitVec 6) (a : BitVec 8) (d : BitVec 8) : Statement (.sraImmD s a d) := by
  intro w
  refine (dec_37 (d) (a) (0x2#2 ++ s)).trans ?_
  simp [hi_17, lo_17, hi_26, lo_26, hi_35, lo_35, hi_44, lo_44, hi_53, lo_53, hi_62, lo_62, hi_71, lo_71, up_152, mid_152, low_152, up_134, mid_134, low_134, up_224, mid_224, low_224, clear_00, clear_F8, clear_C0, clear_FE, clear_30a, clear_30b, clear_30c, clear_30d, kind0, kind1, kind2, kind3, top0, join5, join11, join12, join14, join16, join24, clear_7C, clear_7C', clear_F0, clear_80, clear_CF, bit7, bit7', checked_instr w.2.2]
theorem rolImmN (s : BitVec 6) (a : BitVec 8) (d : BitVec 8) : Statement (.rolImmN s a d) := by
  intro w
  refine (dec_35 (d) (a) (0x3#2 ++ s)).trans ?_
  simp [hi_17, lo_17, hi_26, lo_26, hi_35, lo_35, hi_44, lo_44, hi_53, lo_53, hi_62, lo_62, hi_71, lo_71, up_152, mid_152, low_152, up_134, mid_134, low_134, up_224, mid_224, low_224, clear_00, clear_F8, clear_C0, clear_FE, clear_30a, clear_30b, clear_30c, clear_30d, kind0, kind1, kind2, kind3, top0, join5, join11, join12, join14, join16, join24, clear_7C, clear_7C', clear_F0, clear_80, clear_CF, bit7, bit7', checked_instr w.2.2]
theorem rolImmD (s : BitVec 6) (a : BitVec 8) (d : BitVec 8) : Statement (.rolImmD s a d) := by
  intro w
  refine (dec_37 (d) (a) (0x3#2 ++ s)).trans ?_
  simp [hi_17, lo_17, hi_26, lo_26, hi_35, lo_35, hi_44, lo_44, hi_53, lo_53, hi_62, lo_62, hi_71, lo_71, up_152, mid_152, low_152, up_134, mid_134, low_134, up_224, mid_224, low_224, clear_00, clear_F8, clear_C0, clear_FE, clear_30a, clear_30b, clear_30c, clear_30d, kind0, kind1, kind2, kind3, top0, join5, join11, join12, join14, join16, join24, clear_7C, clear_7C', clear_F0, clear_80, clear_CF, bit7, bit7', checked_instr w.2.2]
theorem extN (p : BitVec 6) (a : BitVec 8) (d : BitVec 8) : Statement (.extN p a d) := by
  intro w
  refine (dec_39 (d) (a) (0x0#2 ++ p)).trans ?_
  simp [hi_17, lo_17, hi_26, lo_26, hi_35, lo_35, hi_44, lo_44, hi_53, lo_53, hi_62, lo_62, hi_71, lo_71, up_152, mid_152, low_152, up_134, mid_134, low_134, up_224, mid_224, low_224, clear_00, clear_F8, clear_C0, clear_FE, clear_30a, clear_30b, clear_30c, clear_30d, kind0, kind1, kind2, kind3, top0, join5, join11, join12, join14, join16, join24, clear_7C, clear_7C', clear_F0, clear_80, clear_CF, bit7, bit7', checked_instr w.2.2]
theorem extD (p : BitVec 6) (a : BitVec 8) (d : BitVec 8) : Statement (.extD p a d) := by
  intro w
  refine (dec_3B (d) (a) (0x0#2 ++ p)).trans ?_
  simp [hi_17, lo_17, hi_26, lo_26, hi_35, lo_35, hi_44, lo_44, hi_53, lo_53, hi_62, lo_62, hi_71, lo_71, up_152, mid_152, low_152, up_134, mid_134, low_134, up_224, mid_224, low_224, clear_00, clear_F8, clear_C0, clear_FE, clear_30a, clear_30b, clear_30c, clear_30d, kind0, kind1, kind2, kind3, top0, join5, join11, join12, join14, join16, join24, clear_7C, clear_7C', clear_F0, clear_80, clear_CF, bit7, bit7', checked_instr w.2.2]
theorem insN (p : BitVec 6) (a : BitVec 8) (d : BitVec 8) : Statement (.insN p a d) := by
  intro w
  refine (dec_39 (d) (a) (0x1#2 ++ p)).trans ?_
  simp [hi_17, lo_17, hi_26, lo_26, hi_35, lo_35, hi_44, lo_44, hi_53, lo_53, hi_62, lo_62, hi_71, lo_71, up_152, mid_152, low_152, up_134, mid_134, low_134, up_224, mid_224, low_224, clear_00, clear_F8, clear_C0, clear_FE, clear_30a, clear_30b, clear_30c, clear_30d, kind0, kind1, kind2, kind3, top0, join5, join11, join12, join14, join16, join24, clear_7C, clear_7C', clear_F0, clear_80, clear_CF, bit7, bit7', checked_instr w.2.2]
theorem insD (p : BitVec 6) (a : BitVec 8) (d : BitVec 8) : Statement (.insD p a d) := by
  intro w
  refine (dec_3B (d) (a) (0x1#2 ++ p)).trans ?_
  simp [hi_17, lo_17, hi_26, lo_26, hi_35, lo_35, hi_44, lo_44, hi_53, lo_53, hi_62, lo_62, hi_71, lo_71, up_152, mid_152, low_152, up_134, mid_134, low_134, up_224, mid_224, low_224, clear_00, clear_F8, clear_C0, clear_FE, clear_30a, clear_30b, clear_30c, clear_30d, kind0, kind1, kind2, kind3, top0, join5, join11, join12, join14, join16, join24, clear_7C, clear_7C', clear_F0, clear_80, clear_CF, bit7, bit7', checked_instr w.2.2]
theorem selN (b : BitVec 8) (a : BitVec 8) (d : BitVec 8) : Statement (.selN b a d) := fun w => checked_instr w.2.2
theorem selD (b : BitVec 8) (a : BitVec 8) (d : BitVec 8) : Statement (.selD b a d) := fun w => checked_instr w.2.2
theorem zipN (b : BitVec 8) (a : BitVec 8) (d : BitVec 8) : Statement (.zipN b a d) := fun w => checked_instr w.2.2
theorem zipD (b : BitVec 8) (a : BitVec 8) (d : BitVec 8) : Statement (.zipD b a d) := fun w => checked_instr w.2.2
theorem tdesc (b : BitVec 8) (a : BitVec 8) (d : BitVec 8) : Statement (.tdesc b a d) := fun w => checked_instr w.2.2
theorem tasc (l : BitVec 5) (a : BitVec 8) (d : BitVec 8) : Statement (.tasc l a d) := by
  intro w
  refine (dec_47 (d) (a) (0x0#3 ++ l)).trans ?_
  simp [hi_17, lo_17, hi_26, lo_26, hi_35, lo_35, hi_44, lo_44, hi_53, lo_53, hi_62, lo_62, hi_71, lo_71, up_152, mid_152, low_152, up_134, mid_134, low_134, up_224, mid_224, low_224, clear_00, clear_F8, clear_C0, clear_FE, clear_30a, clear_30b, clear_30c, clear_30d, kind0, kind1, kind2, kind3, top0, join5, join11, join12, join14, join16, join24, clear_7C, clear_7C', clear_F0, clear_80, clear_CF, bit7, bit7', checked_instr w.2.2]
theorem tdig (n : BitVec 5) (a : BitVec 8) (d : BitVec 8) : Statement (.tdig n a d) := by
  intro w
  refine (dec_47 (d) (a) (0x1#3 ++ n)).trans ?_
  simp [hi_17, lo_17, hi_26, lo_26, hi_35, lo_35, hi_44, lo_44, hi_53, lo_53, hi_62, lo_62, hi_71, lo_71, up_152, mid_152, low_152, up_134, mid_134, low_134, up_224, mid_224, low_224, clear_00, clear_F8, clear_C0, clear_FE, clear_30a, clear_30b, clear_30c, clear_30d, kind0, kind1, kind2, kind3, top0, join5, join11, join12, join14, join16, join24, clear_7C, clear_7C', clear_F0, clear_80, clear_CF, bit7, bit7', checked_instr w.2.2]
theorem win (b : BitVec 8) (a : BitVec 8) (d : BitVec 8) : Statement (.win b a d) := fun w => checked_instr w.2.2
theorem jump (o : BitVec 24) : Statement (.jump o) := by
  intro w
  refine (dec_4B (o.extractLsb' 0 8) (o.extractLsb' 8 8) (o.extractLsb' 16 8)).trans ?_
  simp [hi_17, lo_17, hi_26, lo_26, hi_35, lo_35, hi_44, lo_44, hi_53, lo_53, hi_62, lo_62, hi_71, lo_71, up_152, mid_152, low_152, up_134, mid_134, low_134, up_224, mid_224, low_224, clear_00, clear_F8, clear_C0, clear_FE, clear_30a, clear_30b, clear_30c, clear_30d, kind0, kind1, kind2, kind3, top0, join5, join11, join12, join14, join16, join24, clear_7C, clear_7C', clear_F0, clear_80, clear_CF, bit7, bit7', checked_instr w.2.2]
theorem jal (o : BitVec 16) (d : BitVec 8) : Statement (.jal o d) := by
  intro w
  refine (dec_4D (d) (o.extractLsb' 0 8) (o.extractLsb' 8 8)).trans ?_
  simp [hi_17, lo_17, hi_26, lo_26, hi_35, lo_35, hi_44, lo_44, hi_53, lo_53, hi_62, lo_62, hi_71, lo_71, up_152, mid_152, low_152, up_134, mid_134, low_134, up_224, mid_224, low_224, clear_00, clear_F8, clear_C0, clear_FE, clear_30a, clear_30b, clear_30c, clear_30d, kind0, kind1, kind2, kind3, top0, join5, join11, join12, join14, join16, join24, clear_7C, clear_7C', clear_F0, clear_80, clear_CF, bit7, bit7', checked_instr w.2.2]
theorem jr (a : BitVec 8) (d : BitVec 8) : Statement (.jr a d) := by
  intro w
  refine (dec_4F (d) (a) (0x0#8)).trans ?_
  simp [hi_17, lo_17, hi_26, lo_26, hi_35, lo_35, hi_44, lo_44, hi_53, lo_53, hi_62, lo_62, hi_71, lo_71, up_152, mid_152, low_152, up_134, mid_134, low_134, up_224, mid_224, low_224, clear_00, clear_F8, clear_C0, clear_FE, clear_30a, clear_30b, clear_30c, clear_30d, kind0, kind1, kind2, kind3, top0, join5, join11, join12, join14, join16, join24, clear_7C, clear_7C', clear_F0, clear_80, clear_CF, bit7, bit7', (by simpa [Instr.isRet] using w.2.1 : ¬ d = 0x38#8), clear, checked_instr w.2.2]
theorem ret (a : BitVec 8) : Statement (.ret a) := fun w => checked_instr w.2.2
theorem bzN (o : BitVec 14) (d : BitVec 8) : Statement (.bzN o d) := by
  intro w
  refine (dec_51 (d) (o.extractLsb' 0 8) (0x0#2 ++ o.extractLsb' 8 6)).trans ?_
  simp [hi_17, lo_17, hi_26, lo_26, hi_35, lo_35, hi_44, lo_44, hi_53, lo_53, hi_62, lo_62, hi_71, lo_71, up_152, mid_152, low_152, up_134, mid_134, low_134, up_224, mid_224, low_224, clear_00, clear_F8, clear_C0, clear_FE, clear_30a, clear_30b, clear_30c, clear_30d, kind0, kind1, kind2, kind3, top0, join5, join11, join12, join14, join16, join24, clear_7C, clear_7C', clear_F0, clear_80, clear_CF, bit7, bit7', checked_instr w.2.2]
theorem bzD (o : BitVec 14) (d : BitVec 8) : Statement (.bzD o d) := by
  intro w
  refine (dec_53 (d) (o.extractLsb' 0 8) (0x0#2 ++ o.extractLsb' 8 6)).trans ?_
  simp [hi_17, lo_17, hi_26, lo_26, hi_35, lo_35, hi_44, lo_44, hi_53, lo_53, hi_62, lo_62, hi_71, lo_71, up_152, mid_152, low_152, up_134, mid_134, low_134, up_224, mid_224, low_224, clear_00, clear_F8, clear_C0, clear_FE, clear_30a, clear_30b, clear_30c, clear_30d, kind0, kind1, kind2, kind3, top0, join5, join11, join12, join14, join16, join24, clear_7C, clear_7C', clear_F0, clear_80, clear_CF, bit7, bit7', checked_instr w.2.2]
theorem bnzN (o : BitVec 14) (d : BitVec 8) : Statement (.bnzN o d) := by
  intro w
  refine (dec_51 (d) (o.extractLsb' 0 8) (0x1#2 ++ o.extractLsb' 8 6)).trans ?_
  simp [hi_17, lo_17, hi_26, lo_26, hi_35, lo_35, hi_44, lo_44, hi_53, lo_53, hi_62, lo_62, hi_71, lo_71, up_152, mid_152, low_152, up_134, mid_134, low_134, up_224, mid_224, low_224, clear_00, clear_F8, clear_C0, clear_FE, clear_30a, clear_30b, clear_30c, clear_30d, kind0, kind1, kind2, kind3, top0, join5, join11, join12, join14, join16, join24, clear_7C, clear_7C', clear_F0, clear_80, clear_CF, bit7, bit7', checked_instr w.2.2]
theorem bnzD (o : BitVec 14) (d : BitVec 8) : Statement (.bnzD o d) := by
  intro w
  refine (dec_53 (d) (o.extractLsb' 0 8) (0x1#2 ++ o.extractLsb' 8 6)).trans ?_
  simp [hi_17, lo_17, hi_26, lo_26, hi_35, lo_35, hi_44, lo_44, hi_53, lo_53, hi_62, lo_62, hi_71, lo_71, up_152, mid_152, low_152, up_134, mid_134, low_134, up_224, mid_224, low_224, clear_00, clear_F8, clear_C0, clear_FE, clear_30a, clear_30b, clear_30c, clear_30d, kind0, kind1, kind2, kind3, top0, join5, join11, join12, join14, join16, join24, clear_7C, clear_7C', clear_F0, clear_80, clear_CF, bit7, bit7', checked_instr w.2.2]
theorem dbnzN (o : BitVec 14) (d : BitVec 8) : Statement (.dbnzN o d) := by
  intro w
  refine (dec_51 (d) (o.extractLsb' 0 8) (0x2#2 ++ o.extractLsb' 8 6)).trans ?_
  simp [hi_17, lo_17, hi_26, lo_26, hi_35, lo_35, hi_44, lo_44, hi_53, lo_53, hi_62, lo_62, hi_71, lo_71, up_152, mid_152, low_152, up_134, mid_134, low_134, up_224, mid_224, low_224, clear_00, clear_F8, clear_C0, clear_FE, clear_30a, clear_30b, clear_30c, clear_30d, kind0, kind1, kind2, kind3, top0, join5, join11, join12, join14, join16, join24, clear_7C, clear_7C', clear_F0, clear_80, clear_CF, bit7, bit7', checked_instr w.2.2]
theorem dbnzD (o : BitVec 14) (d : BitVec 8) : Statement (.dbnzD o d) := by
  intro w
  refine (dec_53 (d) (o.extractLsb' 0 8) (0x2#2 ++ o.extractLsb' 8 6)).trans ?_
  simp [hi_17, lo_17, hi_26, lo_26, hi_35, lo_35, hi_44, lo_44, hi_53, lo_53, hi_62, lo_62, hi_71, lo_71, up_152, mid_152, low_152, up_134, mid_134, low_134, up_224, mid_224, low_224, clear_00, clear_F8, clear_C0, clear_FE, clear_30a, clear_30b, clear_30c, clear_30d, kind0, kind1, kind2, kind3, top0, join5, join11, join12, join14, join16, join24, clear_7C, clear_7C', clear_F0, clear_80, clear_CF, bit7, bit7', checked_instr w.2.2]
theorem bEq (b : BitVec 8) (a : BitVec 8) (o : BitVec 8) : Statement (.bEq b a o) := fun w => checked_instr w.2.2
theorem bNe (b : BitVec 8) (a : BitVec 8) (o : BitVec 8) : Statement (.bNe b a o) := fun w => checked_instr w.2.2
theorem bLt (b : BitVec 8) (a : BitVec 8) (o : BitVec 8) : Statement (.bLt b a o) := fun w => checked_instr w.2.2
theorem bGe (b : BitVec 8) (a : BitVec 8) (o : BitVec 8) : Statement (.bGe b a o) := fun w => checked_instr w.2.2
theorem bLtu (b : BitVec 8) (a : BitVec 8) (o : BitVec 8) : Statement (.bLtu b a o) := fun w => checked_instr w.2.2
theorem bGeu (b : BitVec 8) (a : BitVec 8) (o : BitVec 8) : Statement (.bGeu b a o) := fun w => checked_instr w.2.2
theorem ldN (o : BitVec 8) (a : BitVec 8) (c : BitVec 4) : Statement (.ldN o a c) := by
  intro w
  refine (dec_61 (c ++ 0x0#4) (a) (o)).trans ?_
  simp [hi_17, lo_17, hi_26, lo_26, hi_35, lo_35, hi_44, lo_44, hi_53, lo_53, hi_62, lo_62, hi_71, lo_71, up_152, mid_152, low_152, up_134, mid_134, low_134, up_224, mid_224, low_224, clear_00, clear_F8, clear_C0, clear_FE, clear_30a, clear_30b, clear_30c, clear_30d, kind0, kind1, kind2, kind3, top0, join5, join11, join12, join14, join16, join24, clear_7C, clear_7C', clear_F0, clear_80, clear_CF, bit7, bit7', checked_instr w.2.2]
theorem ldD (o : BitVec 8) (a : BitVec 8) (c : BitVec 4) : Statement (.ldD o a c) := by
  intro w
  refine (dec_63 (c ++ 0x0#4) (a) (o)).trans ?_
  simp [hi_17, lo_17, hi_26, lo_26, hi_35, lo_35, hi_44, lo_44, hi_53, lo_53, hi_62, lo_62, hi_71, lo_71, up_152, mid_152, low_152, up_134, mid_134, low_134, up_224, mid_224, low_224, clear_00, clear_F8, clear_C0, clear_FE, clear_30a, clear_30b, clear_30c, clear_30d, kind0, kind1, kind2, kind3, top0, join5, join11, join12, join14, join16, join24, clear_7C, clear_7C', clear_F0, clear_80, clear_CF, bit7, bit7', checked_instr w.2.2]
theorem ldfeN (o : BitVec 8) (a : BitVec 8) (c : BitVec 4) : Statement (.ldfeN o a c) := by
  intro w
  refine (dec_61 (c ++ 0x1#4) (a) (o)).trans ?_
  simp [hi_17, lo_17, hi_26, lo_26, hi_35, lo_35, hi_44, lo_44, hi_53, lo_53, hi_62, lo_62, hi_71, lo_71, up_152, mid_152, low_152, up_134, mid_134, low_134, up_224, mid_224, low_224, clear_00, clear_F8, clear_C0, clear_FE, clear_30a, clear_30b, clear_30c, clear_30d, kind0, kind1, kind2, kind3, top0, join5, join11, join12, join14, join16, join24, clear_7C, clear_7C', clear_F0, clear_80, clear_CF, bit7, bit7', checked_instr w.2.2]
theorem ldfeD (o : BitVec 8) (a : BitVec 8) (c : BitVec 4) : Statement (.ldfeD o a c) := by
  intro w
  refine (dec_63 (c ++ 0x1#4) (a) (o)).trans ?_
  simp [hi_17, lo_17, hi_26, lo_26, hi_35, lo_35, hi_44, lo_44, hi_53, lo_53, hi_62, lo_62, hi_71, lo_71, up_152, mid_152, low_152, up_134, mid_134, low_134, up_224, mid_224, low_224, clear_00, clear_F8, clear_C0, clear_FE, clear_30a, clear_30b, clear_30c, clear_30d, kind0, kind1, kind2, kind3, top0, join5, join11, join12, join14, join16, join24, clear_7C, clear_7C', clear_F0, clear_80, clear_CF, bit7, bit7', checked_instr w.2.2]
theorem ldffN (o : BitVec 8) (a : BitVec 8) (c : BitVec 4) : Statement (.ldffN o a c) := by
  intro w
  refine (dec_61 (c ++ 0x2#4) (a) (o)).trans ?_
  simp [hi_17, lo_17, hi_26, lo_26, hi_35, lo_35, hi_44, lo_44, hi_53, lo_53, hi_62, lo_62, hi_71, lo_71, up_152, mid_152, low_152, up_134, mid_134, low_134, up_224, mid_224, low_224, clear_00, clear_F8, clear_C0, clear_FE, clear_30a, clear_30b, clear_30c, clear_30d, kind0, kind1, kind2, kind3, top0, join5, join11, join12, join14, join16, join24, clear_7C, clear_7C', clear_F0, clear_80, clear_CF, bit7, bit7', checked_instr w.2.2]
theorem ldffD (o : BitVec 8) (a : BitVec 8) (c : BitVec 4) : Statement (.ldffD o a c) := by
  intro w
  refine (dec_63 (c ++ 0x2#4) (a) (o)).trans ?_
  simp [hi_17, lo_17, hi_26, lo_26, hi_35, lo_35, hi_44, lo_44, hi_53, lo_53, hi_62, lo_62, hi_71, lo_71, up_152, mid_152, low_152, up_134, mid_134, low_134, up_224, mid_224, low_224, clear_00, clear_F8, clear_C0, clear_FE, clear_30a, clear_30b, clear_30c, clear_30d, kind0, kind1, kind2, kind3, top0, join5, join11, join12, join14, join16, join24, clear_7C, clear_7C', clear_F0, clear_80, clear_CF, bit7, bit7', checked_instr w.2.2]
theorem stN (o : BitVec 8) (a : BitVec 8) (c : BitVec 4) : Statement (.stN o a c) := by
  intro w
  refine (dec_65 (c ++ 0x0#4) (a) (o)).trans ?_
  simp [hi_17, lo_17, hi_26, lo_26, hi_35, lo_35, hi_44, lo_44, hi_53, lo_53, hi_62, lo_62, hi_71, lo_71, up_152, mid_152, low_152, up_134, mid_134, low_134, up_224, mid_224, low_224, clear_00, clear_F8, clear_C0, clear_FE, clear_30a, clear_30b, clear_30c, clear_30d, kind0, kind1, kind2, kind3, top0, join5, join11, join12, join14, join16, join24, clear_7C, clear_7C', clear_F0, clear_80, clear_CF, bit7, bit7', checked_instr w.2.2]
theorem stD (o : BitVec 8) (a : BitVec 8) (c : BitVec 4) : Statement (.stD o a c) := by
  intro w
  refine (dec_67 (c ++ 0x0#4) (a) (o)).trans ?_
  simp [hi_17, lo_17, hi_26, lo_26, hi_35, lo_35, hi_44, lo_44, hi_53, lo_53, hi_62, lo_62, hi_71, lo_71, up_152, mid_152, low_152, up_134, mid_134, low_134, up_224, mid_224, low_224, clear_00, clear_F8, clear_C0, clear_FE, clear_30a, clear_30b, clear_30c, clear_30d, kind0, kind1, kind2, kind3, top0, join5, join11, join12, join14, join16, join24, clear_7C, clear_7C', clear_F0, clear_80, clear_CF, bit7, bit7', checked_instr w.2.2]
theorem stefN (o : BitVec 8) (a : BitVec 8) (c : BitVec 4) : Statement (.stefN o a c) := by
  intro w
  refine (dec_65 (c ++ 0x1#4) (a) (o)).trans ?_
  simp [hi_17, lo_17, hi_26, lo_26, hi_35, lo_35, hi_44, lo_44, hi_53, lo_53, hi_62, lo_62, hi_71, lo_71, up_152, mid_152, low_152, up_134, mid_134, low_134, up_224, mid_224, low_224, clear_00, clear_F8, clear_C0, clear_FE, clear_30a, clear_30b, clear_30c, clear_30d, kind0, kind1, kind2, kind3, top0, join5, join11, join12, join14, join16, join24, clear_7C, clear_7C', clear_F0, clear_80, clear_CF, bit7, bit7', checked_instr w.2.2]
theorem stefD (o : BitVec 8) (a : BitVec 8) (c : BitVec 4) : Statement (.stefD o a c) := by
  intro w
  refine (dec_67 (c ++ 0x1#4) (a) (o)).trans ?_
  simp [hi_17, lo_17, hi_26, lo_26, hi_35, lo_35, hi_44, lo_44, hi_53, lo_53, hi_62, lo_62, hi_71, lo_71, up_152, mid_152, low_152, up_134, mid_134, low_134, up_224, mid_224, low_224, clear_00, clear_F8, clear_C0, clear_FE, clear_30a, clear_30b, clear_30c, clear_30d, kind0, kind1, kind2, kind3, top0, join5, join11, join12, join14, join16, join24, clear_7C, clear_7C', clear_F0, clear_80, clear_CF, bit7, bit7', checked_instr w.2.2]
theorem stffN (o : BitVec 8) (a : BitVec 8) (c : BitVec 4) : Statement (.stffN o a c) := by
  intro w
  refine (dec_65 (c ++ 0x2#4) (a) (o)).trans ?_
  simp [hi_17, lo_17, hi_26, lo_26, hi_35, lo_35, hi_44, lo_44, hi_53, lo_53, hi_62, lo_62, hi_71, lo_71, up_152, mid_152, low_152, up_134, mid_134, low_134, up_224, mid_224, low_224, clear_00, clear_F8, clear_C0, clear_FE, clear_30a, clear_30b, clear_30c, clear_30d, kind0, kind1, kind2, kind3, top0, join5, join11, join12, join14, join16, join24, clear_7C, clear_7C', clear_F0, clear_80, clear_CF, bit7, bit7', checked_instr w.2.2]
theorem stffD (o : BitVec 8) (a : BitVec 8) (c : BitVec 4) : Statement (.stffD o a c) := by
  intro w
  refine (dec_67 (c ++ 0x2#4) (a) (o)).trans ?_
  simp [hi_17, lo_17, hi_26, lo_26, hi_35, lo_35, hi_44, lo_44, hi_53, lo_53, hi_62, lo_62, hi_71, lo_71, up_152, mid_152, low_152, up_134, mid_134, low_134, up_224, mid_224, low_224, clear_00, clear_F8, clear_C0, clear_FE, clear_30a, clear_30b, clear_30c, clear_30d, kind0, kind1, kind2, kind3, top0, join5, join11, join12, join14, join16, join24, clear_7C, clear_7C', clear_F0, clear_80, clear_CF, bit7, bit7', checked_instr w.2.2]
theorem stcN (o : BitVec 8) (a : BitVec 8) (c : BitVec 4) : Statement (.stcN o a c) := by
  intro w
  refine (dec_65 (c ++ 0x3#4) (a) (o)).trans ?_
  simp [hi_17, lo_17, hi_26, lo_26, hi_35, lo_35, hi_44, lo_44, hi_53, lo_53, hi_62, lo_62, hi_71, lo_71, up_152, mid_152, low_152, up_134, mid_134, low_134, up_224, mid_224, low_224, clear_00, clear_F8, clear_C0, clear_FE, clear_30a, clear_30b, clear_30c, clear_30d, kind0, kind1, kind2, kind3, top0, join5, join11, join12, join14, join16, join24, clear_7C, clear_7C', clear_F0, clear_80, clear_CF, bit7, bit7', checked_instr w.2.2]
theorem stcD (o : BitVec 8) (a : BitVec 8) (c : BitVec 4) : Statement (.stcD o a c) := by
  intro w
  refine (dec_67 (c ++ 0x3#4) (a) (o)).trans ?_
  simp [hi_17, lo_17, hi_26, lo_26, hi_35, lo_35, hi_44, lo_44, hi_53, lo_53, hi_62, lo_62, hi_71, lo_71, up_152, mid_152, low_152, up_134, mid_134, low_134, up_224, mid_224, low_224, clear_00, clear_F8, clear_C0, clear_FE, clear_30a, clear_30b, clear_30c, clear_30d, kind0, kind1, kind2, kind3, top0, join5, join11, join12, join14, join16, join24, clear_7C, clear_7C', clear_F0, clear_80, clear_CF, bit7, bit7', checked_instr w.2.2]
theorem cmldN (o : BitVec 8) (a : BitVec 8) : Statement (.cmldN o a) := fun w => checked_instr w.2.2
theorem cmldD (o : BitVec 8) (a : BitVec 8) : Statement (.cmldD o a) := fun w => checked_instr w.2.2
theorem cmstN (o : BitVec 8) (a : BitVec 8) : Statement (.cmstN o a) := fun w => checked_instr w.2.2
theorem cmstD (o : BitVec 8) (a : BitVec 8) : Statement (.cmstD o a) := fun w => checked_instr w.2.2
theorem ldcap (o : BitVec 8) (k : BitVec 4) (c : BitVec 4) : Statement (.ldcap o k c) := by
  intro w
  refine (dec_6D (c ++ 0x0#4) (0x0#4 ++ k) (o)).trans ?_
  simp [hi_17, lo_17, hi_26, lo_26, hi_35, lo_35, hi_44, lo_44, hi_53, lo_53, hi_62, lo_62, hi_71, lo_71, up_152, mid_152, low_152, up_134, mid_134, low_134, up_224, mid_224, low_224, clear_00, clear_F8, clear_C0, clear_FE, clear_30a, clear_30b, clear_30c, clear_30d, kind0, kind1, kind2, kind3, top0, join5, join11, join12, join14, join16, join24, clear_7C, clear_7C', clear_F0, clear_80, clear_CF, bit7, bit7', checked_instr w.2.2]
theorem stcap (o : BitVec 8) (k : BitVec 4) (c : BitVec 4) : Statement (.stcap o k c) := by
  intro w
  refine (dec_6D (c ++ 0x1#4) (0x0#4 ++ k) (o)).trans ?_
  simp [hi_17, lo_17, hi_26, lo_26, hi_35, lo_35, hi_44, lo_44, hi_53, lo_53, hi_62, lo_62, hi_71, lo_71, up_152, mid_152, low_152, up_134, mid_134, low_134, up_224, mid_224, low_224, clear_00, clear_F8, clear_C0, clear_FE, clear_30a, clear_30b, clear_30c, clear_30d, kind0, kind1, kind2, kind3, top0, join5, join11, join12, join14, join16, join24, clear_7C, clear_7C', clear_F0, clear_80, clear_CF, bit7, bit7', checked_instr w.2.2]
theorem spill (l : BitVec 8) (s : BitVec 8) (c : BitVec 4) : Statement (.spill l s c) := by
  intro w
  refine (dec_6F (c ++ 0x0#4) (s) (l)).trans ?_
  simp [hi_17, lo_17, hi_26, lo_26, hi_35, lo_35, hi_44, lo_44, hi_53, lo_53, hi_62, lo_62, hi_71, lo_71, up_152, mid_152, low_152, up_134, mid_134, low_134, up_224, mid_224, low_224, clear_00, clear_F8, clear_C0, clear_FE, clear_30a, clear_30b, clear_30c, clear_30d, kind0, kind1, kind2, kind3, top0, join5, join11, join12, join14, join16, join24, clear_7C, clear_7C', clear_F0, clear_80, clear_CF, bit7, bit7', checked_instr w.2.2]
theorem fill (l : BitVec 8) (s : BitVec 8) (c : BitVec 4) : Statement (.fill l s c) := by
  intro w
  refine (dec_6F (c ++ 0x1#4) (s) (l)).trans ?_
  simp [hi_17, lo_17, hi_26, lo_26, hi_35, lo_35, hi_44, lo_44, hi_53, lo_53, hi_62, lo_62, hi_71, lo_71, up_152, mid_152, low_152, up_134, mid_134, low_134, up_224, mid_224, low_224, clear_00, clear_F8, clear_C0, clear_FE, clear_30a, clear_30b, clear_30c, clear_30d, kind0, kind1, kind2, kind3, top0, join5, join11, join12, join14, join16, join24, clear_7C, clear_7C', clear_F0, clear_80, clear_CF, bit7, bit7', checked_instr w.2.2]
theorem amoAdd (o : BitVec 8) (a : BitVec 8) (c : BitVec 4) : Statement (.amoAdd o a c) := by
  intro w
  refine (dec_71 (c ++ 0x0#4) (a) (o)).trans ?_
  simp [hi_17, lo_17, hi_26, lo_26, hi_35, lo_35, hi_44, lo_44, hi_53, lo_53, hi_62, lo_62, hi_71, lo_71, up_152, mid_152, low_152, up_134, mid_134, low_134, up_224, mid_224, low_224, clear_00, clear_F8, clear_C0, clear_FE, clear_30a, clear_30b, clear_30c, clear_30d, kind0, kind1, kind2, kind3, top0, join5, join11, join12, join14, join16, join24, clear_7C, clear_7C', clear_F0, clear_80, clear_CF, bit7, bit7', checked_instr w.2.2]
theorem amoAnd (o : BitVec 8) (a : BitVec 8) (c : BitVec 4) : Statement (.amoAnd o a c) := by
  intro w
  refine (dec_71 (c ++ 0x1#4) (a) (o)).trans ?_
  simp [hi_17, lo_17, hi_26, lo_26, hi_35, lo_35, hi_44, lo_44, hi_53, lo_53, hi_62, lo_62, hi_71, lo_71, up_152, mid_152, low_152, up_134, mid_134, low_134, up_224, mid_224, low_224, clear_00, clear_F8, clear_C0, clear_FE, clear_30a, clear_30b, clear_30c, clear_30d, kind0, kind1, kind2, kind3, top0, join5, join11, join12, join14, join16, join24, clear_7C, clear_7C', clear_F0, clear_80, clear_CF, bit7, bit7', checked_instr w.2.2]
theorem amoOr (o : BitVec 8) (a : BitVec 8) (c : BitVec 4) : Statement (.amoOr o a c) := by
  intro w
  refine (dec_71 (c ++ 0x2#4) (a) (o)).trans ?_
  simp [hi_17, lo_17, hi_26, lo_26, hi_35, lo_35, hi_44, lo_44, hi_53, lo_53, hi_62, lo_62, hi_71, lo_71, up_152, mid_152, low_152, up_134, mid_134, low_134, up_224, mid_224, low_224, clear_00, clear_F8, clear_C0, clear_FE, clear_30a, clear_30b, clear_30c, clear_30d, kind0, kind1, kind2, kind3, top0, join5, join11, join12, join14, join16, join24, clear_7C, clear_7C', clear_F0, clear_80, clear_CF, bit7, bit7', checked_instr w.2.2]
theorem amoXor (o : BitVec 8) (a : BitVec 8) (c : BitVec 4) : Statement (.amoXor o a c) := by
  intro w
  refine (dec_71 (c ++ 0x3#4) (a) (o)).trans ?_
  simp [hi_17, lo_17, hi_26, lo_26, hi_35, lo_35, hi_44, lo_44, hi_53, lo_53, hi_62, lo_62, hi_71, lo_71, up_152, mid_152, low_152, up_134, mid_134, low_134, up_224, mid_224, low_224, clear_00, clear_F8, clear_C0, clear_FE, clear_30a, clear_30b, clear_30c, clear_30d, kind0, kind1, kind2, kind3, top0, join5, join11, join12, join14, join16, join24, clear_7C, clear_7C', clear_F0, clear_80, clear_CF, bit7, bit7', checked_instr w.2.2]
theorem amoMin (o : BitVec 8) (a : BitVec 8) (c : BitVec 4) : Statement (.amoMin o a c) := by
  intro w
  refine (dec_71 (c ++ 0x4#4) (a) (o)).trans ?_
  simp [hi_17, lo_17, hi_26, lo_26, hi_35, lo_35, hi_44, lo_44, hi_53, lo_53, hi_62, lo_62, hi_71, lo_71, up_152, mid_152, low_152, up_134, mid_134, low_134, up_224, mid_224, low_224, clear_00, clear_F8, clear_C0, clear_FE, clear_30a, clear_30b, clear_30c, clear_30d, kind0, kind1, kind2, kind3, top0, join5, join11, join12, join14, join16, join24, clear_7C, clear_7C', clear_F0, clear_80, clear_CF, bit7, bit7', checked_instr w.2.2]
theorem amoMax (o : BitVec 8) (a : BitVec 8) (c : BitVec 4) : Statement (.amoMax o a c) := by
  intro w
  refine (dec_71 (c ++ 0x5#4) (a) (o)).trans ?_
  simp [hi_17, lo_17, hi_26, lo_26, hi_35, lo_35, hi_44, lo_44, hi_53, lo_53, hi_62, lo_62, hi_71, lo_71, up_152, mid_152, low_152, up_134, mid_134, low_134, up_224, mid_224, low_224, clear_00, clear_F8, clear_C0, clear_FE, clear_30a, clear_30b, clear_30c, clear_30d, kind0, kind1, kind2, kind3, top0, join5, join11, join12, join14, join16, join24, clear_7C, clear_7C', clear_F0, clear_80, clear_CF, bit7, bit7', checked_instr w.2.2]
theorem amoSwap (o : BitVec 8) (a : BitVec 8) (c : BitVec 4) : Statement (.amoSwap o a c) := by
  intro w
  refine (dec_71 (c ++ 0x6#4) (a) (o)).trans ?_
  simp [hi_17, lo_17, hi_26, lo_26, hi_35, lo_35, hi_44, lo_44, hi_53, lo_53, hi_62, lo_62, hi_71, lo_71, up_152, mid_152, low_152, up_134, mid_134, low_134, up_224, mid_224, low_224, clear_00, clear_F8, clear_C0, clear_FE, clear_30a, clear_30b, clear_30c, clear_30d, kind0, kind1, kind2, kind3, top0, join5, join11, join12, join14, join16, join24, clear_7C, clear_7C', clear_F0, clear_80, clear_CF, bit7, bit7', checked_instr w.2.2]
theorem amoCas (o : BitVec 8) (a : BitVec 8) (c : BitVec 4) : Statement (.amoCas o a c) := by
  intro w
  refine (dec_71 (c ++ 0x7#4) (a) (o)).trans ?_
  simp [hi_17, lo_17, hi_26, lo_26, hi_35, lo_35, hi_44, lo_44, hi_53, lo_53, hi_62, lo_62, hi_71, lo_71, up_152, mid_152, low_152, up_134, mid_134, low_134, up_224, mid_224, low_224, clear_00, clear_F8, clear_C0, clear_FE, clear_30a, clear_30b, clear_30c, clear_30d, kind0, kind1, kind2, kind3, top0, join5, join11, join12, join14, join16, join24, clear_7C, clear_7C', clear_F0, clear_80, clear_CF, bit7, bit7', checked_instr w.2.2]
theorem amoFadd (o : BitVec 8) (a : BitVec 8) (c : BitVec 4) : Statement (.amoFadd o a c) := by
  intro w
  refine (dec_71 (c ++ 0x8#4) (a) (o)).trans ?_
  simp [hi_17, lo_17, hi_26, lo_26, hi_35, lo_35, hi_44, lo_44, hi_53, lo_53, hi_62, lo_62, hi_71, lo_71, up_152, mid_152, low_152, up_134, mid_134, low_134, up_224, mid_224, low_224, clear_00, clear_F8, clear_C0, clear_FE, clear_30a, clear_30b, clear_30c, clear_30d, kind0, kind1, kind2, kind3, top0, join5, join11, join12, join14, join16, join24, clear_7C, clear_7C', clear_F0, clear_80, clear_CF, bit7, bit7', checked_instr w.2.2]
theorem amaxRst (o : BitVec 8) (a : BitVec 8) (c : BitVec 4) : Statement (.amaxRst o a c) := by
  intro w
  refine (dec_71 (c ++ 0x9#4) (a) (o)).trans ?_
  simp [hi_17, lo_17, hi_26, lo_26, hi_35, lo_35, hi_44, lo_44, hi_53, lo_53, hi_62, lo_62, hi_71, lo_71, up_152, mid_152, low_152, up_134, mid_134, low_134, up_224, mid_224, low_224, clear_00, clear_F8, clear_C0, clear_FE, clear_30a, clear_30b, clear_30c, clear_30d, kind0, kind1, kind2, kind3, top0, join5, join11, join12, join14, join16, join24, clear_7C, clear_7C', clear_F0, clear_80, clear_CF, bit7, bit7', checked_instr w.2.2]
theorem amoFaddF16 (o : BitVec 8) (a : BitVec 8) (c : BitVec 4) : Statement (.amoFaddF16 o a c) := by
  intro w
  refine (dec_71 (c ++ 0xA#4) (a) (o)).trans ?_
  simp [hi_17, lo_17, hi_26, lo_26, hi_35, lo_35, hi_44, lo_44, hi_53, lo_53, hi_62, lo_62, hi_71, lo_71, up_152, mid_152, low_152, up_134, mid_134, low_134, up_224, mid_224, low_224, clear_00, clear_F8, clear_C0, clear_FE, clear_30a, clear_30b, clear_30c, clear_30d, kind0, kind1, kind2, kind3, top0, join5, join11, join12, join14, join16, join24, clear_7C, clear_7C', clear_F0, clear_80, clear_CF, bit7, bit7', checked_instr w.2.2]
theorem amoAddPost (o : BitVec 8) (a : BitVec 8) (c : BitVec 4) : Statement (.amoAddPost o a c) := by
  intro w
  refine (dec_73 (c ++ 0x0#4) (a) (o)).trans ?_
  simp [hi_17, lo_17, hi_26, lo_26, hi_35, lo_35, hi_44, lo_44, hi_53, lo_53, hi_62, lo_62, hi_71, lo_71, up_152, mid_152, low_152, up_134, mid_134, low_134, up_224, mid_224, low_224, clear_00, clear_F8, clear_C0, clear_FE, clear_30a, clear_30b, clear_30c, clear_30d, kind0, kind1, kind2, kind3, top0, join5, join11, join12, join14, join16, join24, clear_7C, clear_7C', clear_F0, clear_80, clear_CF, bit7, bit7', checked_instr w.2.2]
theorem amoAndPost (o : BitVec 8) (a : BitVec 8) (c : BitVec 4) : Statement (.amoAndPost o a c) := by
  intro w
  refine (dec_73 (c ++ 0x1#4) (a) (o)).trans ?_
  simp [hi_17, lo_17, hi_26, lo_26, hi_35, lo_35, hi_44, lo_44, hi_53, lo_53, hi_62, lo_62, hi_71, lo_71, up_152, mid_152, low_152, up_134, mid_134, low_134, up_224, mid_224, low_224, clear_00, clear_F8, clear_C0, clear_FE, clear_30a, clear_30b, clear_30c, clear_30d, kind0, kind1, kind2, kind3, top0, join5, join11, join12, join14, join16, join24, clear_7C, clear_7C', clear_F0, clear_80, clear_CF, bit7, bit7', checked_instr w.2.2]
theorem amoOrPost (o : BitVec 8) (a : BitVec 8) (c : BitVec 4) : Statement (.amoOrPost o a c) := by
  intro w
  refine (dec_73 (c ++ 0x2#4) (a) (o)).trans ?_
  simp [hi_17, lo_17, hi_26, lo_26, hi_35, lo_35, hi_44, lo_44, hi_53, lo_53, hi_62, lo_62, hi_71, lo_71, up_152, mid_152, low_152, up_134, mid_134, low_134, up_224, mid_224, low_224, clear_00, clear_F8, clear_C0, clear_FE, clear_30a, clear_30b, clear_30c, clear_30d, kind0, kind1, kind2, kind3, top0, join5, join11, join12, join14, join16, join24, clear_7C, clear_7C', clear_F0, clear_80, clear_CF, bit7, bit7', checked_instr w.2.2]
theorem amoXorPost (o : BitVec 8) (a : BitVec 8) (c : BitVec 4) : Statement (.amoXorPost o a c) := by
  intro w
  refine (dec_73 (c ++ 0x3#4) (a) (o)).trans ?_
  simp [hi_17, lo_17, hi_26, lo_26, hi_35, lo_35, hi_44, lo_44, hi_53, lo_53, hi_62, lo_62, hi_71, lo_71, up_152, mid_152, low_152, up_134, mid_134, low_134, up_224, mid_224, low_224, clear_00, clear_F8, clear_C0, clear_FE, clear_30a, clear_30b, clear_30c, clear_30d, kind0, kind1, kind2, kind3, top0, join5, join11, join12, join14, join16, join24, clear_7C, clear_7C', clear_F0, clear_80, clear_CF, bit7, bit7', checked_instr w.2.2]
theorem amoMinPost (o : BitVec 8) (a : BitVec 8) (c : BitVec 4) : Statement (.amoMinPost o a c) := by
  intro w
  refine (dec_73 (c ++ 0x4#4) (a) (o)).trans ?_
  simp [hi_17, lo_17, hi_26, lo_26, hi_35, lo_35, hi_44, lo_44, hi_53, lo_53, hi_62, lo_62, hi_71, lo_71, up_152, mid_152, low_152, up_134, mid_134, low_134, up_224, mid_224, low_224, clear_00, clear_F8, clear_C0, clear_FE, clear_30a, clear_30b, clear_30c, clear_30d, kind0, kind1, kind2, kind3, top0, join5, join11, join12, join14, join16, join24, clear_7C, clear_7C', clear_F0, clear_80, clear_CF, bit7, bit7', checked_instr w.2.2]
theorem amoMaxPost (o : BitVec 8) (a : BitVec 8) (c : BitVec 4) : Statement (.amoMaxPost o a c) := by
  intro w
  refine (dec_73 (c ++ 0x5#4) (a) (o)).trans ?_
  simp [hi_17, lo_17, hi_26, lo_26, hi_35, lo_35, hi_44, lo_44, hi_53, lo_53, hi_62, lo_62, hi_71, lo_71, up_152, mid_152, low_152, up_134, mid_134, low_134, up_224, mid_224, low_224, clear_00, clear_F8, clear_C0, clear_FE, clear_30a, clear_30b, clear_30c, clear_30d, kind0, kind1, kind2, kind3, top0, join5, join11, join12, join14, join16, join24, clear_7C, clear_7C', clear_F0, clear_80, clear_CF, bit7, bit7', checked_instr w.2.2]
theorem amoSwapPost (o : BitVec 8) (a : BitVec 8) (c : BitVec 4) : Statement (.amoSwapPost o a c) := by
  intro w
  refine (dec_73 (c ++ 0x6#4) (a) (o)).trans ?_
  simp [hi_17, lo_17, hi_26, lo_26, hi_35, lo_35, hi_44, lo_44, hi_53, lo_53, hi_62, lo_62, hi_71, lo_71, up_152, mid_152, low_152, up_134, mid_134, low_134, up_224, mid_224, low_224, clear_00, clear_F8, clear_C0, clear_FE, clear_30a, clear_30b, clear_30c, clear_30d, kind0, kind1, kind2, kind3, top0, join5, join11, join12, join14, join16, join24, clear_7C, clear_7C', clear_F0, clear_80, clear_CF, bit7, bit7', checked_instr w.2.2]
theorem amoFaddPost (o : BitVec 8) (a : BitVec 8) (c : BitVec 4) : Statement (.amoFaddPost o a c) := by
  intro w
  refine (dec_73 (c ++ 0x8#4) (a) (o)).trans ?_
  simp [hi_17, lo_17, hi_26, lo_26, hi_35, lo_35, hi_44, lo_44, hi_53, lo_53, hi_62, lo_62, hi_71, lo_71, up_152, mid_152, low_152, up_134, mid_134, low_134, up_224, mid_224, low_224, clear_00, clear_F8, clear_C0, clear_FE, clear_30a, clear_30b, clear_30c, clear_30d, kind0, kind1, kind2, kind3, top0, join5, join11, join12, join14, join16, join24, clear_7C, clear_7C', clear_F0, clear_80, clear_CF, bit7, bit7', checked_instr w.2.2]
theorem amoFaddF16Post (o : BitVec 8) (a : BitVec 8) (c : BitVec 4) : Statement (.amoFaddF16Post o a c) := by
  intro w
  refine (dec_73 (c ++ 0xA#4) (a) (o)).trans ?_
  simp [hi_17, lo_17, hi_26, lo_26, hi_35, lo_35, hi_44, lo_44, hi_53, lo_53, hi_62, lo_62, hi_71, lo_71, up_152, mid_152, low_152, up_134, mid_134, low_134, up_224, mid_224, low_224, clear_00, clear_F8, clear_C0, clear_FE, clear_30a, clear_30b, clear_30c, clear_30d, kind0, kind1, kind2, kind3, top0, join5, join11, join12, join14, join16, join24, clear_7C, clear_7C', clear_F0, clear_80, clear_CF, bit7, bit7', checked_instr w.2.2]
theorem lapp (o : BitVec 8) (a : BitVec 8) (c : BitVec 4) : Statement (.lapp o a c) := by
  intro w
  refine (dec_75 (c ++ 0x0#4) (a) (o)).trans ?_
  simp [hi_17, lo_17, hi_26, lo_26, hi_35, lo_35, hi_44, lo_44, hi_53, lo_53, hi_62, lo_62, hi_71, lo_71, up_152, mid_152, low_152, up_134, mid_134, low_134, up_224, mid_224, low_224, clear_00, clear_F8, clear_C0, clear_FE, clear_30a, clear_30b, clear_30c, clear_30d, kind0, kind1, kind2, kind3, top0, join5, join11, join12, join14, join16, join24, clear_7C, clear_7C', clear_F0, clear_80, clear_CF, bit7, bit7', checked_instr w.2.2]
theorem lmerge (d : BitVec 8) (c : BitVec 4) : Statement (.lmerge d c) := by
  intro w
  refine (dec_75 (c ++ 0x1#4) (d) (0x38#8)).trans ?_
  simp [hi_17, lo_17, hi_26, lo_26, hi_35, lo_35, hi_44, lo_44, hi_53, lo_53, hi_62, lo_62, hi_71, lo_71, up_152, mid_152, low_152, up_134, mid_134, low_134, up_224, mid_224, low_224, clear_00, clear_F8, clear_C0, clear_FE, clear_30a, clear_30b, clear_30c, clear_30d, kind0, kind1, kind2, kind3, top0, join5, join11, join12, join14, join16, join24, clear_7C, clear_7C', clear_F0, clear_80, clear_CF, bit7, bit7', checked_instr w.2.2]
theorem spnext (b : BitVec 8) (a : BitVec 8) (d : BitVec 8) : Statement (.spnext b a d) := fun w => checked_instr w.2.2
theorem tbegin (o : BitVec 16) : Statement (.tbegin o) := by
  intro w
  refine (dec_79 (0x0#8) (o.extractLsb' 0 8) (o.extractLsb' 8 8)).trans ?_
  simp [hi_17, lo_17, hi_26, lo_26, hi_35, lo_35, hi_44, lo_44, hi_53, lo_53, hi_62, lo_62, hi_71, lo_71, up_152, mid_152, low_152, up_134, mid_134, low_134, up_224, mid_224, low_224, clear_00, clear_F8, clear_C0, clear_FE, clear_30a, clear_30b, clear_30c, clear_30d, kind0, kind1, kind2, kind3, top0, join5, join11, join12, join14, join16, join24, clear_7C, clear_7C', clear_F0, clear_80, clear_CF, bit7, bit7', checked_instr w.2.2]
theorem orelse (o : BitVec 16) : Statement (.orelse o) := by
  intro w
  refine (dec_7B (0x0#8) (o.extractLsb' 0 8) (o.extractLsb' 8 8)).trans ?_
  simp [hi_17, lo_17, hi_26, lo_26, hi_35, lo_35, hi_44, lo_44, hi_53, lo_53, hi_62, lo_62, hi_71, lo_71, up_152, mid_152, low_152, up_134, mid_134, low_134, up_224, mid_224, low_224, clear_00, clear_F8, clear_C0, clear_FE, clear_30a, clear_30b, clear_30c, clear_30d, kind0, kind1, kind2, kind3, top0, join5, join11, join12, join14, join16, join24, clear_7C, clear_7C', clear_F0, clear_80, clear_CF, bit7, bit7', checked_instr w.2.2]
theorem tend : Statement .tend := fun w => checked_instr w.2.2
theorem retry : Statement .retry := fun w => checked_instr w.2.2
theorem tabort (i : BitVec 8) : Statement (.tabort i) := fun w => checked_instr w.2.2
theorem tstat (d : BitVec 8) : Statement (.tstat d) := fun w => checked_instr w.2.2
theorem tenq (b : BitVec 8) (a : BitVec 8) (d : BitVec 6) : Statement (.tenq b a d) := by
  intro w
  refine (dec_85 (0x2#2 ++ d) (a) (b)).trans ?_
  simp [hi_17, lo_17, hi_26, lo_26, hi_35, lo_35, hi_44, lo_44, hi_53, lo_53, hi_62, lo_62, hi_71, lo_71, up_152, mid_152, low_152, up_134, mid_134, low_134, up_224, mid_224, low_224, clear_00, clear_F8, clear_C0, clear_FE, clear_30a, clear_30b, clear_30c, clear_30d, kind0, kind1, kind2, kind3, top0, join5, join11, join12, join14, join16, join24, clear_7C, clear_7C', clear_F0, clear_80, clear_CF, bit7, bit7', checked_instr w.2.2]
theorem hspawn (b : BitVec 8) (a : BitVec 8) (d : BitVec 8) : Statement (.hspawn b a d) := fun w => checked_instr w.2.2
theorem hexit : Statement .hexit := fun w => checked_instr w.2.2
theorem mig (a : BitVec 8) : Statement (.mig a) := fun w => checked_instr w.2.2
theorem amsg (o : BitVec 8) (a : BitVec 8) (c : BitVec 4) (h : BitVec 4) : Statement (.amsg o a c h) := by
  intro w
  refine (dec_8D (c ++ h) (a) (o)).trans ?_
  simp [hi_17, lo_17, hi_26, lo_26, hi_35, lo_35, hi_44, lo_44, hi_53, lo_53, hi_62, lo_62, hi_71, lo_71, up_152, mid_152, low_152, up_134, mid_134, low_134, up_224, mid_224, low_224, clear_00, clear_F8, clear_C0, clear_FE, clear_30a, clear_30b, clear_30c, clear_30d, kind0, kind1, kind2, kind3, top0, join5, join11, join12, join14, join16, join24, clear_7C, clear_7C', clear_F0, clear_80, clear_CF, bit7, bit7', checked_instr w.2.2]
theorem sbind (k : BitVec 2) (a : BitVec 8) : Statement (.sbind k a) := by
  intro w
  refine (dec_8F (0x0#8) (a) (0x0#6 ++ k)).trans ?_
  simp [hi_17, lo_17, hi_26, lo_26, hi_35, lo_35, hi_44, lo_44, hi_53, lo_53, hi_62, lo_62, hi_71, lo_71, up_152, mid_152, low_152, up_134, mid_134, low_134, up_224, mid_224, low_224, clear_00, clear_F8, clear_C0, clear_FE, clear_30a, clear_30b, clear_30c, clear_30d, kind0, kind1, kind2, kind3, top0, join5, join11, join12, join14, join16, join24, clear_7C, clear_7C', clear_F0, clear_80, clear_CF, bit7, bit7', checked_instr w.2.2]
theorem sbindOff (k : BitVec 2) : Statement (.sbindOff k) := by
  intro w
  refine (dec_8F (0x0#8) (0x0#8) (0x20#6 ++ k)).trans ?_
  simp [hi_17, lo_17, hi_26, lo_26, hi_35, lo_35, hi_44, lo_44, hi_53, lo_53, hi_62, lo_62, hi_71, lo_71, up_152, mid_152, low_152, up_134, mid_134, low_134, up_224, mid_224, low_224, clear_00, clear_F8, clear_C0, clear_FE, clear_30a, clear_30b, clear_30c, clear_30d, kind0, kind1, kind2, kind3, top0, join5, join11, join12, join14, join16, join24, clear_7C, clear_7C', clear_F0, clear_80, clear_CF, bit7, bit7', checked_instr w.2.2]
theorem vadd (b : BitVec 8) (a : BitVec 8) (d : BitVec 8) : Statement (.vadd b a d) := fun w => checked_instr w.2.2
theorem vsub (b : BitVec 8) (a : BitVec 8) (d : BitVec 8) : Statement (.vsub b a d) := fun w => checked_instr w.2.2
theorem vmul (b : BitVec 8) (a : BitVec 8) (d : BitVec 8) : Statement (.vmul b a d) := fun w => checked_instr w.2.2
theorem vfma (b : BitVec 8) (a : BitVec 8) (d : BitVec 8) : Statement (.vfma b a d) := fun w => checked_instr w.2.2
theorem vmin (b : BitVec 8) (a : BitVec 8) (d : BitVec 8) : Statement (.vmin b a d) := fun w => checked_instr w.2.2
theorem vmax (b : BitVec 8) (a : BitVec 8) (d : BitVec 8) : Statement (.vmax b a d) := fun w => checked_instr w.2.2
theorem vabs (a : BitVec 8) (d : BitVec 8) : Statement (.vabs a d) := fun w => checked_instr w.2.2
theorem vneg (a : BitVec 8) (d : BitVec 8) : Statement (.vneg a d) := fun w => checked_instr w.2.2
theorem vpopc (a : BitVec 8) (d : BitVec 8) : Statement (.vpopc a d) := fun w => checked_instr w.2.2
theorem vand (b : BitVec 8) (a : BitVec 8) (d : BitVec 8) : Statement (.vand b a d) := fun w => checked_instr w.2.2
theorem vor (b : BitVec 8) (a : BitVec 8) (d : BitVec 8) : Statement (.vor b a d) := fun w => checked_instr w.2.2
theorem vxor (b : BitVec 8) (a : BitVec 8) (d : BitVec 8) : Statement (.vxor b a d) := fun w => checked_instr w.2.2
theorem vshl (b : BitVec 8) (a : BitVec 8) (d : BitVec 8) : Statement (.vshl b a d) := fun w => checked_instr w.2.2
theorem vshr (b : BitVec 8) (a : BitVec 8) (d : BitVec 8) : Statement (.vshr b a d) := fun w => checked_instr w.2.2
theorem vcmp (b : BitVec 8) (a : BitVec 8) (d : BitVec 8) : Statement (.vcmp b a d) := fun w => checked_instr w.2.2
theorem vsel (b : BitVec 8) (a : BitVec 8) (d : BitVec 8) : Statement (.vsel b a d) := fun w => checked_instr w.2.2
theorem vcvt (r : BitVec 3) (s : BitVec 4) (a : BitVec 8) (d : BitVec 8) : Statement (.vcvt r s a d) := by
  intro w
  refine (dec_AD (d) (a) (0x0#1 ++ r ++ s)).trans ?_
  simp [hi_17, lo_17, hi_26, lo_26, hi_35, lo_35, hi_44, lo_44, hi_53, lo_53, hi_62, lo_62, hi_71, lo_71, up_152, mid_152, low_152, up_134, mid_134, low_134, up_224, mid_224, low_224, clear_00, clear_F8, clear_C0, clear_FE, clear_30a, clear_30b, clear_30c, clear_30d, kind0, kind1, kind2, kind3, top0, clear_7C, clear_7C', clear_F0, clear_80, clear_CF, bit7, bit7', checked_instr w.2.2]
theorem vred (o : BitVec 2) (a : BitVec 8) (d : BitVec 8) : Statement (.vred o a d) := by
  intro w
  refine (dec_AF (d) (a) (0x0#2 ++ o ++ 0x0#4)).trans ?_
  simp [mid_224, clear_CF, checked_instr w.2.2]
theorem vperm (b : BitVec 8) (a : BitVec 8) (d : BitVec 8) : Statement (.vperm b a d) := fun w => checked_instr w.2.2
theorem vbcast (s : BitVec 8) (d : BitVec 8) : Statement (.vbcast s d) := fun w => checked_instr w.2.2
theorem vcomp (b : BitVec 8) (a : BitVec 8) (d : BitVec 8) : Statement (.vcomp b a d) := fun w => checked_instr w.2.2
theorem visect (b : BitVec 8) (a : BitVec 8) (d : BitVec 8) : Statement (.visect b a d) := fun w => checked_instr w.2.2
theorem vexp (b : BitVec 8) (a : BitVec 8) (d : BitVec 8) : Statement (.vexp b a d) := fun w => checked_instr w.2.2
theorem vdot (b : BitVec 8) (a : BitVec 8) (d : BitVec 8) : Statement (.vdot b a d) := fun w => checked_instr w.2.2
theorem vld (o : BitVec 8) (d : BitVec 8) (c : BitVec 4) : Statement (.vld o d c) := by
  intro w
  refine (dec_BD (c ++ 0x0#4) (d) (o)).trans ?_
  simp [hi_17, lo_17, hi_26, lo_26, hi_35, lo_35, hi_44, lo_44, hi_53, lo_53, hi_62, lo_62, hi_71, lo_71, up_152, mid_152, low_152, up_134, mid_134, low_134, up_224, mid_224, low_224, clear_00, clear_F8, clear_C0, clear_FE, clear_30a, clear_30b, clear_30c, clear_30d, kind0, kind1, kind2, kind3, top0, join5, join11, join12, join14, join16, join24, clear_7C, clear_7C', clear_F0, clear_80, clear_CF, bit7, bit7', checked_instr w.2.2]
theorem vst (o : BitVec 8) (d : BitVec 8) (c : BitVec 4) : Statement (.vst o d c) := by
  intro w
  refine (dec_BD (c ++ 0x1#4) (d) (o)).trans ?_
  simp [hi_17, lo_17, hi_26, lo_26, hi_35, lo_35, hi_44, lo_44, hi_53, lo_53, hi_62, lo_62, hi_71, lo_71, up_152, mid_152, low_152, up_134, mid_134, low_134, up_224, mid_224, low_224, clear_00, clear_F8, clear_C0, clear_FE, clear_30a, clear_30b, clear_30c, clear_30d, kind0, kind1, kind2, kind3, top0, join5, join11, join12, join14, join16, join24, clear_7C, clear_7C', clear_F0, clear_80, clear_CF, bit7, bit7', checked_instr w.2.2]
theorem vgat (i : BitVec 8) (d : BitVec 8) (c : BitVec 4) : Statement (.vgat i d c) := by
  intro w
  refine (dec_BF (c ++ 0x0#4) (d) (i)).trans ?_
  simp [hi_17, lo_17, hi_26, lo_26, hi_35, lo_35, hi_44, lo_44, hi_53, lo_53, hi_62, lo_62, hi_71, lo_71, up_152, mid_152, low_152, up_134, mid_134, low_134, up_224, mid_224, low_224, clear_00, clear_F8, clear_C0, clear_FE, clear_30a, clear_30b, clear_30c, clear_30d, kind0, kind1, kind2, kind3, top0, join5, join11, join12, join14, join16, join24, clear_7C, clear_7C', clear_F0, clear_80, clear_CF, bit7, bit7', checked_instr w.2.2]
theorem vsct (i : BitVec 8) (d : BitVec 8) (c : BitVec 4) : Statement (.vsct i d c) := by
  intro w
  refine (dec_BF (c ++ 0x1#4) (d) (i)).trans ?_
  simp [hi_17, lo_17, hi_26, lo_26, hi_35, lo_35, hi_44, lo_44, hi_53, lo_53, hi_62, lo_62, hi_71, lo_71, up_152, mid_152, low_152, up_134, mid_134, low_134, up_224, mid_224, low_224, clear_00, clear_F8, clear_C0, clear_FE, clear_30a, clear_30b, clear_30c, clear_30d, kind0, kind1, kind2, kind3, top0, join5, join11, join12, join14, join16, join24, clear_7C, clear_7C', clear_F0, clear_80, clear_CF, bit7, bit7', checked_instr w.2.2]
theorem mclaim (f : BitVec 6) (d : BitVec 8) : Statement (.mclaim f d) := by
  intro w
  refine (dec_C1 (d) (0x0#8) (0x0#2 ++ f)).trans ?_
  simp [hi_17, lo_17, hi_26, lo_26, hi_35, lo_35, hi_44, lo_44, hi_53, lo_53, hi_62, lo_62, hi_71, lo_71, up_152, mid_152, low_152, up_134, mid_134, low_134, up_224, mid_224, low_224, clear_00, clear_F8, clear_C0, clear_FE, clear_30a, clear_30b, clear_30c, clear_30d, kind0, kind1, kind2, kind3, top0, join5, join11, join12, join14, join16, join24, clear_7C, clear_7C', clear_F0, clear_80, clear_CF, bit7, bit7', checked_instr w.2.2]
theorem mrel (a : BitVec 8) : Statement (.mrel a) := fun w => checked_instr w.2.2
theorem mfill (b : BitVec 8) (a : BitVec 8) : Statement (.mfill b a) := fun w => checked_instr w.2.2
theorem mscale (b : BitVec 8) (a : BitVec 8) : Statement (.mscale b a) := fun w => checked_instr w.2.2
theorem mmac (n : BitVec 1) (a : BitVec 8) : Statement (.mmac n a) := by
  intro w
  refine (dec_C9 (0x0#8) (a) (0x0#7 ++ n)).trans ?_
  simp [hi_17, lo_17, hi_26, lo_26, hi_35, lo_35, hi_44, lo_44, hi_53, lo_53, hi_62, lo_62, hi_71, lo_71, up_152, mid_152, low_152, up_134, mid_134, low_134, up_224, mid_224, low_224, clear_00, clear_F8, clear_C0, clear_FE, clear_30a, clear_30b, clear_30c, clear_30d, kind0, kind1, kind2, kind3, top0, join5, join11, join12, join14, join16, join24, clear_7C, clear_7C', clear_F0, clear_80, clear_CF, bit7, bit7', checked_instr w.2.2]
theorem mmask (b : BitVec 8) (a : BitVec 8) : Statement (.mmask b a) := fun w => checked_instr w.2.2
theorem maccRd (b : BitVec 8) (a : BitVec 8) (v : BitVec 4) : Statement (.maccRd b a v) := by
  intro w
  refine (dec_CD (0x8#4 ++ v) (a) (b)).trans ?_
  simp [hi_17, lo_17, hi_26, lo_26, hi_35, lo_35, hi_44, lo_44, hi_53, lo_53, hi_62, lo_62, hi_71, lo_71, up_152, mid_152, low_152, up_134, mid_134, low_134, up_224, mid_224, low_224, clear_00, clear_F8, clear_C0, clear_FE, clear_30a, clear_30b, clear_30c, clear_30d, kind0, kind1, kind2, kind3, top0, join5, join11, join12, join14, join16, join24, clear_7C, clear_7C', clear_F0, clear_80, clear_CF, bit7, bit7', checked_instr w.2.2]
theorem maccClr (n : BitVec 1) : Statement (.maccClr n) := by
  intro w
  refine (dec_CF (0x0#8) (0x0#8) (0x0#7 ++ n)).trans ?_
  simp [hi_17, lo_17, hi_26, lo_26, hi_35, lo_35, hi_44, lo_44, hi_53, lo_53, hi_62, lo_62, hi_71, lo_71, up_152, mid_152, low_152, up_134, mid_134, low_134, up_224, mid_224, low_224, clear_00, clear_F8, clear_C0, clear_FE, clear_30a, clear_30b, clear_30c, clear_30d, kind0, kind1, kind2, kind3, top0, join5, join11, join12, join14, join16, join24, clear_7C, clear_7C', clear_F0, clear_80, clear_CF, bit7, bit7', checked_instr w.2.2]
theorem msemP (k : BitVec 3) : Statement (.msemP k) := by
  intro w
  refine (dec_D1 (0x0#8) (0x0#8) (0x0#5 ++ k)).trans ?_
  simp [hi_17, lo_17, hi_26, lo_26, hi_35, lo_35, hi_44, lo_44, hi_53, lo_53, hi_62, lo_62, hi_71, lo_71, up_152, mid_152, low_152, up_134, mid_134, low_134, up_224, mid_224, low_224, clear_00, clear_F8, clear_C0, clear_FE, clear_30a, clear_30b, clear_30c, clear_30d, kind0, kind1, kind2, kind3, top0, join5, join11, join12, join14, join16, join24, clear_7C, clear_7C', clear_F0, clear_80, clear_CF, bit7, bit7', checked_instr w.2.2]
theorem msemV (k : BitVec 3) : Statement (.msemV k) := by
  intro w
  refine (dec_D3 (0x0#8) (0x0#8) (0x0#5 ++ k)).trans ?_
  simp [hi_17, lo_17, hi_26, lo_26, hi_35, lo_35, hi_44, lo_44, hi_53, lo_53, hi_62, lo_62, hi_71, lo_71, up_152, mid_152, low_152, up_134, mid_134, low_134, up_224, mid_224, low_224, clear_00, clear_F8, clear_C0, clear_FE, clear_30a, clear_30b, clear_30c, clear_30d, kind0, kind1, kind2, kind3, top0, join5, join11, join12, join14, join16, join24, clear_7C, clear_7C', clear_F0, clear_80, clear_CF, bit7, bit7', checked_instr w.2.2]
theorem chadv (a : BitVec 8) : Statement (.chadv a) := fun w => checked_instr w.2.2
theorem publish (a : BitVec 8) : Statement (.publish a) := fun w => checked_instr w.2.2
theorem cder (s : BitVec 8) (a : BitVec 4) (d : BitVec 4) : Statement (.cder s a d) := by
  intro w
  refine (dec_E1 (0x0#4 ++ d) (0x0#4 ++ a) (s)).trans ?_
  simp [hi_17, lo_17, hi_26, lo_26, hi_35, lo_35, hi_44, lo_44, hi_53, lo_53, hi_62, lo_62, hi_71, lo_71, up_152, mid_152, low_152, up_134, mid_134, low_134, up_224, mid_224, low_224, clear_00, clear_F8, clear_C0, clear_FE, clear_30a, clear_30b, clear_30c, clear_30d, kind0, kind1, kind2, kind3, top0, join5, join11, join12, join14, join16, join24, clear_7C, clear_7C', clear_F0, clear_80, clear_CF, bit7, bit7', checked_instr w.2.2]
theorem cbnd (s : BitVec 8) (a : BitVec 4) (d : BitVec 4) : Statement (.cbnd s a d) := by
  intro w
  refine (dec_E3 (0x0#4 ++ d) (0x0#4 ++ a) (s)).trans ?_
  simp [hi_17, lo_17, hi_26, lo_26, hi_35, lo_35, hi_44, lo_44, hi_53, lo_53, hi_62, lo_62, hi_71, lo_71, up_152, mid_152, low_152, up_134, mid_134, low_134, up_224, mid_224, low_224, clear_00, clear_F8, clear_C0, clear_FE, clear_30a, clear_30b, clear_30c, clear_30d, kind0, kind1, kind2, kind3, top0, join5, join11, join12, join14, join16, join24, clear_7C, clear_7C', clear_F0, clear_80, clear_CF, bit7, bit7', checked_instr w.2.2]
theorem cperm (s : BitVec 8) (a : BitVec 4) (d : BitVec 4) : Statement (.cperm s a d) := by
  intro w
  refine (dec_E5 (0x0#4 ++ d) (0x0#4 ++ a) (s)).trans ?_
  simp [hi_17, lo_17, hi_26, lo_26, hi_35, lo_35, hi_44, lo_44, hi_53, lo_53, hi_62, lo_62, hi_71, lo_71, up_152, mid_152, low_152, up_134, mid_134, low_134, up_224, mid_224, low_224, clear_00, clear_F8, clear_C0, clear_FE, clear_30a, clear_30b, clear_30c, clear_30d, kind0, kind1, kind2, kind3, top0, join5, join11, join12, join14, join16, join24, clear_7C, clear_7C', clear_F0, clear_80, clear_CF, bit7, bit7', checked_instr w.2.2]
theorem cseal (s : BitVec 8) (b : BitVec 4) (a : BitVec 4) (d : BitVec 4) : Statement (.cseal s b a d) := by
  intro w
  refine (dec_E7 (0x0#4 ++ d) (b ++ a) (s)).trans ?_
  simp [hi_17, lo_17, hi_26, lo_26, hi_35, lo_35, hi_44, lo_44, hi_53, lo_53, hi_62, lo_62, hi_71, lo_71, up_152, mid_152, low_152, up_134, mid_134, low_134, up_224, mid_224, low_224, clear_00, clear_F8, clear_C0, clear_FE, clear_30a, clear_30b, clear_30c, clear_30d, kind0, kind1, kind2, kind3, top0, join5, join11, join12, join14, join16, join24, clear_7C, clear_7C', clear_F0, clear_80, clear_CF, bit7, bit7', checked_instr w.2.2]
theorem cunseal (b : BitVec 4) (a : BitVec 4) (d : BitVec 4) : Statement (.cunseal b a d) := by
  intro w
  refine (dec_E9 (0x0#4 ++ d) (b ++ a) (0x0#8)).trans ?_
  simp [hi_17, lo_17, hi_26, lo_26, hi_35, lo_35, hi_44, lo_44, hi_53, lo_53, hi_62, lo_62, hi_71, lo_71, up_152, mid_152, low_152, up_134, mid_134, low_134, up_224, mid_224, low_224, clear_00, clear_F8, clear_C0, clear_FE, clear_30a, clear_30b, clear_30c, clear_30d, kind0, kind1, kind2, kind3, top0, join5, join11, join12, join14, join16, join24, clear_7C, clear_7C', clear_F0, clear_80, clear_CF, bit7, bit7', checked_instr w.2.2]
theorem cget (s : BitVec 8) (l : BitVec 4) (a : BitVec 4) : Statement (.cget s l a) := by
  intro w
  refine (dec_EB (0x0#8) (l ++ a) (s)).trans ?_
  simp [hi_17, lo_17, hi_26, lo_26, hi_35, lo_35, hi_44, lo_44, hi_53, lo_53, hi_62, lo_62, hi_71, lo_71, up_152, mid_152, low_152, up_134, mid_134, low_134, up_224, mid_224, low_224, clear_00, clear_F8, clear_C0, clear_FE, clear_30a, clear_30b, clear_30c, clear_30d, kind0, kind1, kind2, kind3, top0, join5, join11, join12, join14, join16, join24, clear_7C, clear_7C', clear_F0, clear_80, clear_CF, bit7, bit7', checked_instr w.2.2]
theorem cmov (a : BitVec 4) (d : BitVec 4) : Statement (.cmov a d) := by
  intro w
  refine (dec_ED (0x0#4 ++ d) (0x0#4 ++ a) (0x0#8)).trans ?_
  simp [hi_17, lo_17, hi_26, lo_26, hi_35, lo_35, hi_44, lo_44, hi_53, lo_53, hi_62, lo_62, hi_71, lo_71, up_152, mid_152, low_152, up_134, mid_134, low_134, up_224, mid_224, low_224, clear_00, clear_F8, clear_C0, clear_FE, clear_30a, clear_30b, clear_30c, clear_30d, kind0, kind1, kind2, kind3, top0, join5, join11, join12, join14, join16, join24, clear_7C, clear_7C', clear_F0, clear_80, clear_CF, bit7, bit7', checked_instr w.2.2]
theorem ecall (i : BitVec 8) : Statement (.ecall i) := fun w => checked_instr w.2.2
theorem ebreak : Statement .ebreak := fun w => checked_instr w.2.2
theorem tret : Statement .tret := fun w => checked_instr w.2.2
theorem rinv (b : BitVec 8) (a : BitVec 8) : Statement (.rinv b a) := fun w => checked_instr w.2.2
theorem fenceCell : Statement .fenceCell := fun w => checked_instr w.2.2
theorem fenceTile : Statement .fenceTile := fun w => checked_instr w.2.2
theorem fenceSector : Statement .fenceSector := fun w => checked_instr w.2.2
theorem fenceStack : Statement .fenceStack := fun w => checked_instr w.2.2
theorem fenceDomain : Statement .fenceDomain := fun w => checked_instr w.2.2
theorem csrr (n : BitVec 12) (d : BitVec 8) : Statement (.csrr n d) := by
  intro w
  refine (dec_FB (d) (n.extractLsb' 0 8) (0x0#4 ++ n.extractLsb' 8 4)).trans ?_
  simp [hi_17, lo_17, hi_26, lo_26, hi_35, lo_35, hi_44, lo_44, hi_53, lo_53, hi_62, lo_62, hi_71, lo_71, up_152, mid_152, low_152, up_134, mid_134, low_134, up_224, mid_224, low_224, clear_00, clear_F8, clear_C0, clear_FE, clear_30a, clear_30b, clear_30c, clear_30d, kind0, kind1, kind2, kind3, top0, join5, join11, join12, join14, join16, join24, clear_7C, clear_7C', clear_F0, clear_80, clear_CF, bit7, bit7', checked_instr w.2.2]
theorem csrw (n : BitVec 12) (d : BitVec 8) : Statement (.csrw n d) := by
  intro w
  refine (dec_FB (d) (n.extractLsb' 0 8) (0x4#4 ++ n.extractLsb' 8 4)).trans ?_
  simp [hi_17, lo_17, hi_26, lo_26, hi_35, lo_35, hi_44, lo_44, hi_53, lo_53, hi_62, lo_62, hi_71, lo_71, up_152, mid_152, low_152, up_134, mid_134, low_134, up_224, mid_224, low_224, clear_00, clear_F8, clear_C0, clear_FE, clear_30a, clear_30b, clear_30c, clear_30d, kind0, kind1, kind2, kind3, top0, join5, join11, join12, join14, join16, join24, clear_7C, clear_7C', clear_F0, clear_80, clear_CF, bit7, bit7', checked_instr w.2.2]
theorem csrs (n : BitVec 12) (d : BitVec 8) : Statement (.csrs n d) := by
  intro w
  refine (dec_FB (d) (n.extractLsb' 0 8) (0x8#4 ++ n.extractLsb' 8 4)).trans ?_
  simp [hi_17, lo_17, hi_26, lo_26, hi_35, lo_35, hi_44, lo_44, hi_53, lo_53, hi_62, lo_62, hi_71, lo_71, up_152, mid_152, low_152, up_134, mid_134, low_134, up_224, mid_224, low_224, clear_00, clear_F8, clear_C0, clear_FE, clear_30a, clear_30b, clear_30c, clear_30d, kind0, kind1, kind2, kind3, top0, join5, join11, join12, join14, join16, join24, clear_7C, clear_7C', clear_F0, clear_80, clear_CF, bit7, bit7', checked_instr w.2.2]
theorem csrc (n : BitVec 12) (d : BitVec 8) : Statement (.csrc n d) := by
  intro w
  refine (dec_FB (d) (n.extractLsb' 0 8) (0xC#4 ++ n.extractLsb' 8 4)).trans ?_
  simp [hi_17, lo_17, hi_26, lo_26, hi_35, lo_35, hi_44, lo_44, hi_53, lo_53, hi_62, lo_62, hi_71, lo_71, up_152, mid_152, low_152, up_134, mid_134, low_134, up_224, mid_224, low_224, clear_00, clear_F8, clear_C0, clear_FE, clear_30a, clear_30b, clear_30c, clear_30d, kind0, kind1, kind2, kind3, top0, join5, join11, join12, join14, join16, join24, clear_7C, clear_7C', clear_F0, clear_80, clear_CF, bit7, bit7', checked_instr w.2.2]
theorem movC (h : BitVec 5) (g : BitVec 5) : Statement (.movC h g) := by
  intro w
  refine (dec_half (g.extractLsb' 0 3 ++ 0x2#5) (0x0#1 ++ h ++ g.extractLsb' 3 2) (by rw [low_bit]; rfl)).trans ?_
  simp [decode16, fieldG, fieldH, field6, field11, major16, hi_17, lo_17, hi_26, lo_26, hi_35, lo_35, hi_44, lo_44, hi_53, lo_53, hi_62, lo_62, hi_71, lo_71, up_152, mid_152, low_152, up_134, mid_134, low_134, up_224, mid_224, low_224, clear_00, clear_F8, clear_C0, clear_FE, clear_30a, clear_30b, clear_30c, clear_30d, kind0, kind1, kind2, kind3, top0, top_app, topBit, join5, join11, clear_h, checked_instr w.2.2]
theorem addC (h : BitVec 5) (g : BitVec 5) : Statement (.addC h g) := by
  intro w
  refine (dec_half (g.extractLsb' 0 3 ++ 0x4#5) (0x0#1 ++ h ++ g.extractLsb' 3 2) (by rw [low_bit]; rfl)).trans ?_
  simp [decode16, fieldG, fieldH, field6, field11, major16, hi_17, lo_17, hi_26, lo_26, hi_35, lo_35, hi_44, lo_44, hi_53, lo_53, hi_62, lo_62, hi_71, lo_71, up_152, mid_152, low_152, up_134, mid_134, low_134, up_224, mid_224, low_224, clear_00, clear_F8, clear_C0, clear_FE, clear_30a, clear_30b, clear_30c, clear_30d, kind0, kind1, kind2, kind3, top0, top_app, topBit, join5, join11, clear_h, checked_instr w.2.2]
theorem subC (h : BitVec 5) (g : BitVec 5) : Statement (.subC h g) := by
  intro w
  refine (dec_half (g.extractLsb' 0 3 ++ 0x6#5) (0x0#1 ++ h ++ g.extractLsb' 3 2) (by rw [low_bit]; rfl)).trans ?_
  simp [decode16, fieldG, fieldH, field6, field11, major16, hi_17, lo_17, hi_26, lo_26, hi_35, lo_35, hi_44, lo_44, hi_53, lo_53, hi_62, lo_62, hi_71, lo_71, up_152, mid_152, low_152, up_134, mid_134, low_134, up_224, mid_224, low_224, clear_00, clear_F8, clear_C0, clear_FE, clear_30a, clear_30b, clear_30c, clear_30d, kind0, kind1, kind2, kind3, top0, top_app, topBit, join5, join11, clear_h, checked_instr w.2.2]
theorem andC (h : BitVec 5) (g : BitVec 5) : Statement (.andC h g) := by
  intro w
  refine (dec_half (g.extractLsb' 0 3 ++ 0x8#5) (0x0#1 ++ h ++ g.extractLsb' 3 2) (by rw [low_bit]; rfl)).trans ?_
  simp [decode16, fieldG, fieldH, field6, field11, major16, hi_17, lo_17, hi_26, lo_26, hi_35, lo_35, hi_44, lo_44, hi_53, lo_53, hi_62, lo_62, hi_71, lo_71, up_152, mid_152, low_152, up_134, mid_134, low_134, up_224, mid_224, low_224, clear_00, clear_F8, clear_C0, clear_FE, clear_30a, clear_30b, clear_30c, clear_30d, kind0, kind1, kind2, kind3, top0, top_app, topBit, join5, join11, clear_h, checked_instr w.2.2]
theorem orC (h : BitVec 5) (g : BitVec 5) : Statement (.orC h g) := by
  intro w
  refine (dec_half (g.extractLsb' 0 3 ++ 0xA#5) (0x0#1 ++ h ++ g.extractLsb' 3 2) (by rw [low_bit]; rfl)).trans ?_
  simp [decode16, fieldG, fieldH, field6, field11, major16, hi_17, lo_17, hi_26, lo_26, hi_35, lo_35, hi_44, lo_44, hi_53, lo_53, hi_62, lo_62, hi_71, lo_71, up_152, mid_152, low_152, up_134, mid_134, low_134, up_224, mid_224, low_224, clear_00, clear_F8, clear_C0, clear_FE, clear_30a, clear_30b, clear_30c, clear_30d, kind0, kind1, kind2, kind3, top0, top_app, topBit, join5, join11, clear_h, checked_instr w.2.2]
theorem xorC (h : BitVec 5) (g : BitVec 5) : Statement (.xorC h g) := by
  intro w
  refine (dec_half (g.extractLsb' 0 3 ++ 0xC#5) (0x0#1 ++ h ++ g.extractLsb' 3 2) (by rw [low_bit]; rfl)).trans ?_
  simp [decode16, fieldG, fieldH, field6, field11, major16, hi_17, lo_17, hi_26, lo_26, hi_35, lo_35, hi_44, lo_44, hi_53, lo_53, hi_62, lo_62, hi_71, lo_71, up_152, mid_152, low_152, up_134, mid_134, low_134, up_224, mid_224, low_224, clear_00, clear_F8, clear_C0, clear_FE, clear_30a, clear_30b, clear_30c, clear_30d, kind0, kind1, kind2, kind3, top0, top_app, topBit, join5, join11, clear_h, checked_instr w.2.2]
theorem liC (i : BitVec 6) (g : BitVec 5) : Statement (.liC i g) := by
  intro w
  refine (dec_half (g.extractLsb' 0 3 ++ 0xE#5) (i ++ g.extractLsb' 3 2) (by rw [low_bit]; rfl)).trans ?_
  simp [decode16, fieldG, fieldH, field6, field11, major16, hi_17, lo_17, hi_26, lo_26, hi_35, lo_35, hi_44, lo_44, hi_53, lo_53, hi_62, lo_62, hi_71, lo_71, up_152, mid_152, low_152, up_134, mid_134, low_134, up_224, mid_224, low_224, clear_00, clear_F8, clear_C0, clear_FE, clear_30a, clear_30b, clear_30c, clear_30d, kind0, kind1, kind2, kind3, top0, top_app, topBit, join5, join11, clear_h, checked_instr w.2.2]
theorem shlC (a : BitVec 5) (g : BitVec 5) : Statement (.shlC a g) := by
  intro w
  refine (dec_half (g.extractLsb' 0 3 ++ 0x10#5) (0x0#1 ++ a ++ g.extractLsb' 3 2) (by rw [low_bit]; rfl)).trans ?_
  simp [decode16, fieldG, fieldH, field6, field11, major16, hi_17, lo_17, hi_26, lo_26, hi_35, lo_35, hi_44, lo_44, hi_53, lo_53, hi_62, lo_62, hi_71, lo_71, up_152, mid_152, low_152, up_134, mid_134, low_134, up_224, mid_224, low_224, clear_00, clear_F8, clear_C0, clear_FE, clear_30a, clear_30b, clear_30c, clear_30d, kind0, kind1, kind2, kind3, top0, top_app, topBit, join5, join11, clear_h, checked_instr w.2.2]
theorem shrC (a : BitVec 5) (g : BitVec 5) : Statement (.shrC a g) := by
  intro w
  refine (dec_half (g.extractLsb' 0 3 ++ 0x10#5) (0x1#1 ++ a ++ g.extractLsb' 3 2) (by rw [low_bit]; rfl)).trans ?_
  simp [decode16, fieldG, fieldH, field6, field11, major16, hi_17, lo_17, hi_26, lo_26, hi_35, lo_35, hi_44, lo_44, hi_53, lo_53, hi_62, lo_62, hi_71, lo_71, up_152, mid_152, low_152, up_134, mid_134, low_134, up_224, mid_224, low_224, clear_00, clear_F8, clear_C0, clear_FE, clear_30a, clear_30b, clear_30c, clear_30d, kind0, kind1, kind2, kind3, top0, top_app, topBit, join5, join11, clear_h, checked_instr w.2.2]
theorem bzC (o : BitVec 6) (g : BitVec 5) : Statement (.bzC o g) := by
  intro w
  refine (dec_half (g.extractLsb' 0 3 ++ 0x12#5) (o ++ g.extractLsb' 3 2) (by rw [low_bit]; rfl)).trans ?_
  simp [decode16, fieldG, fieldH, field6, field11, major16, hi_17, lo_17, hi_26, lo_26, hi_35, lo_35, hi_44, lo_44, hi_53, lo_53, hi_62, lo_62, hi_71, lo_71, up_152, mid_152, low_152, up_134, mid_134, low_134, up_224, mid_224, low_224, clear_00, clear_F8, clear_C0, clear_FE, clear_30a, clear_30b, clear_30c, clear_30d, kind0, kind1, kind2, kind3, top0, top_app, topBit, join5, join11, clear_h, checked_instr w.2.2]
theorem bnzC (o : BitVec 6) (g : BitVec 5) : Statement (.bnzC o g) := by
  intro w
  refine (dec_half (g.extractLsb' 0 3 ++ 0x14#5) (o ++ g.extractLsb' 3 2) (by rw [low_bit]; rfl)).trans ?_
  simp [decode16, fieldG, fieldH, field6, field11, major16, hi_17, lo_17, hi_26, lo_26, hi_35, lo_35, hi_44, lo_44, hi_53, lo_53, hi_62, lo_62, hi_71, lo_71, up_152, mid_152, low_152, up_134, mid_134, low_134, up_224, mid_224, low_224, clear_00, clear_F8, clear_C0, clear_FE, clear_30a, clear_30b, clear_30c, clear_30d, kind0, kind1, kind2, kind3, top0, top_app, topBit, join5, join11, clear_h, checked_instr w.2.2]
theorem jC (o : BitVec 11) : Statement (.jC o) := by
  intro w
  refine (dec_half (o.extractLsb' 0 3 ++ 0x16#5) (o.extractLsb' 3 8) (by rw [low_bit]; rfl)).trans ?_
  simp [decode16, fieldG, fieldH, field6, field11, major16, hi_17, lo_17, hi_26, lo_26, hi_35, lo_35, hi_44, lo_44, hi_53, lo_53, hi_62, lo_62, hi_71, lo_71, up_152, mid_152, low_152, up_134, mid_134, low_134, up_224, mid_224, low_224, clear_00, clear_F8, clear_C0, clear_FE, clear_30a, clear_30b, clear_30c, clear_30d, kind0, kind1, kind2, kind3, top0, top_app, topBit, join5, join11, clear_h, checked_instr w.2.2]
theorem ldC (s : BitVec 1) (h : BitVec 5) (g : BitVec 5) : Statement (.ldC s h g) := by
  intro w
  refine (dec_half (g.extractLsb' 0 3 ++ 0x18#5) (s ++ h ++ g.extractLsb' 3 2) (by rw [low_bit]; rfl)).trans ?_
  simp [decode16, fieldG, fieldH, field6, field11, major16, hi_17, lo_17, hi_26, lo_26, hi_35, lo_35, hi_44, lo_44, hi_53, lo_53, hi_62, lo_62, hi_71, lo_71, up_152, mid_152, low_152, up_134, mid_134, low_134, up_224, mid_224, low_224, clear_00, clear_F8, clear_C0, clear_FE, clear_30a, clear_30b, clear_30c, clear_30d, kind0, kind1, kind2, kind3, top0, top_app, topBit, join5, join11, clear_h, checked_instr w.2.2]
theorem stC (s : BitVec 1) (h : BitVec 5) (g : BitVec 5) : Statement (.stC s h g) := by
  intro w
  refine (dec_half (g.extractLsb' 0 3 ++ 0x1A#5) (s ++ h ++ g.extractLsb' 3 2) (by rw [low_bit]; rfl)).trans ?_
  simp [decode16, fieldG, fieldH, field6, field11, major16, hi_17, lo_17, hi_26, lo_26, hi_35, lo_35, hi_44, lo_44, hi_53, lo_53, hi_62, lo_62, hi_71, lo_71, up_152, mid_152, low_152, up_134, mid_134, low_134, up_224, mid_224, low_224, clear_00, clear_F8, clear_C0, clear_FE, clear_30a, clear_30b, clear_30c, clear_30d, kind0, kind1, kind2, kind3, top0, top_app, topBit, join5, join11, clear_h, checked_instr w.2.2]
theorem tendC : Statement .tendC := fun w => checked_instr w.2.2
theorem retryC : Statement .retryC := fun w => checked_instr w.2.2
theorem hexitC : Statement .hexitC := fun w => checked_instr w.2.2
theorem dbgStep (h : BitVec 22) : Statement (.dbgStep h) := fun w => absurd w.1 Bool.false_ne_true
theorem deposit (q : Bool) (p : Nat) : Statement (.deposit q p) := fun w => absurd w.1 Bool.false_ne_true
theorem wake (h : BitVec 22) : Statement (.wake h) := fun w => absurd w.1 Bool.false_ne_true
theorem waitLimit (h : BitVec 22) : Statement (.waitLimit h) := fun w => absurd w.1 Bool.false_ne_true
theorem interruptTake (h : BitVec 22) : Statement (.interruptTake h) := fun w => absurd w.1 Bool.false_ne_true
theorem timer (h : BitVec 22) : Statement (.timer h) := fun w => absurd w.1 Bool.false_ne_true
theorem hipiSoft (h : BitVec 22) (target : BitVec 22) : Statement (.hipiSoft h target) := fun w => absurd w.1 Bool.false_ne_true
theorem hipiPreempt (h : BitVec 22) (target : BitVec 22) : Statement (.hipiPreempt h target) := fun w => absurd w.1 Bool.false_ne_true
theorem ipiDelivery (i : Nat) : Statement (.ipiDelivery i) := fun w => absurd w.1 Bool.false_ne_true
theorem messageLand (i : Nat) : Statement (.messageLand i) := fun w => absurd w.1 Bool.false_ne_true
theorem migrationDepart (h : BitVec 22) : Statement (.migrationDepart h) := fun w => absurd w.1 Bool.false_ne_true
theorem migrationArrive (h : BitVec 22) : Statement (.migrationArrive h) := fun w => absurd w.1 Bool.false_ne_true
theorem slotRelease (h : BitVec 22) : Statement (.slotRelease h) := fun w => absurd w.1 Bool.false_ne_true
theorem accessPerform (r : Nat) (also : List Nat) : Statement (.accessPerform r also) := fun w => absurd w.1 Bool.false_ne_true
theorem remoteStoreApply (r : Nat) : Statement (.remoteStoreApply r) := fun w => absurd w.1 Bool.false_ne_true
theorem commonsApply (cell : BitVec 18) : Statement (.commonsApply cell) := fun w => absurd w.1 Bool.false_ne_true
theorem mergeStationRelease (rs : List Nat) : Statement (.mergeStationRelease rs) := fun w => absurd w.1 Bool.false_ne_true
theorem waypointReinject (i : Nat) : Statement (.waypointReinject i) := fun w => absurd w.1 Bool.false_ne_true
theorem txnCommitPoint (h : BitVec 22) : Statement (.txnCommitPoint h) := fun w => absurd w.1 Bool.false_ne_true
theorem txnAbort (h : BitVec 22) : Statement (.txnAbort h) := fun w => absurd w.1 Bool.false_ne_true
theorem taskArrive (i : Nat) : Statement (.taskArrive i) := fun w => absurd w.1 Bool.false_ne_true
theorem taskStart (tile : BitVec 13) : Statement (.taskStart tile) := fun w => absurd w.1 Bool.false_ne_true
theorem frontierReport (n : BitVec 4) : Statement (.frontierReport n) := fun w => absurd w.1 Bool.false_ne_true
theorem taskCommit (h : BitVec 22) : Statement (.taskCommit h) := fun w => absurd w.1 Bool.false_ne_true
theorem taskRollback (h : BitVec 22) : Statement (.taskRollback h) := fun w => absurd w.1 Bool.false_ne_true
theorem amsgHandlerStart (cell : BitVec 18) : Statement (.amsgHandlerStart cell) := fun w => absurd w.1 Bool.false_ne_true
theorem fillEnd (tile : BitVec 13) (i : Nat) : Statement (.fillEnd tile i) := fun w => absurd w.1 Bool.false_ne_true
theorem msemVApply (tile : BitVec 13) (i : Nat) : Statement (.msemVApply tile i) := fun w => absurd w.1 Bool.false_ne_true
theorem mmacEnd (tile : BitVec 13) : Statement (.mmacEnd tile) := fun w => absurd w.1 Bool.false_ne_true
theorem maccClrRun (tile : BitVec 13) : Statement (.maccClrRun tile) := fun w => absurd w.1 Bool.false_ne_true
theorem maccRdRun (tile : BitVec 13) : Statement (.maccRdRun tile) := fun w => absurd w.1 Bool.false_ne_true
theorem commandFetch (tile : BitVec 13) (eng : Bool) : Statement (.commandFetch tile eng) := fun w => absurd w.1 Bool.false_ne_true
theorem copyCommand (tile : BitVec 13) : Statement (.copyCommand tile) := fun w => absurd w.1 Bool.false_ne_true
theorem quantizeCommand (tile : BitVec 13) : Statement (.quantizeCommand tile) := fun w => absurd w.1 Bool.false_ne_true
theorem walk (h : BitVec 22) : Statement (.walk h) := fun w => absurd w.1 Bool.false_ne_true
theorem atsCompletion (h : BitVec 22) (r : Bool) (w : Bool) : Statement (.atsCompletion h r w) := fun w => absurd w.1 Bool.false_ne_true
theorem priResponse (h : BitVec 22) (ok : Bool) : Statement (.priResponse h ok) := fun w => absurd w.1 Bool.false_ne_true
theorem hostInvalidate (pasid : BitVec 20) (page : Nat) (pages : Nat) : Statement (.hostInvalidate pasid page pages) := fun w => absurd w.1 Bool.false_ne_true
theorem mboxWrite (off : BitVec 12) (v : Option (BitVec 64)) : Statement (.mboxWrite off v) := fun w => absurd w.1 Bool.false_ne_true
theorem mbovfClear (v : BitVec 64) : Statement (.mbovfClear v) := fun w => absurd w.1 Bool.false_ne_true
theorem registerWrite (off : BitVec 14) (v : BitVec 64) : Statement (.registerWrite off v) := fun w => absurd w.1 Bool.false_ne_true
theorem pmOpen : Statement .pmOpen := fun w => absurd w.1 Bool.false_ne_true
theorem pmClose : Statement .pmClose := fun w => absurd w.1 Bool.false_ne_true
theorem pmFence : Statement .pmFence := fun w => absurd w.1 Bool.false_ne_true
theorem pmUnfence : Statement .pmUnfence := fun w => absurd w.1 Bool.false_ne_true
theorem pmSpanOpen : Statement .pmSpanOpen := fun w => absurd w.1 Bool.false_ne_true
theorem pmSpanClose : Statement .pmSpanClose := fun w => absurd w.1 Bool.false_ne_true
theorem traceCopy (n : BitVec 4) : Statement (.traceCopy n) := fun w => absurd w.1 Bool.false_ne_true
theorem leaderElection (d : BitVec 6) : Statement (.leaderElection d) := fun w => absurd w.1 Bool.false_ne_true
theorem tamperStop (key : BitVec 5) : Statement (.tamperStop key) := fun w => absurd w.1 Bool.false_ne_true
theorem keyExchange : Statement .keyExchange := fun w => absurd w.1 Bool.false_ne_true
theorem ideKm : Statement .ideKm := fun w => absurd w.1 Bool.false_ne_true
theorem lockInterfaceRequest : Statement .lockInterfaceRequest := fun w => absurd w.1 Bool.false_ne_true
theorem startInterfaceRequest (nonce : BitVec 256) : Statement (.startInterfaceRequest nonce) := fun w => absurd w.1 Bool.false_ne_true
theorem stopInterfaceRequest : Statement .stopInterfaceRequest := fun w => absurd w.1 Bool.false_ne_true
theorem flr : Statement .flr := fun w => absurd w.1 Bool.false_ne_true
theorem quiesce : Statement .quiesce := fun w => absurd w.1 Bool.false_ne_true
theorem quiesceDrainDone : Statement .quiesceDrainDone := fun w => absurd w.1 Bool.false_ne_true
theorem resume : Statement .resume := fun w => absurd w.1 Bool.false_ne_true
theorem configWrite : Statement .configWrite := fun w => absurd w.1 Bool.false_ne_true
theorem ideIntegrityFailure : Statement .ideIntegrityFailure := fun w => absurd w.1 Bool.false_ne_true
theorem getDeviceInterfaceReport : Statement .getDeviceInterfaceReport := fun w => absurd w.1 Bool.false_ne_true
theorem getMeasurements (sign : Bool) : Statement (.getMeasurements sign) := fun w => absurd w.1 Bool.false_ne_true
theorem getBootStatus : Statement .getBootStatus := fun w => absurd w.1 Bool.false_ne_true
theorem provisioningToken (ok : Bool) (dev : BitVec 256) (ctr : Nat) (provider : BitVec 256) : Statement (.provisioningToken ok dev ctr provider) := fun w => absurd w.1 Bool.false_ne_true
theorem leaseStartToken (ok : Bool) (dev : BitVec 256) (ctr : Nat) : Statement (.leaseStartToken ok dev ctr) := fun w => absurd w.1 Bool.false_ne_true
theorem leaseEndToken (ok : Bool) (dev : BitVec 256) (ctr : Nat) : Statement (.leaseEndToken ok dev ctr) := fun w => absurd w.1 Bool.false_ne_true
theorem retireToken (ok : Bool) (dev : BitVec 256) (ctr : Nat) : Statement (.retireToken ok dev ctr) := fun w => absurd w.1 Bool.false_ne_true
theorem recoveryMessage (ok : Bool) (ctr : Nat) : Statement (.recoveryMessage ok ctr) := fun w => absurd w.1 Bool.false_ne_true
theorem startScrub (ok : Bool) (dev : BitVec 256) (ctr : Nat) : Statement (.startScrub ok dev ctr) := fun w => absurd w.1 Bool.false_ne_true
theorem leaseScrubComplete (clean : Bool) : Statement (.leaseScrubComplete clean) := fun w => absurd w.1 Bool.false_ne_true
theorem getScrubRecord : Statement .getScrubRecord := fun w => absurd w.1 Bool.false_ne_true
theorem activate (tenant : Bool) : Statement (.activate tenant) := fun w => absurd w.1 Bool.false_ne_true
theorem activationCommit : Statement .activationCommit := fun w => absurd w.1 Bool.false_ne_true
theorem deviceReset : Statement .deviceReset := fun w => absurd w.1 Bool.false_ne_true
theorem hbmTrainingComplete (die : BitVec 6) (stack : BitVec 1) (failed : Option (BitVec 32)) :
    Statement (.hbmTrainingComplete die stack failed) := fun w => absurd w.1 Bool.false_ne_true
theorem dieStart (die : BitVec 6) : Statement (.dieStart die) := fun w => absurd w.1 Bool.false_ne_true
theorem bfctlLock : Statement .bfctlLock := fun w => absurd w.1 Bool.false_ne_true
theorem bfctlTenwr (v : Bool) : Statement (.bfctlTenwr v) := fun w => absurd w.1 Bool.false_ne_true
theorem failmapWrite (i : BitVec 7) (v : BitVec 32) : Statement (.failmapWrite i v) := fun w => absurd w.1 Bool.false_ne_true
theorem rowActivation (bank : Nat) (row : Nat) : Statement (.rowActivation bank row) := fun w => absurd w.1 Bool.false_ne_true
theorem refreshWindow : Statement .refreshWindow := fun w => absurd w.1 Bool.false_ne_true
theorem scrubLine (stack : BitVec 7) : Statement (.scrubLine stack) := fun w => absurd w.1 Bool.false_ne_true
theorem scrubDeadline (stack : BitVec 7) : Statement (.scrubDeadline stack) := fun w => absurd w.1 Bool.false_ne_true
theorem fullServiceSwitch : Statement .fullServiceSwitch := fun w => absurd w.1 Bool.false_ne_true
theorem illegal (word : BitVec 32) (kind : BitVec 3) (site : BitVec 3) : Statement (.illegal word kind site) := fun w => absurd w.1 Bool.false_ne_true
theorem pmBadArg : Statement .pmBadArg := fun w => absurd w.1 Bool.false_ne_true
theorem activationAbandoned : Statement .activationAbandoned := fun w => absurd w.1 Bool.false_ne_true
theorem linkReset : Statement .linkReset := fun w => absurd w.1 Bool.false_ne_true
theorem sessionEnd : Statement .sessionEnd := fun w => absurd w.1 Bool.false_ne_true
theorem acknowledgement (h : BitVec 22) : Statement (.acknowledgement h) := fun w => absurd w.1 Bool.false_ne_true

end Sys2Proof.Laws.Encoding
end

