-- ==== Sys2Proof/Tests/Slice0.lean ====
section
/-! SUPPORT. Tests: ill-formed words, decodings of words written out from the spec, steps on small states, and a state
and operands that meet the hypotheses of each statement. -/

namespace Sys2Proof.Tests

set_option Elab.async false

open Sys2Proof Sys2Proof.Machine Sys2Proof.Safety Sys2Proof.Claims

/-! ### Words -/

/-- One term for each check of R144 on the operands of a word (0x3A is tx, 0x3B st0, 0x3F hid, 0x38 zr, 0x39 rx). -/
theorem test_ill_formed : ∀ i ∈ [Instr.addN 0x80 0x3A 0x80, .addN 0x3A 0x80 0x80, .addN 0x80 0x80 0x3B, .addN 0x80 0x80 0x3F,
    .selN 0x80 0x80 0x3A, .shlRegN 0x80 0x3A, .mulhN 0x3A 0x80, .cmpEqN 0x80 0x3F, .movZxN 0x3A 0x80, .jr 0x80 0x3B,
    .ret 0x3A, .liN 0 0x3F, .jal 0 0x3B, .tstat 0x3B, .shlImmN 0 0x3A 0x80, .extN 0 0x80 0x3B, .tasc 0 0x80 0x3F,
    .insN 0 0x80 0x3A, .bzN 0 0x3A, .dbnzN 0 0x3B, .bEq 0x3A 0x80 0, .bEq 0x80 0x3A 0], ¬WellFormed i := by decide

theorem test_ill_formed_memory : ∀ i ∈ [Instr.ldN 0x80 0x39 0, .ldN 0x3A 0x80 0, .stN 0x80 0x3A 0, .stefN 0x3A 0x80 0,
    .cmldN 0x80 0x39, .cmstN 0x80 0x3A, .ldcap 0x3A 0 0, .stcap 0x3A 0 0, .amoAdd 0x80 0x40 0, .amoAdd 0x80 0xB9 0,
    .amoCas 0x80 0xB8 0, .amoFadd 0x80 0xC0 0, .amoFaddF16 0x80 0x80 0, .amoAddPost 0x80 0x40 0, .lapp 0x80 0xBA 0,
    .amoFaddPost 0x80 0xC0 0, .amoFaddF16Post 0x80 0x80 0, .lmerge 0x39 0, .tenq 0x80 0x80 56, .mig 0x3A,
    .amsg 0x80 0x39 0 0, .hspawn 0x80 0x80 0x3A, .spnext 0x80 0x80 0x3B], ¬WellFormed i := by decide

theorem test_ill_formed_other : ∀ i ∈ [Instr.vadd 0x40 0x40 0x00, .vadd 0x10 0x10 0xB0, .vmin 0x10 0x00 0x00,
    .vabs 0x10 0x00, .vpopc 0x80 0xA0, .vand 0x80 0x80 0xB0, .vshl 0x80 0x80 0xA0, .vcmp 0xA0 0x90 0x80,
    .vcvt 5 0 0x80 0x80, .vcvt 0 1 0x80 0x80, .vred 3 0x80 0x80, .vbcast 0x80 0xB0, .vbcast 0x3A 0x80,
    .visect 0x80 0x80 0x40, .vdot 0xC0 0x00 0x80, .vld 0x80 0xA0 0, .vgat 0x80 0x90 0, .vsct 0xC0 0x80 0, .mclaim 31 0x80,
    .mclaim 32 0x3B, .mfill 0x3A 0x80, .rinv 0x80 0x3A, .cder 0x3A 0 0, .cget 0x80 11 0, .cget 0x3B 0 0, .csrr 8 0x80,
    .csrr 0 0x3F, .csrw 0 0x3A, .csrw 0x208 0x80, .pmOpen, .wake 0], ¬WellFormed i := by decide

/-- A 32-bit and a 16-bit word as memory holds them. -/
def word (w : Nat) : Decoded := decode (toBytes w 4)
def half (w : Nat) : Decoded := decode (toBytes w 2)

/-- R151 to R163: scalar and tree words. -/
theorem test_decode_scalar : word 0x06025001 = .instr (.addN 0x06 0x02 0x50) ∧
    word 0x5C198031 = .instr (.liN 0x5C19 0x80) ∧ word 0x034C8C35 = .instr (.shlImmN 3 0x4C 0x8C) ∧
    half 0x0824 = .instr (.addC 2 1) := by decide +kernel

/-- R164 to R173: branches, links, windows and special registers. -/
theorem test_decode_control : word 0xBFFE0051 = .instr (.dbnzN 0x3FFE 0) ∧ word 0x0004E84D = .instr (.jal 4 0xE8) ∧
    word 0x00E8384F = .instr (.ret 0xE8) ∧ word 0x20202049 = .instr (.win 0x20 0x20 0x20) ∧
    word 0x400140FB = .instr (.csrw 1 0x40) ∧ word 0x050000F1 = .instr (.ecall 5) ∧ word 0x000000F3 = .instr .ebreak ∧
    word 0x000000F5 = .instr .tret ∧ word 0x00000089 = .instr .hexit ∧ word 0x000004F9 = .instr .fenceDomain ∧
    word 0x00C800F7 = .instr (.rinv 0 0xC8) := by decide +kernel

/-- R174 to R190: memory words. -/
theorem test_decode_memory : word 0x4CD81063 = .instr (.ldD 0x4C 0xD8 1) ∧ word 0x40D81067 = .instr (.stD 0x40 0xD8 1) ∧
    word 0x38C81163 = .instr (.ldfeD 0x38 0xC8 1) ∧ word 0x40C80069 = .instr (.cmldN 0x40 0xC8) ∧
    word 0x4004106D = .instr (.ldcap 0x40 4 1) ∧ word 0x50882071 = .instr (.amoAdd 0x50 0x88 2) ∧
    word 0x50882873 = .instr (.amoFaddPost 0x50 0x88 2) ∧ word 0x38882971 = .instr (.amaxRst 0x38 0x88 2) ∧
    word 0x50883075 = .instr (.lapp 0x50 0x88 3) := by decide +kernel

/-- R232 to R249: stage, matrix and engine words. -/
theorem test_decode_units : word 0x3A0008C1 = .instr (.mclaim 58 8) ∧ word 0x000800C3 = .instr (.mrel 8) ∧
    word 0xD89000C5 = .instr (.mfill 0xD8 0x90) ∧ word 0xD89000C7 = .instr (.mscale 0xD8 0x90) ∧
    word 0x010000C9 = .instr (.mmac 1 0) ∧ word 0x00C800CB = .instr (.mmask 0 0xC8) ∧
    word 0x0C0888CD = .instr (.maccRd 0x0C 8 8) ∧ word 0x010000CF = .instr (.maccClr 1) ∧
    word 0x020000D1 = .instr (.msemP 2) ∧ word 0x020000D3 = .instr (.msemV 2) ∧ word 0x008800D5 = .instr (.chadv 0x88) ∧
    word 0x00C800D7 = .instr (.publish 0xC8) := by decide +kernel

/-- R191 to R203 and R205: transactions, harts, capabilities and vectors. -/
theorem test_decode_others : word 0x00040079 = .instr (.tbegin 4) ∧ word 0xFFFC007B = .instr (.orelse 0xFFFC) ∧
    word 0x05000081 = .instr (.tabort 5) ∧ word 0x00008883 = .instr (.tstat 0x88) ∧
    word 0x98908887 = .instr (.hspawn 0x98 0x90 0x88) ∧ word 0x98908885 = .instr (.tenq 0x98 0x90 8) ∧
    word 0x0088008B = .instr (.mig 0x88) ∧ word 0x98908877 = .instr (.spnext 0x98 0x90 0x88) ∧
    word 0x0188008F = .instr (.sbind 1 0x88) ∧ word 0x8100008F = .instr (.sbindOff 1) ∧
    word 0xC8020EE1 = .instr (.cder 0xC8 2 14) ∧
    word 0x82818091 = .instr (.vadd 0x82 0x81 0x80) ∧ word 0x438281AD = .instr (.vcvt 4 3 0x82 0x81) := by decide +kernel

/-! ### States -/

/-- A hart of a name and a mode with full registers, the root capabilities and code at 0x10000. -/
def hart (n : Nat) (m : Mode) : Hart :=
  { Hart.blank (BitVec.ofNat 22 n) 0x10000 m with c := [Cap.root0, Cap.root1] ++ List.replicate 14 Cap.null }

/-- The machine after reset with one hart, which has the turn. -/
def on (h : Hart) : State := { State.reset with me := h, harts := [] }

/-- A kernel hart in slot 0 of cell 0, a user hart, one in a transaction, and harts of the stager and driver cells. -/
def kern : State := on (hart 0 .kernel)
def user : State := on (hart 0 .user)
def firm : State := on (hart 0 .firmware)
def inside : State := on { hart 0 .kernel with
  txn := { Txn.none with id := 7, depth := 1, abortPc := 0x20000, beginPc := 0x10000, gen := 1 } }
def stager : State := on (hart 256 .kernel)
def driver : State := on (hart 272 .kernel)

/-- The translation of the page of the code. -/
def codePage : Mapping :=
  { src := 0, path := 0x10000, depth := 21, limit := 0x10FFF, hole := none, frame := 0x10000, fmt := 0, strip := 0
    shadow := none, pasid := 0 }

/-- Whether a gate is ready does not depend on which instruction it is the gate of. -/
theorem ready_any (i : Instr) (g : Gate) (s : State) (h : Ready g s) : Ready { g with i := i } s := h

/-! ### The machine -/

/-- StepRunsTheDecodedInstruction: a word that is an instruction, one that is none, a choice of the hart, and an event. -/
theorem witness_step : let s := State.reset.withFetchWord 32 0x06025001
    s.choices = [] ∧ turnTo s.me.name.toNat s = s ∧ canIssue s.me s = true ∧ beforeIssue (settled s) = none ∧
    fetch (settled s).me (settled s) = .bytes [0x01, 0x50, 0x02, 0x06] ∧
    decode [0x01, 0x50, 0x02, 0x06] = .instr (.addN 0x06 0x02 0x50) ∧ WellFormed (.addN 0x06 0x02 0x50) := by decide +kernel

theorem witness_step_illegal : let s := State.reset.withFetchWord 32 0x06023B01
    canIssue s.me s = true ∧ beforeIssue (settled s) = none ∧
    fetch (settled s).me (settled s) = .bytes [0x01, 0x3B, 0x02, 0x06] ∧
    decode [0x01, 0x3B, 0x02, 0x06] = .illegal (.forbiddenSpecial 3) := by decide +kernel

theorem witness_step_choices : let s := { State.reset.withFetchWord 32 0x06025001 with choices := [.issue 0] }
    let u := turnTo 0 { s with choices := [] }
    canIssue u.me u = true ∧ beforeIssue (settled u) = none ∧ fetch (settled u).me (settled u) = .bytes [0x01, 0x50, 0x02, 0x06] ∧
    inner (.wake 0) = false := by decide +kernel

/-- Two harts of cell 0 whose next word is a store to the pan, and the turn of both in one cycle. -/
def ports : State :=
  let s := kern.withFetchWord 32 (wordNat (.stN 0x88 0x80 1))
  { s with harts := [{ s.me with name := 1 }], choices := [.both 1 0] }

/-- Does an outcome lead to a state in which something holds? -/
def leads (o : Out) (p : State → Bool) : Bool :=
  match o with
  | .next t => p t
  | _ => false

theorem leads_next {o : Out} {p : State → Bool} (h : leads o p = true) : ∃ t, o = .next t ∧ p t = true := by
  cases o <;> simp_all [leads]

/-- StepRunsTheDecodedInstruction: two harts issue in one cycle, and the second sends a request after the first. -/
theorem witness_step_ports :
    (∃ p, issueStep 0 { ports with choices := [] } = .next p ∧ leads (issueStep 1 p) (fun q =>
      p.reqs.any (fun r => r.src == 0) && q.reqs.any fun r => r.src == 1 && !(p.reqs.any fun o => o.id == r.id)) = true) ∧
    (1 : Name).toNat / 16 = 0 ∧ 0 % 32 < 16 ∧ (0 % 16 + 16 - (getCell 0 ports).rot % 16) % 16 <
      (1 % 16 + 16 - (getCell 0 ports).rot % 16) % 16 ∧ ports.reqs = [] :=
  ⟨leads_next (by decide +kernel), by decide +kernel, by decide +kernel, by decide +kernel, by decide +kernel⟩

/-- FetchReadsTheWordAtThePc: a word of four bytes and one of two. -/
theorem witness_fetch : ∀ s ∈ [State.reset.withFetchWord 32 0x06025001, State.reset.withFetchWord 16 0x0824],
    ∀ i < (if (memByte 0x10000 s).getLsbD 0 then 4 else 2),
      globalUnit s.me ((s.me.pc.toNat + i) % 2 ^ 54) false s = .ok (.map codePage) 0 i ∧ hostOf (.map codePage) = none ∧
      fetchWaits s.me ((0x10000 + i) / 64) s = false ∧ eccFails ((0x10000 + i) / 64) s = false ∧ isPageWord ((0x10000 + i) / 8) = false ∧
      failCause (keyFor s.me s) ((0x10000 + i) / 8) s = none := by
  decide +kernel

/-! ### Operands, scalar instructions and control -/

/-- OperandReads, ResultsAreWritten: a slice operand at the wrap, zr, rx, hid and tx; the hart is present. -/
theorem witness_operands : (0xF7#8).toNat % 64 < 56 ∧ (0x38#8).toNat % 64 = 56 ∧ (0xB9#8).toNat % 64 = 57 ∧
    (0xBF#8).toNat % 64 = 63 ∧ (0xBA#8).toNat % 64 = 58 ∧ present kern.me = true := by decide

/-- CompactResults: granules 2 and 1 are full. -/
theorem witness_compact : ∀ g ∈ [plainGate (.addC 1 2) [granNeed .A 2, granNeed .B 1] [.slices 16 8],
    plainGate (.liC 5 2) [] [.slices 16 8]], Ready g kern := by decide +kernel

/-- IntegerResults, SelectFieldAndPathResults, TransactionInstructions: the shapes are ready at both scales. -/
theorem witness_shapes : ∀ sc ∈ [Scale.n, .d], ∀ g ∈ [gate3 (.addN 0x90 0x88 0x80) sc 0x90 0x88 0x80 kern,
    gate2 (.divN 0x90 0x88) sc 0x90 0x88 kern, gate1 (.popcN 0x88 0x80) sc 0x88 0x80 kern,
    gateIns (.insN 3 0x88 0x80) sc 0x88 0x80 kern, gateSel (.selN 0x90 0x88 0x80) sc 0x90 0x88 0x80 kern,
    gate0 (.liN 5 0x80) sc 0x80 kern], Ready g kern := by decide +kernel

/-- A kernel hart whose slices hold a number. -/
def holding (v : Nat) : State := on { hart 0 .kernel with slices := BitVec.ofNat 1024 v }

/-- ControlTransfers: branches and jumps are ready; operands of 0 and of 1 give both ways of each. -/
theorem witness_branches : ∀ s ∈ [holding 0, holding 1, holding 2], ∀ g ∈ [
    plainGate (.bzN 2 0x80) [srcNeed .n .D 0x80 0 s.me] [], plainGate (.bnzD 2 0x80) [srcNeed .d .D 0x80 0 s.me] [],
    plainGate (.bEq 0x88 0x80 2) [srcNeed .d .A 0x80 0 s.me, srcNeed .d .B 0x88 0 s.me] [], plainGate (.bzC 2 0) [granNeed .D 0] [],
    plainGate (.dbnzN 2 0x80) [srcNeed .n .D 0x80 0 s.me] [dstTgt .n .D 0x80 s.me],
    plainGate (.dbnzD 2 0x80) [srcNeed .d .D 0x80 0 s.me] [dstTgt .d .D 0x80 s.me], plainGate (.win 1 2 3) [] [],
    gate0 (.jal 2 0x88) .d 0x88 s, gate1 (.jr 0x80 0x88) .d 0x80 0x88 s], Ready g s := by decide +kernel

theorem witness_branch_conditions : (readOp .n .D 0x80 0 (holding 0).me).1 = 0 ∧ (readOp .n .D 0x80 0 (holding 1).me).1 = 1 ∧
    granVal 0 (holding 1).me = 1 ∧ ext .Z (readOp .d .D 0x80 0 (holding 1).me) 32 - 1 = 0 ∧
    ext .Z (readOp .d .D 0x80 0 (holding 2).me) 32 - 1 ≠ 0 ∧
    (readOp .d .A 0x80 0 (holding 1).me).1 % 2 ^ 54 % 2 = 1 ∧ (readOp .d .A 0x80 0 (holding 2).me).1 % 2 ^ 54 % 2 = 0 ∧
    (readOp .d .A 0x80 0 (holding 1).me).1 ≠ (readOp .d .B 0x88 0 (holding 1).me).1 := by decide +kernel

/-- ScalarAndControlFrame: an addition, a jump by register and `win` answer a next state. -/
theorem witness_scalar_frame : (∃ t, exec (.addN 0x90 0x88 0x80) kern = .next t) ∧ (∃ t, exec (.jr 0x80 0x88) kern = .next t) ∧
    ∃ t, exec (.win 1 2 3) kern = .next t := ⟨⟨_, rfl⟩, ⟨_, rfl⟩, ⟨_, rfl⟩⟩

/-- R149, R53: 0xFFFF + 0xFFFF at 16 bits is 0xFFFE, written to slices 4 to 7 alone. -/
theorem test_add_wraps : ∃ t, exec (.addN 0x80 0x80 0x84) (holding 0x0001FFFF) = .next t ∧
    t.me.slices = 0xFFFEFFFF ∧ t.me.pc = 0x10004 := ⟨_, rfl, by decide +kernel, by decide +kernel⟩

/-- R153: the least number divided by -1 is itself, and by 0 is all ones. -/
theorem test_div_overflow : ∃ t, exec (.divN 0xC8 0xC0) (holding 0xFFFFFFFF80000000) = .next t ∧
    t.me.slices = 0xFFFFFFFF80000000 := ⟨_, rfl, by decide +kernel⟩

theorem test_div_zero : ∃ t, exec (.divN 0xC8 0xC0) (holding 7) = .next t ∧ t.me.slices = 0xFFFFFFFF :=
  ⟨_, rfl, by decide +kernel⟩

/-! ### Special registers, traps and capabilities -/

/-- What the four instructions of a register need in a state. -/
def csrCases (n : BitVec 12) (s : State) : List (Gate × State) :=
  [(csrGate' (.csrr n 0x80) n false (mayUse n s.me) [] [dstTgt .d .D 0x80 s.me], s)] ++
    [Instr.csrw n 0x80, .csrs n 0x80, .csrc n 0x80].map fun i =>
      (csrGate' i n true (mayUse n s.me) [srcNeed .d .D 0x80 0 s.me] [], s)

/-- SpecialRegisters: every register may be read and written in firmware mode, those below 0x200 in kernel mode, and those
below 0x100 in user mode. -/
theorem witness_registers :
    (∀ x ∈ [0, 1, 2, 3, 4, 7, 0x10, 0x11, 0x12, 0x13].flatMap fun n => [user, kern, firm].flatMap (csrCases n),
      Ready x.1 x.2) ∧
    (∀ x ∈ [0x100, 0x104, 0x107, 0x108, 0x10A].flatMap fun n => [kern, firm].flatMap (csrCases n), Ready x.1 x.2) ∧
    ∀ x ∈ [0x200, 0x204, 0x206, 0x207].flatMap fun n => csrCases n firm, Ready x.1 x.2 := by
  refine ⟨?_, ?_, ?_⟩ <;> decide +kernel

/-- RegisterPrivilege: HWAITLIM is among the registers of `witness_registers`; a kernel register in user mode, and a firmware register in kernel mode. -/
theorem witness_privilege : csrExists 0x100 = true ∧ mayUse 0x100 user.me = false ∧ csrExists 0x207 = true ∧
    mayUse 0x207 kern.me = false := by decide

/-- InterruptSending: KIND 1, a name of no cell, a name out of reach, and a name in reach. -/
def sending (m : Mode) (v : Nat) : State := on { hart 0 m with slices := BitVec.ofNat 1024 v }

theorem witness_interrupts : (∀ s ∈ [sending .kernel 0x01000000, sending .kernel 0x120, sending .kernel 0x200,
      sending .firmware 0x02000001], Ready
      (csrGate' (.csrw 0x108 0x80) 0x108 true (mayUse 0x108 s.me) [srcNeed .d .D 0x80 0 s.me] []) s) ∧
    nameExists 0x120 = false ∧ nameExists 0x200 = true ∧ tileReach (sending .kernel 0x200).me (tileOf 0x200) (sending .kernel 0x200) = false ∧
    nameExists 1 = true ∧ tileReach (sending .firmware 0x02000001).me (tileOf 1) (sending .firmware 0x02000001) = true := by
  decide +kernel

/-- SynchronousTrapEntry: outside and inside a transaction. -/
theorem witness_trap : cCapTag.cls < 16 ∧ kern.me.txn.depth = 0 ∧ inside.me.txn.depth ≠ 0 ∧ inside.me.task = none ∧
    present inside.me = true := by decide

/-- SystemInstructions: `ecall`, `ebreak` and `tret` are ready outside a transaction, and stand in one. -/
theorem witness_system : Ready ⟨.ecall 5, .Y, true, true, [], [], 0⟩ kern ∧ Ready ⟨.ebreak, .Y, true, true, [], [], 0⟩ kern ∧
    Ready ⟨.tret, .Y, true, true, [], [], 0⟩ kern ∧ kern.me.mode ≠ .user ∧ user.me.mode = .user ∧
    inside.me.txn.depth ≠ 0 := by
  refine ⟨?_, ?_, ?_, ?_, ?_, ?_⟩ <;> decide +kernel

/-- ModeChangesOnlyByTrapOrReturn: `ecall` in user mode answers a next state in firmware mode. -/
theorem witness_mode : Instr.isWord (.ecall 5) = true ∧ Instr.ecall 5 ≠ .tret ∧
    ∃ t, exec (.ecall 5) user = .next t ∧ t.me.mode = .firmware := ⟨rfl, by decide, _, rfl, rfl⟩

/-- R284, R288: the trap of `ecall 5` in user mode, with its code 15 * 64 + 5 and the vector of class 15. -/
theorem test_ecall : ∃ t, exec (.ecall 5) user = .next t ∧ t.me.fb.cause = 965 ∧ t.me.fb.epc = 0x10000 ∧
    t.me.fb.pmode = .user ∧ t.me.pc = 960 ∧ t.me.fb.tval = 5 := ⟨_, rfl, rfl, rfl, rfl, rfl, rfl⟩

/-- R288: `tret` goes back. -/
theorem test_tret : ∃ t, exec .tret (on { hart 0 .kernel with hb := { TrapBank.init 0 with epc := 0x400, pmode := .user } }) =
    .next t ∧ t.me.mode = .user ∧ t.me.pc = 0x400 := ⟨_, rfl, rfl, rfl⟩

/-- A hart with the roots, a root sealed with type 5, an untagged capability and a code root of depth 17; its slices
hold a number. -/
def caps (v : Nat) : State := on { hart 0 .kernel with
  slices := BitVec.ofNat 1024 v
  c := [Cap.root0, Cap.root1, ⟨Cap.root0.bits ||| BitVec.ofNat 128 (5 * 2 ^ 116), true⟩] ++ List.replicate 13 Cap.null }

/-- The capability instructions are ready, their sources are full, and `cget` has a destination. -/
theorem witness_capabilities : ∀ s ∈ [caps 0, caps 1, caps 0xFFFFFFFF], ∀ g ∈ [
    plainGate (.cder 0xC0 2 4) [.cap 2, srcNeed .d .B 0xC0 0 s.me] [.cap 4],
    plainGate (.cbnd 0x80 1 4) [.cap 1, srcNeed .d .B 0x80 0 s.me] [.cap 4],
    plainGate (.cmov 3 4) [.cap 3] [.cap 4],
    plainGate (.cseal 0x80 0 2 4) [.cap 2, .cap 0, srcNeed .d .B 0x80 0 s.me] [.cap 4],
    plainGate (.cunseal 0 2 4) [.cap 2, .cap 0] [.cap 4],
    plainGate (.cget 0xC0 8 2) [.cap 2] [dstTgt .d .B 0xC0 s.me]], Ready g s := by decide +kernel

/-- Which of them are tagged, sealed, usable and may seal. -/
theorem witness_capability_kinds : ((caps 0).me.c.getD 3 Cap.null).tag = false ∧
    (fieldsOf ((caps 0).me.c.getD 2 Cap.null)).otype = 5 ∧ usable Cap.root0 ∧ usable Cap.root1 ∧ maySeal Cap.root0 ∧
    ¬maySeal Cap.null := by
  refine ⟨rfl, by decide +kernel, ⟨rfl, by decide +kernel⟩, ⟨rfl, by decide +kernel⟩, ⟨⟨rfl, by decide +kernel⟩, by decide +kernel⟩, fun h => ?_⟩
  exact absurd h.1.1 (by decide)

/-- CapabilityDerivationAndNarrowing: the block word 0 is outside the block of c1 and inside that of c0; extents of all
ones fit c0, and 0 fits c1; 0 does not fit c0. -/
theorem witness_derivation : (fieldsOf Cap.root0).depth.toNat ≤ 10 ∧ 10 < (fieldsOf Cap.root1).depth.toNat ∧
    ¬((fieldsOf Cap.root1).depth.toNat ≤ min (0 / 2 ^ 56 % 32) 27) ∧ 0 < rowsOf (fieldsOf Cap.root0) ∧
    rowIn (0 - (fieldsOf Cap.root0).path.toNat) = 0 ∧
    (ext .Z (readOp .d .B 0x80 0 (caps 0xFFFFFFFF).me) 64).extractLsb' 16 16 = (0xFFFF : BitVec 16) ∧
    (ext .Z (readOp .d .B 0x80 0 (caps 0).me) 64).extractLsb' 16 16 ≤ (fieldsOf Cap.root1).rows := by decide +kernel

/-- CapabilitySealingAndFields: types 0, 1 and 5 against the authority of c0. -/
theorem witness_sealing : ¬(1 ≤ (readOp .d .B 0x80 0 (caps 0).me).1) ∧ (readOp .d .B 0x80 0 (caps 1).me).1 = 1 ∧
    grants Cap.root0 1 ∧ grants Cap.root0 5 ∧ (fieldsOf Cap.root0).otype = 0 := by
  unfold grants
  decide +kernel

/-- CapabilitiesOnlyNarrow, CapabilityFrame: `cperm` of c1 answers a next state. -/
theorem witness_narrowing : (fieldsOf Cap.root1).path.toNat % 4 ^ (27 - (fieldsOf Cap.root1).depth.toNat) = 0 ∧
    (caps 1).me.c.length = 16 ∧ (∃ t, exec (.cperm 0x80 1 4) (caps 1) = .next t) ∧
    ∃ t, exec (.cget 0x80 4 1) (caps 1) = .next t := ⟨by decide +kernel, by decide, ⟨_, rfl⟩, ⟨_, rfl⟩⟩

/-- R203: `cperm` with 1 leaves the one permission R. -/
theorem test_cperm : ∃ t, exec (.cperm 0x80 1 4) (caps 1) = .next t ∧ (fieldsOf (t.me.c.getD 4 Cap.null)).perm = 1 :=
  ⟨_, rfl, by decide +kernel⟩

/-! ### Memory instructions and requests -/

/-- A place in the hart's own pan. -/
def panAcc (u n : Nat) : Acc := ⟨.pan 0, 0, u, n, u⟩

/-- The parts of Passes, computed. -/
def passCheck (g : Gate) (c : Cap) (off perm : Nat) (write stays : Bool) (bits : Nat) (k : Kind) (a : Acc) (s : State) :
    Bool :=
  decide (Ready g s) && locate s.me c off perm write k s == .ok a && migrates s.me a stays == none &&
    (bits == 0 || readFault s.me (accWords a bits) s == none)

theorem passes_of {g c off perm write stays bits k a s} (h : passCheck g c off perm write stays bits k a s = true) :
    Passes g c off perm write stays bits k a s := by
  simp only [passCheck, Bool.and_eq_true, decide_eq_true_eq, beq_iff_eq, Bool.or_eq_true] at h
  exact ⟨h.1.1.1, h.1.1.2, h.1.2, fun hb => h.2.resolve_left hb⟩

/-- LoadsAndStoresSendTheirRequests, FullEmptyFormsAreHeld, SpillFillAndCapabilityAccesses, AtomicsSendTheirRequest,
LogInstructions: accesses through c1 at offset 0 pass: the gate, what is checked, and what is found. -/
theorem witness_loads : Passes (tagged (plainGate (.ldN 0xD0 0x80 1) (memNeeds (.byte .n 0xD0) 0 1 kern.me)
      [opdTgt .A (.byte .n 0x80) kern.me]) (readParts (panAcc 0 2))) (kern.me.c.getD 1 Cap.null) 0 pR false false 16 (.run 16)
      (panAcc 0 2) kern ∧
    Passes (plainGate (.stD 0xD0 0xC0 1) (opdNeed .A (.byte .d 0xC0) 0 kern.me :: memNeeds (.byte .d 0xD0) 0 1 kern.me) [])
      (kern.me.c.getD 1 Cap.null) 0 pW true true 0 (.run 64) (panAcc 0 8) kern :=
  ⟨passes_of (by decide +kernel), passes_of (by decide +kernel)⟩

/-- The 16-bit forms, through c1 with granules. -/
theorem witness_compact_memory : Passes (tagged (plainGate (.ldC 0 1 2) (memNeeds (.gran 1) 0 1 kern.me) [opdTgt .A (.gran 2) kern.me])
      (readParts (panAcc 0 4))) (kern.me.c.getD 1 Cap.null) 0 pR false false 32 (.run 32) (panAcc 0 4) kern ∧
    Passes (plainGate (.stC 0 1 2) (opdNeed .A (.gran 2) 0 kern.me :: memNeeds (.gran 1) 0 1 kern.me) [])
      (kern.me.c.getD 1 Cap.null) 0 pW true true 0 (.run 32) (panAcc 0 4) kern := by
  refine ⟨?_, ?_⟩ <;> exact passes_of (by decide +kernel)

/-- A store and an atomic of a 16-bit element of a stream: the store writes 16 bits, the atomic admits no such width. -/
def streamed : State := on { hart 0 .kernel with streams := [(0, ⟨3, [(16, 0xBEEF)]⟩)] }

theorem witness_stream_store : (readOpd .A (.byte .d 0x3B) 0 streamed.me) = (0xBEEF, 16) ∧
    Passes (plainGate (.stD 0xD0 0x3B 1) (opdNeed .A (.byte .d 0x3B) 0 streamed.me :: memNeeds (.byte .d 0xD0) 0 1 streamed.me) [])
      (streamed.me.c.getD 1 Cap.null) 0 pW true true 0 (.run 16) (panAcc 0 2) streamed ∧
    Passes (plainGate (.amoFaddPost 0xD0 0x3B 1) (srcNeed .d .A 0x3B 0 streamed.me :: memNeeds (.byte .d 0xD0) 0 1 streamed.me) [])
      (streamed.me.c.getD 1 Cap.null) 0 (pR + pW + pAtom) true false 32 .fadd (panAcc 0 4) streamed ∧
    Ready (plainGate (.amoAddPost 0xD0 0x3B 1) [srcNeed .d .A 0x3B 0 streamed.me] []) streamed ∧
    ¬((readOp .d .A 0x3B 0 streamed.me).2 = 32 ∨ (readOp .d .A 0x3B 0 streamed.me).2 = 64) := by
  refine ⟨by decide +kernel, passes_of (by decide +kernel), passes_of (by decide +kernel), ?_, ?_⟩ <;> decide +kernel

/-- A load of memory through c0, whose page a walk has found. -/
def walked : State := on { hart 0 .kernel with walked := [codePage], slices := 0x10800 }

theorem witness_global_load : Passes (tagged (plainGate (.ldD 0xC0 0x88 0) (memNeeds (.byte .d 0xC0) 0 0 walked.me)
      [opdTgt .A (.byte .d 0x88) walked.me]) (readParts ⟨.map codePage, 0, 0x800, 4, 0x10800⟩))
    (walked.me.c.getD 0 Cap.null) (readOpd .B (.byte .d 0xC0) 0 walked.me).1 pR false false 32 (.run 32)
    ⟨.map codePage, 0, 0x800, 4, 0x10800⟩ walked := by
  exact passes_of (by decide +kernel)

/-- FullEmptyFormsAreHeld. -/
theorem witness_full_empty : Passes (tagged (plainGate (.ldfeN 0xD0 0x80 1) (memNeeds (.byte .n 0xD0) 0 1 kern.me) [dstTgt .n .A 0x80 kern.me]) 1)
      (kern.me.c.getD 1 Cap.null) 0 (pR + pSync) false false 16 (.single 16) (panAcc 0 2) kern ∧
    Passes (plainGate (.stefN 0xD0 0x80 1) (srcNeed .n .A 0x80 0 kern.me :: memNeeds (.byte .n 0xD0) 0 1 kern.me) [])
      (kern.me.c.getD 1 Cap.null) 0 (pW + pSync) true false 16 (.single 16) (panAcc 0 2) kern := by
  refine ⟨?_, ?_⟩ <;> exact passes_of (by decide +kernel)

/-- SpillFillAndCapabilityAccesses: 16 slices, and a pair; an untagged and a tagged capability. -/
theorem witness_spill : Passes (plainGate (.spill 15 0 1) [.cap 1, .slices 1 0 0 16] []) (kern.me.c.getD 1 Cap.null) 0 pW true true 0
      (.bytes 8) (panAcc 0 8) kern ∧
    Passes (tagged (plainGate (.fill 15 0 1) [.cap 1] [.slices 0 16]) 1) (kern.me.c.getD 1 Cap.null) 0 pR false false 0
      (.bytes 8) (panAcc 0 8) kern ∧
    readFault kern.me (pieceWords 64 (piecesOf kern.me (kern.me.c.getD 1 Cap.null) (panAcc 0 8) false kern 8)) kern = none ∧
    Passes (tagged (plainGate (.ldcap 0xC0 4 1) [.cap 1, srcNeed .d .B 0xC0 0 kern.me] [.cap 4]) 1) (kern.me.c.getD 1 Cap.null) 0 pR
      false false 128 (.pair false) (panAcc 0 16) kern ∧
    Passes (plainGate (.stcap 0xC0 4 1) [.cap 4, .cap 1, srcNeed .d .B 0xC0 0 kern.me] []) (kern.me.c.getD 1 Cap.null) 0 pW
      true true 0 (.pair false) (panAcc 0 16) kern ∧
    Passes (plainGate (.stcap 0xC0 0 1) [.cap 0, .cap 1, srcNeed .d .B 0xC0 0 kern.me] []) (kern.me.c.getD 1 Cap.null) 0 (pW + pScap)
      true true 0 (.pair true) (panAcc 0 16) kern := by
  refine ⟨?_, ?_, ?_, ?_, ?_, ?_⟩ <;> first | decide +kernel | exact passes_of (by decide +kernel)

/-- R40, R181: a run over two leaves whose frames lie apart is in two pieces, of 4 and 12 bytes. -/
theorem test_fill_pieces : let m (p f : Nat) : Mapping := { codePage with path := p, limit := p + 4095, frame := f }
    let h := { kern.me with walked := [m 0x10000 0x40000, m 0x11000 0x80000] }
    let s := { kern with me := h }
    locate h Cap.root0 0x10FFC pR false (.bytes 16) s = .ok ⟨.map (m 0x10000 0x40000), 0, 0xFFC, 16, 0x10FFC⟩ ∧
    pieceShape 128 (piecesOf h Cap.root0 ⟨.map (m 0x10000 0x40000), 0, 0xFFC, 16, 0x10FFC⟩ false s 16) =
      [(1, 480, 32), (1, 0, 96)] := by decide +kernel

/-- CellCommons: `cmst` and `cmld` are ready; a queue with a store of another hart, and one with a failed slice. -/
def commons : State := setCell 0 { Cell.init with stq := [⟨255, 2, 0xAB, 5⟩], cbad := 1 } kern

theorem witness_commons : Ready (plainGate (.cmstN 0x88 0x80) [srcNeed .n .A 0x80 0 kern.me, srcNeed .n .B 0x88 0 kern.me] []) commons ∧
    Ready (plainGate (.cmldD 0x88 0x80) [srcNeed .d .B 0x88 0 kern.me] [dstTgt .d .A 0x80 kern.me]) commons ∧
    (getCell 0 commons).stq = [⟨255, 2, 0xAB, 5⟩] ∧ (getCell 0 commons).stq.all (fun x => x.src != 0) = true ∧
    commonsBad (getCell 0 commons) 0 8 = true ∧ commonsBad (getCell 0 commons) 1 8 = false := by
  refine ⟨?_, ?_, ?_, ?_, ?_, ?_⟩ <;> decide +kernel

/-- `cmld` with two own stores in the queue, and one of another hart behind them. -/
theorem witness_commons_own : let mine : List CommonsStore := [⟨0, 1, 3, 5⟩, ⟨0, 2, 0xAB, 0⟩]
    let s := setCell 0 { Cell.init with stq := mine ++ [⟨4, 1, 7, 5⟩] } kern
    (getCell 0 s).stq = mine ++ [⟨4, 1, 7, 5⟩] ∧ (∀ x ∈ [(⟨4, 1, 7, 5⟩ : CommonsStore)], x.src ≠ s.me.name.toNat) ∧
    (∀ x, mine.getLast? = some x → x.src = s.me.name.toNat) ∧
    Ready (plainGate (.cmldN 0x88 0x80) [srcNeed .n .B 0x88 0 s.me] [dstTgt .n .A 0x80 s.me]) s := by
  refine ⟨rfl, by decide, ?_, by decide +kernel⟩
  intro x hx
  cases hx
  rfl

/-- R68, R182: the store wraps from slice 255 to slice 0. -/
theorem test_commons_wrap : ∃ t, exec (.commonsApply 0) commons = .next t ∧
    (getCell 0 t).commons = BitVec.ofNat 1024 (0xA + 0xB * 2 ^ 1020) := ⟨_, rfl, by decide +kernel⟩

/-- AtomicsSendTheirRequest: returning, comparing, resetting and posted atomics, and additions of floats. -/
theorem witness_atomics : let p := pR + pW + pAtom
    Passes (tagged (plainGate (.amoAdd 0xD0 0x80 1) (srcNeed .d .A 0x80 0 kern.me :: memNeeds (.byte .d 0xD0) 0 1 kern.me) [dstTgt .d .A 0x80 kern.me]) 1)
      (kern.me.c.getD 1 Cap.null) 0 p true false 32 (.atomic 32) (panAcc 0 4) kern ∧
    Passes (tagged (plainGate (.amoCas 0xD0 0xC0 1) ([.slices 1 0 0 16, .slices 1 0 16 16] ++ memNeeds (.byte .d 0xD0) 0 1 kern.me)
      [dstTgt .d .A 0xC0 kern.me]) 1) (kern.me.c.getD 1 Cap.null) 0 p true false 64 (.atomic 64) (panAcc 0 8) kern ∧
    Passes (tagged (plainGate (.amaxRst 0xD0 0x80 1) ([] ++ memNeeds (.byte .d 0xD0) 0 1 kern.me) [dstTgt .d .A 0x80 kern.me]) 1)
      (kern.me.c.getD 1 Cap.null) 0 p true false 32 (.atomic 32) (panAcc 0 4) kern ∧
    Passes (plainGate (.amoOrPost 0xD0 0x80 1) (srcNeed .d .A 0x80 0 kern.me :: memNeeds (.byte .d 0xD0) 0 1 kern.me) [])
      (kern.me.c.getD 1 Cap.null) 0 p true false 32 (.atomic 32) (panAcc 0 4) kern ∧
    Passes (plainGate (.amoFaddPost 0xD0 0x40 1) (srcNeed .d .A 0x40 0 kern.me :: memNeeds (.byte .d 0xD0) 0 1 kern.me) [])
      (kern.me.c.getD 1 Cap.null) 0 p true false 32 (.fadd) (panAcc 0 4) kern := by
  refine ⟨?_, ?_, ?_, ?_, ?_⟩ <;> exact passes_of (by decide +kernel)

/-- LogInstructions: a width that a pan logs and one that it does not, a full log, and a merge. -/
theorem witness_logs : Passes (plainGate (.lapp 0xD0 0x80 1) (srcNeed .d .A 0x80 0 kern.me :: memNeeds (.byte .d 0xD0) 0 1 kern.me) [])
      (kern.me.c.getD 1 Cap.null) 0 (pW + pAtom) true false 0 (.log 32) (panAcc 0 4) kern ∧
    logKindOf 0 32 ≠ none ∧ logKindOf 1 32 = none ∧
    Passes (plainGate (.lapp 0xD0 0x40 1) (srcNeed .d .A 0x40 0 kern.me :: memNeeds (.byte .d 0xD0) 0 1 kern.me) [])
      (kern.me.c.getD 1 Cap.null) 0 (pW + pAtom) true false 0 (.log 16) (panAcc 0 2) kern ∧ logKindOf 0 16 = none ∧
    Passes { plainGate (.lmerge 0x80 1) [.cap 1] [dstTgt .d .A 0x80 kern.me] with bars := true, tags := 1 } (kern.me.c.getD 1 Cap.null) 0
      (pR + pW + pAtom) true false 0 .first (panAcc 0 1) kern := by
  exact ⟨passes_of (by decide +kernel), by decide +kernel, by decide +kernel, passes_of (by decide +kernel),
    by decide +kernel, passes_of (by decide +kernel)⟩

theorem witness_log_full (n : Nat) (e : LogEntry) (hn : 2 ^ 20 ≤ n) (he : e.loc = panBase) :
    2 ^ 20 ≤ ((List.replicate n e).filter fun e => sameHome (e.loc / 64) (bitOf (panAcc 0 4) / 512) kern).length := by
  have h : sameHome (panBase / 64) (bitOf (panAcc 0 4) / 512) kern = true := by decide +kernel
  rw [List.filter_replicate, he, if_pos h, List.length_replicate]
  exact hn

/-- PanAccessChecks: c1 names the own pan. -/
theorem witness_pan : (fieldsOf Cap.root1).space = 1 ∧ 8 ≤ 32 := by decide +kernel

/-- MemoryInstructionFrame. -/
theorem witness_memory_frame : (∃ t, exec (.stN 0x88 0x80 1) kern = .next t) ∧ ∃ t, exec (.cmldN 0x88 0x80) kern = .next t :=
  ⟨⟨_, rfl⟩, ⟨_, rfl⟩⟩

/-! ### Requests, replies and transactions -/

/-- A word of the pan of tile 0, the request of hart 0 for an operation on its line, and the reply that it is to give. -/
def panWord : Nat := panBase / 8 + 4
def asks (op : HomeOp) (counted : Bool) : Req :=
  { id := 1, src := 0, op := op, line := panBase / 64, pend := some 2, part := 0, isWrite := counted, counted := counted
    remote := false, fw := false, key := 16, txn := none, own := [], hist := [], va := 32, passed := [], stamp := none }
def waits : Pend :=
  { id := 2, origin := 0, route := 0, dest := .slices 0 8, shape := .scalar 0 32 false, parts := [none], tags := [3]
    holds := false, next := none, eats := [], hist := [], txn := none, done := [] }
def serving (l : List Req) : State := { kern with reqs := l, pends := [waits] }

/-- ReadsArePerformed: a word, a line, a pair, two loads of one word, and host memory. -/
theorem witness_reads : (∀ op ∈ [HomeOp.read panWord, .readLine (panBase / 64), .readPair panWord true, .hostRead 0 0],
      let r := asks op false
      reqById r.id (serving [r]) = some r ∧ r.txn = none ∧ reqReady r (serving [r]) = true ∧ r.remote = false) ∧
    2048 ≤ panWord ∧ (∀ k < 8, wordBad (panBase / 8 + k) kern = false) ∧ isPanWord panWord = true ∧
    let r := asks (.read panWord) false
    let q := { r with id := 5 }
    let s := serving [r, q]
    reqById 1 s = some r ∧ reqById 5 s = some q ∧ reqReady r s = true ∧ reqReady q s = true := by
  refine ⟨?_, ?_, ?_, ?_, ?_⟩ <;> decide +kernel

/-- StoresAreApplied: a word, also from another tile, a pair, a log entry, a merge of one and a host write. -/
def logged : LogEntry := ⟨panBase + 32, .int32, 5, 0, 0, true, 0, 32, []⟩

theorem witness_stores : memoryOk kern ∧ Memory.wf kern.mem = true ∧
    (∀ op ∈ [HomeOp.write [.word panWord 0xFF 0xFFFF], .write [.pair panWord 7 true], .lapp logged, .lmerge true 0 17 0,
      .hostWrite 0 0 0 0], ∀ remote ∈ [false, true],
      let r := { asks op true with remote := remote }
      reqById r.id (serving [r]) = some r ∧ reqReady r (serving [r]) = true) ∧
    [logged].filter (fun e => e.pan == true && e.ctx == 0 && inBlock e.va 17 0) = [logged] ∧ logged.loc % 4 = 0 ∧
    2048 ≤ logged.loc / 8 ∧ writeBlocked 16 (logUpdate logged kern) kern = none ∧
    wordBad panWord kern = false ∧ wordBad (panWord + 1) kern = false := by
  unfold memoryOk
  refine ⟨?_, ?_, ?_, ?_, ?_, ?_, ?_, ?_, ?_⟩ <;> decide +kernel

/-- AtomicsArePerformed: an atomic on 32 bits, one on 64, a compare that fails and one that does not, an addition to a
location without and with an accumulator, and two requests that merge. -/
theorem witness_atomic_requests : (∀ op ∈ [HomeOp.amo .add panWord 32 32 5 0, .amo .cas panWord 0 64 5 0, .amo .cas panWord 0 64 5 1,
      .fadd (2 * panWord) (.num 4) 0, .fadd (2 * panWord) .pinf 1],
      let r := asks op true
      reqById r.id (serving [r]) = some r ∧ reqReady r (serving [r]) = true) ∧
    0 < 32 ∧ 32 + 32 ≤ 64 ∧ (5 : Word).toNat < 2 ^ 32 ∧ 4096 ≤ 2 * panWord ∧ lookupNat (2 * panWord) kern.accs = none ∧
    let a := { asks (.amo .add 0x2000 0 32 1 0) true with pend := none, line := 0x400 }
    let b := { a with id := 5, src := 1 }
    merges a b = true ∧ a.line = b.line ∧ a.src < b.src ∧ reqById 1 (serving [a, b]) = some a ∧ reqById 5 (serving [a, b]) = some b := by
  refine ⟨?_, ?_, ?_, ?_, ?_, ?_, ?_⟩ <;> decide +kernel

/-- FullEmptyFormsArePerformed: a full word, an empty word, and the forms that find the other state. -/
def emptied : State := { serving [] with mem := setSide kern.mem (panBase / 64) { SideBand.init with fe := 0 } }

theorem witness_full_empty_requests : (viewOf panWord kern).fe = true ∧ (viewOf panWord emptied).fe = false ∧
    (∀ op ∈ [HomeOp.loadFull panWord true, .storeFull panWord 5 0xFF true], Sound (asks op false) [panWord] emptied) ∧
    Memory.wf emptied.mem = true ∧
    (∀ op ∈ [HomeOp.loadFull panWord true, .loadFull panWord false, .storeFull panWord 5 0xFF true, .storeFull panWord 5 0xFF false],
      let r := asks op false
      let s := { emptied with reqs := [r] }
      reqById r.id s = some r ∧ reqReady r s = true ∧ pendOf r s = some waits) ∧
    waits.route = kern.me.name.toNat ∧ present kern.me = true ∧ kern.me.txn.depth = 0 := by
  unfold Sound
  refine ⟨?_, ?_, ?_, ?_, ?_, ?_, ?_, ?_⟩ <;> decide +kernel

/-- RepliesLand: a whole reply for each kind of destination, one of a slot that nobody holds, a queued message, an
acknowledgement. -/
theorem witness_replies : (∀ d ∈ [Dest.slices 250 8, .vec 3, .cap 4, .rx 32, .tx 32 5, .none],
      let p := { waits with dest := d, parts := [some 7] }
      let s := { kern with pends := [p] }
      s.pends.find? (fun q => q.id == p.id) = some p ∧ replyWhole p = true ∧ p.route = s.me.name.toNat ∧
      inService p.route s ∧
      s.me.rxFull = false ∧ p.eats = []) ∧
    hartAt 9 kern = none ∧ inService 9 kern ∧ arriving 9 kern = false ∧
    (let s := on { hart 0 .kernel with rxq := [5, 6], unacked := 1 }
     s.me.rxq = 5 :: [6] ∧ s.me.rxFull = false ∧ present s.me = true ∧ inService s.me.nm s ∧ s.me.name.toNat ∈ ({ s with acks := [0] }).acks) := by
  unfold inService
  refine ⟨?_, ?_, ?_, ?_, ?_⟩ <;> decide +kernel

/-- TransactionInstructions: outside, at depth 1, in a nest, at depth 15, with an alternative and woken. -/
def nested (d : Nat) (alt : Option Addr) (woken : Bool) : State := on { hart 0 .kernel with
  txn := { Txn.none with
    id := 7, depth := d, abortPc := 0x20000, beginPc := 0x10000, gen := 1, alt := alt, woken := woken
    reads := [(panBase / 64, 1)] } }

theorem witness_transactions : kern.me.txn.depth = 0 ∧ (∀ s ∈ [kern, nested 1 none false, nested 1 none true, nested 1 (some 0x300) false,
    nested 3 none false, nested 15 none false], Ready (plainGate (.tbegin 4) [] []) s ∧ Ready (plainGate .tend [] []) s ∧
      s.me.task = none ∧ present s.me = true) := by
  refine ⟨?_, ?_⟩ <;> decide +kernel

/-- AtomicsArePerformed: two requests of one location are each released by the merge station, and together. -/
theorem witness_merge : let a := { asks (.amo .add 0x2000 0 32 1 0) true with pend := none, line := 0x400 }
    let b := { a with id := 5, src := 1 }
    let s := { kern with reqs := [a, b] }
    reqReady a s = true ∧ reqReady b s = true ∧ (∀ x ∈ s.seals, x.2 + 4 < 2 ^ 64) ∧
    leads (exec (.accessPerform a.id []) s) (fun u => reqById b.id u == some b && reqReady b u) = true := by
  refine ⟨?_, ?_, ?_, ?_⟩ <;> decide +kernel

/-- CommitsAndAborts: a commit with nothing held, with changes of several kinds held, one whose home has no room, and an
abort that has been decided. -/
def ending (st : Stat) (buf : List (Nat × Nat × MOp)) (doom : Option (Nat × Nat)) : State := on { hart 0 .kernel with
  stat := st
  txn := { Txn.none with id := 7, depth := 1, abortPc := 0x20000, beginPc := 0x10000, gen := 1, buf := buf, doom := doom } }

def held : List (Nat × Nat × MOp) := [(1, 3, .word panWord 5 0xFF), (1, 4, .pair panWord 7 true), (1, 5, .word panWord 9 0xFF00),
  (1, 6, .fadd (2 * panWord) (.num 4)), (1, 7, .empty panWord), (1, 8, .log logged), (1, 9, .host 0 0 1 1)]

theorem witness_commits : (∀ s ∈ [ending .committing [] none, ending .committing held none],
      present s.me = true ∧ s.me.stat = .committing ∧ s.me.txn.doom = none ∧ txnBusy s.me.txn.id s = false ∧
      roomFor (heldOps s.me) s = true ∧ commitWaits s.me s = false ∧ MayApply s) ∧
    (let s := ending .running [] (some (1, 0))
     present s.me = true ∧ s.me.txn.depth ≠ 0 ∧ s.me.task = none ∧ s.me.stat = .running ∧ s.me.txn.doom = some (1, 0)) := by
  unfold MayApply memoryOk
  refine ⟨?_, ?_⟩ <;> decide +kernel

/-- A commit whose transaction has read what another hart's write to its line follows waits for that write (R108). -/
theorem witness_commit_waits : let s := ending .committing [(1, 3, .word panWord 5 0xFF)] none
    let q := { asks (.write [.word panWord 7 0xFF]) true with id := 9, src := 5 }
    commitWaits { s.me with hist := [9] } { s with reqs := [q] } = true := by decide +kernel

theorem witness_no_room (n : Nat) (hn : 2 ^ 20 ≤ n) :
    roomFor (heldOps (ending .committing [(1, 3, .log logged)] none).me) { kern with logs := List.replicate n logged } = false := by
  have h : sameHome (logged.loc / 64) (logged.loc / 64) { kern with logs := List.replicate n logged } = true := by
    simp [sameHome]
  have : ¬(List.replicate n logged).length + 1 ≤ 2 ^ 20 := by simp; omega
  simp [roomFor, heldOps, ending, on, logShort, h, List.filter_replicate]
  omega

/-- TransactionsAreIsolated: a store of an open transaction, and a store of another hart to a line that it has read. -/
theorem witness_isolation : (let r := { asks (.write [.word panWord 5 0xFF]) true with txn := some (7, 1) }
      let s := { nested 1 none false with reqs := [r] }
      reqById r.id s = some r ∧ r.txn ≠ none ∧ reqReady r s = true ∧ s.migs = [] ∧ s.harts = [] ∧ s.me.txn.doom = none ∧
      countDistinct (writeLines s.me.txn ++ [panWord / 8]) ≤ 32 ∧ ∃ t, exec (.accessPerform r.id []) s = .next t) ∧
    (let r := { asks (.write [.word panWord 5 0xFF]) true with src := 5 }
     let s := { nested 1 none false with reqs := [r] }
     reqById r.id s = some r ∧ r.txn = none ∧ reqReady r s = true ∧ panWord / 8 ∈ readLines s.me.txn) :=
  ⟨⟨by decide +kernel, by decide, by decide +kernel, rfl, rfl, rfl, by decide +kernel, _, rfl⟩,
    by decide +kernel, rfl, by decide +kernel, by decide +kernel⟩

/-! ### Harts, tasks, messages and what happens to harts -/

/-- A partition of die 0 with its 128 tiles, and a kernel hart in it whose slices hold a number. -/
def part : Partition :=
  { n := 1, whole := false, hostf := false, topo := 0, die := 0, row0 := 0, row1 := 7, col0 := 0, col1 := 15, diemask := 1
    rangetab := 0x20000, syspage := 0x24000, spill := 0x28000, spilln := 0, gen := 1, parks := 0, leader := 0, replica := none
    frontier := none }
def homed (v : Nat) : State := { on { hart 0 .kernel with slices := BitVec.ofNat 1024 v } with parts := [part] }

/-- A state whose cell 0 has no free slot for a new hart. -/
def crowded : State := { homed 0 with harts := (List.range 14).map fun i => hart (i + 1) .user }

/-- HartInstructions, `hspawn`: a bad target, an odd address, a full cell, and a slot found. -/
theorem witness_hspawn : (∀ s ∈ [homed (2 ^ 24), homed (2 ^ 32), crowded, homed 0], Ready { plainGate (.hspawn 0x88 0x80 0x90)
      [srcNeed .d .A 0x80 0 s.me, srcNeed .d .B 0x88 0 s.me, srcNeed .d .D 0x90 0 s.me] [dstTgt .d .D 0x90 s.me] with
      bars := true, tags := 1 } s) ∧
    badTarget (homed 0).me (2 ^ 24) 2 (homed 0) = true ∧ badTarget (homed 0).me 0 2 (homed 0) = false ∧
    (readOp .d .A 0x80 0 (homed (2 ^ 24)).me).1 = 2 ^ 24 ∧ (readOp .d .B 0x88 0 (homed (2 ^ 32)).me).1 % 2 ^ 54 % 2 = 1 ∧
    claimSlot crowded.me 0 crowded = none ∧ claimSlot (homed 0).me 0 (homed 0) = some 1 := by
  refine ⟨?_, ?_, ?_, ?_, ?_, ?_, ?_⟩ <;> decide +kernel

/-- A task, and a hart that runs it. -/
def queued : TaskEnq :=
  { key := .node 5 (.root 0) 0, tile := 0, src := 0, pc := 0x10000, a0 := 1, a1 := 2, a2 := 3, mode := .user
    caps := List.replicate 16 Cap.null, cbad := 0, hwaitlim := 0, hb := TrapBank.init 0, fb := TrapBank.init 0, fwdeleg := 0, hie := 0
    inh := [], upto := 0, hist := [], wakeOn := none, acked := false }
def running (buf : List (Nat × Nat × MOp)) (doom : Option (Nat × Nat)) (st : Stat) : State :=
  { on { hart 0 .user with
      stat := st, task := some ⟨queued.key, queued, 0, [], st == .taskDone⟩
      txn := { Txn.none with id := 7, depth := 1, gen := 1, buf := buf, doom := doom } } with
    parts := [{ part with frontier := some queued.key }] }

/-- HartInstructions, `hexit` and `mig`: a plain hart, a task body, a handler, and moves at levels 0 and 1. -/
theorem witness_leaving : Ready { plainGate .hexit [] [] with bars := true } kern ∧ kern.me.task = none ∧ kern.me.handles = none ∧
    Ready (plainGate .hexit [] []) (running [] none .running) ∧ (running [] none .running).me.txn.depth = 1 ∧
    (let s := on { hart 0 .kernel with handles := some (5, 2) }
     Ready { plainGate .hexit [.slices 7 31 0 16] [] with bars := true } s) ∧
    (∀ v ∈ [2 ^ 24, 0, 16, 2 ^ 22, 2 ^ 22 + 512], Ready (plainGate (.mig 0x80) [srcNeed .d .A 0x80 0 (homed v).me] []) (homed v)) ∧
    (badTarget (homed 0).me (2 ^ 24) 1 (homed 0) = true ∧
      ∀ v ∈ [0, 16, 2 ^ 22, 2 ^ 22 + 512], badTarget (homed 0).me v 1 (homed 0) = false) := by
  refine ⟨?_, ?_, ?_, ?_, ?_, ?_, ?_, ?_⟩ <;> decide +kernel

/-- HartInstructions, `tenq`: an odd and an even address. -/
theorem witness_tenq : (∀ s ∈ [homed 0, homed (2 ^ 32)], Ready (plainGate (.tenq 0x88 0x80 16)
      [srcNeed .d .A 0x80 0 s.me, srcNeed .d .B 0x88 0 s.me, .slices 3 2 16 24] []) s) ∧
    (homed 0).me.task = none ∧ present (homed 0).me = true := by
  refine ⟨?_, ?_, ?_⟩ <;> decide +kernel

/-- HartInstructions, `amsg`, `spnext`, `sbind`: a handler and another hart; counters closed, open and used up; a tag
in use and a free one. -/
def counting (next : Nat) : State :=
  { homed 3 with spans := [⟨3, 1, next, 32, next⟩], reqs := [asks (.spnext 3 8 32) false], pends := [waits] }
def streaming : State := { on { hart 0 .kernel with streams := [(1, ⟨9, []⟩)] } with
  harts := [{ hart 1 .user with streams := [(2, ⟨0, []⟩)] }] }

theorem witness_messages :
    (∀ s ∈ [kern, on { hart 0 .kernel with handles := some (5, 2) }], Ready { plainGate (.amsg 0xD0 0x80 1 2)
      (srcNeed .d .A 0x80 0 s.me :: memNeeds (.byte .d 0xD0) 0 1 s.me) [dstTgt .d .A 0x80 s.me] with bars := true, tags := 1 } s) ∧
    (capFault Cap.root1 (pR + pW) = none ∧ (fieldsOf Cap.root1).space ≠ 0 ∧
      locate kern.me Cap.root1 0 (pR + pW) true (.bytes 1) kern = .ok ⟨.pan 0, 0, 0, 1, 0⟩) ∧
    (∀ s ∈ [kern, counting 0], Ready { plainGate (.spnext 0x88 0x80 0x90) [srcNeed .d .A 0x80 0 s.me, srcNeed .d .B 0x88 0 s.me]
      [dstTgt .d .D 0x90 s.me] with bars := true, tags := 1 } s) ∧
    spanOpen kern.me 0 kern = false ∧ spanOpen (counting 0).me 3 (counting 0) = true ∧
    (∀ n ∈ [0, 32], let s := counting n
      reqById 1 s = some (asks (.spnext 3 8 32) false) ∧ reqReady (asks (.spnext 3 8 32) false) s = true ∧
      s.spans.find? (fun c => c.id == 3) = some ⟨3, 1, n, 32, n⟩) ∧
    (∀ s ∈ [kern, streaming], Ready { plainGate (.sbind 1 0x80) [srcNeed .d .A 0x80 0 s.me] [] with bars := true } s ∧
      Ready { plainGate (.sbindOff 1) [] [] with bars := true } s) ∧
    (streamOf 1 streaming.me ≠ none ∧ streamOf 1 kern.me = none ∧ tagHeld 0 kern = false ∧ tagHeld 0 streaming = true) := by
  refine ⟨?_, ?_, ?_, ?_, ?_, ?_, ?_, ?_⟩ <;> decide +kernel

/-- MessagesSpansAndStreams: claims of a counter whose partition has a replica, and those that await it. -/
theorem witness_claims : let s (op : HomeOp) : State :=
      { counting 0 with parts := [{ part with n := 1, whole := true, diemask := 3, replica := some 1 }], reqs := [asks op false] }
    hasReplica ⟨3, 1, 0, 32, 0⟩ (s (.spnext 3 8 32)) = true ∧ hasReplica ⟨3, 1, 0, 32, 0⟩ (counting 0) = false ∧
    ∀ op ∈ [HomeOp.spnext 3 8 32, .spanAck 3 8 32 0 8, .spanReply 3 8 32 0],
      reqById 1 (s op) = some (asks op false) ∧ reqReady (asks op false) (s op) = true := by
  refine ⟨?_, ?_, ?_⟩ <;> decide +kernel

/-- HartEvents: a stepped hart, a wait with a limit, each interrupt in each mode that takes it, a woken hart, and a target
in reach, each in a tile in service. -/
theorem in_service (n : Nat) (h : Hart) : inService n (on h) := List.not_mem_nil

theorem witness_hart_events :
    (let s := on { hart 0 .kernel with stepped := true }
     present s.me = true ∧ s.me.txn.depth = 0 ∧ s.me.stat = .running) ∧
    (let s := on { hart 0 .kernel with stat := .waiting [.regs], hwaitlim := 9, woken := true }
     s.me.hwaitlim ≠ 0 ∧ offRotation s.me.stat = true ∧ s.me.stat = .waiting [.regs]) ∧
    (∀ b ∈ [0, 1, 2, 3], let h := { hart 0 .user with hip := BitVec.ofNat 4 (2 ^ b), hie := 0xF, htcmp := if b = 1 then 0 else BitVec.allOnes 64 }
      (enabledInterrupts h 0).getLsbD b = true ∧ (∀ j < 4, b < j → (enabledInterrupts h 0).getLsbD j = false) ∧
      h.task = none ∧ h.stepped = false ∧ h.stat = .running) ∧
    (hart 0 .kernel).fwdeleg.getLsbD 12 = false ∧
    ({ hart 0 .firmware with fb := { TrapBank.init 0 with ie := true } } : Hart).fb.ie = true ∧
    nameExists 1 = true ∧ tileReach (homed 0).me (tileOf 1) (homed 0) = true := by
  refine ⟨?_, ?_, ?_, ?_, ?_, ?_, ?_⟩ <;> decide +kernel

/-- MessagesAndMoves: an interrupt and a message to this hart, to a full mailbox, to one for which another is held, to a slot
that nobody holds and to a tile out of service; each way in which a message lets another come first; and one with a leg left. -/
def message (id dst at_ : Nat) : Msg :=
  { id := id, src := 5, dst := dst, val := 7, at_ := at_, turns := 0, via := 0, held := false, hist := [], stamp := none }
def sent (l : List Msg) : State := { kern with msgs := l }

theorem witness_arrivals : (∀ d ∈ [0, 9], let m : Ipi := ⟨3, 5, d, 0, 0, [], none⟩
      let s := { kern with ipis := [m] }
      s.ipis.find? (fun x => x.id == m.id) = some m ∧ inService d s ∧ FirstOf m.id m.via (d / 512) s ∧
      (d = 0 ∨ (hartAt d s = none ∧ arriving d s = false ∧ forwardTo d s = none))) ∧
    (let m : Ipi := ⟨3, 5, 0, 0, 0, [], none⟩
     ¬inService 0 { kern with ipis := [m], fenced := [0] } ∧
      ¬FirstOf m.id m.via 0 { kern with ipis := [⟨2, 5, 16, 0, 0, [], none⟩, m] } ∧
      ¬FirstOf m.id m.via 0 { kern with ipis := [m], msgs := [message 2 16 0] }) ∧
    (∀ d ∈ [0, 9], ∀ held ∈ [true, false], let m := { message 3 d 0 with held := held }
      let s := sent [m]
      s.msgs.find? (fun x => x.id == m.id) = some m ∧ inService d s ∧ ¬LetsOthersPass m s ∧ m.at_ = m.dst / 512) ∧
    (let s := on { hart 0 .kernel with rxFull := true, rxq := [1, 2, 3, 4] }
     4 ≤ s.me.rxq.length ∧ s.me.rxFull = true ∧ kern.me.rxFull = false ∧ kern.me.rxq = []) ∧
    (let m := message 4 0 0
     let x := { message 3 0 0 with src := 6, via := 1, held := true }
     let s := sent [x, m]
     ¬LetsOthersPass m s ∧ m.held = false ∧ x ∈ s.msgs ∧ x.held = true ∧ x.dst = m.dst) ∧
    (∀ x ∈ [{ message 3 16 0 with src := 6 }, { message 3 0 0 with via := 1 }, { message 9 1 0 with src := 6, via := 1 }],
      let m := { message 4 0 0 with hist := [9] }
      let s := sent [x, m]
      s.msgs.find? (fun x => x.id == 4) = some m ∧ LetsOthersPass m s) ∧
    (let m := { message 4 0 0 with held := true }
     LetsOthersPass m (sent [{ message 3 0 0 with src := 6, held := true }, m])) ∧
    (message 3 512 0).at_ ≠ (message 3 512 0).dst / 512 := by
  unfold inService LetsOthersPass FirstOf
  refine ⟨?_, ?_, ?_, ?_, ?_, ?_, ?_, ?_⟩ <;> decide +kernel

/-- A hart in tile 0 with a capability for the pan of tile 1, one in a transaction, one of a handler and one with a stream; v0
holds zeros. -/
def pan1 : Cap := ⟨Cap.root1.bits + BitVec.ofNat 128 (2 ^ 114 + 2 ^ 101), true⟩
def far (f : Hart → Hart) : State := on (f { hart 0 .kernel with c := [Cap.root0, pan1] ++ List.replicate 14 Cap.null })
def farAcc (n : Nat) : Acc := ⟨.pan 1, 0, 0, n, 0⟩

/-- FarAccessesMigrate: a load, a store inside a transaction, a full/empty form, an atomic, a posted one, a log entry, a merge, a
vector load and a gather; each of them for a plain hart, for a handler and with a stream bound. -/
theorem witness_far : ∀ f ∈ [fun h => h, fun h => { h with handles := some (5, 2) }, fun (h : Hart) => { h with streams := [(1, ⟨9, []⟩)] }],
    let s := far fun h => { f h with txn := { Txn.none with id := 7, depth := 1, gen := 1 } }
    let u := far f
    let c := u.me.c.getD 1 Cap.null
    (Ready (plainGate (.ldN 0xD0 0x80 1) (memNeeds (.byte .n 0xD0) 0 1 u.me) [opdTgt .A (.byte .n 0x80) u.me]) u ∧
      locate u.me c 0 pR false (.run 16) u = .ok (farAcc 2)) ∧
    (Ready (plainGate (.stN 0xD0 0x80 1) (opdNeed .A (.byte .n 0x80) 0 s.me :: memNeeds (.byte .n 0xD0) 0 1 s.me) []) s ∧
      locate s.me c 0 pW true (.run 16) s = .ok (farAcc 2) ∧ s.me.txn.depth ≠ 0) ∧
    (Ready (plainGate (.ldfeN 0xD0 0x80 1) (memNeeds (.byte .n 0xD0) 0 1 u.me) [dstTgt .n .A 0x80 u.me]) u ∧
      locate u.me c 0 (pR + pSync) false (.single 16) u = .ok (farAcc 2)) ∧
    (Ready (plainGate (.amoAdd 0xD0 0x80 1) (srcNeed .d .A 0x80 0 u.me :: memNeeds (.byte .d 0xD0) 0 1 u.me) [dstTgt .d .A 0x80 u.me]) u ∧
      Ready (plainGate (.amoAddPost 0xD0 0x80 1) (srcNeed .d .A 0x80 0 u.me :: memNeeds (.byte .d 0xD0) 0 1 u.me) []) u ∧
      locate u.me c 0 (pR + pW + pAtom) true (.atomic 32) u = .ok (farAcc 4)) ∧
    (locate u.me c 0 (pW + pAtom) true (.log 32) u = .ok (farAcc 4)) ∧
    (Ready { plainGate (.lmerge 0x80 1) [.cap 1] [dstTgt .d .A 0x80 u.me] with bars := true } u ∧
      locate u.me c 0 (pR + pW + pAtom) true .first u = .ok (farAcc 1)) ∧
    (Ready (vGate (.vld 0xD0 0x80 1) (memNeeds (.byte .d 0xD0) 0 1 u.me) [.vec 0]) u ∧
      locate u.me c 0 pR false .line u = .ok (farAcc 64)) ∧
    (Ready (vGate (.vgat 0x80 0x80 1) [.cap 1, vecNeed .B 0] [.vec 0]) u ∧
      (match locateLanes u.me c pR false 32 u (laneIndices 32 32 (u.me.v.getD 0 0).toNat) with
        | .ok (a :: _) => a == some (farAcc 4)
        | _ => false) = true) ∧
    1 ≠ u.me.name.toNat / 512 := by
  intro f hf
  fin_cases hf <;> exact ⟨by decide +kernel, by decide +kernel, by decide +kernel, by decide +kernel, by decide +kernel,
    by decide +kernel, by decide +kernel, by decide +kernel, by decide⟩

/-- R46: a load of another tile's pan leaves for the cell of its bank. -/
theorem test_far_load : ∃ t, exec (.ldN 0xD0 0x80 1) (far fun h => h) = .next t ∧ t.me.stat = .departing (.bank 32) ∧
    t.me.pc = 0x10000 := ⟨_, rfl, by decide +kernel, by decide +kernel⟩

theorem witness_moves :
    (let s := { crowded with me := { hart 512 .kernel with stat := .departing (.cell 0) } }
     present s.me = true ∧ s.me.unacked = 0 ∧ moveSlot (.cell 0) s = some 0) ∧
    (let s := { crowded with harts := hart 0 .user :: crowded.harts, me := { hart 512 .kernel with stat := .departing (.cell 0) } }
     moveSlot (.cell 0) s = none) ∧
    (let s := on { hart 0 .kernel with stat := .departing (.cell 1) }
     moveSlot (.cell 1) s = some 16 ∧ (getCell (cellOf s.me.nm) s).fwd.length < 16) ∧
    (let s := { on { hart 0 .kernel with stat := .departing (.cell 1) } with pends := [{ waits with id := 9 }] }
     let t := setCell 0 { Cell.init with fwd := List.replicate 16 ⟨0, [], 0⟩ } s
     moveSlot (.cell 1) t = some 16 ∧ 16 ≤ (getCell (cellOf t.me.nm) t).fwd.length ∧
      t.pends.any (fun p => p.route == t.me.name.toNat) = true) ∧
    (on { hart 0 .kernel with stat := .leaving 16 }).me.stat = .leaving 16 ∧
    (let h := hart 16 .kernel
     ({ kern with migs := [h] }).migs.find? (fun x => x.name == h.name) = some h) ∧
    (on { hart 0 .kernel with stat := .retired, unacked := 1 }).me.unacked ≠ 0 := by
  refine ⟨?_, ?_, ?_, ?_, ?_, ?_, ?_⟩ <;> decide +kernel

/-- TaskEvents: an arrival at a unit with room and at a full one, a start, a frontier, a commit with nothing and with a
word held, a roll-back, and a handler. -/
theorem witness_tasks :
    (lookupNat 4 ({ kern with enqs := [(4, queued)] }).enqs = some queued ∧ runnerOf (parentKey queued.key) kern = none) ∧
    (getTile 0 kern).tasks.length < 256 ∧
    (let s := setTile 0 { Tile.init with tasks := List.replicate 256 queued } kern
     256 ≤ (getTile 0 s).tasks.length ∧ spillShare 0 s ≤ (getTile 0 s).spill.length) ∧
    (∀ u ∈ [{ Tile.init with tasks := [queued] }, { Tile.init with spill := [queued] }], let s := setTile 0 u kern
     leastTask ((u.tasks ++ if u.tasks.length < 256 then (leastTask u.spill).toList else []).filter
       fun e => e.wakeOn.isNone) = some queued ∧ freeInTile 0 s = some 1 ∧ tasksRunning 0 s < 64) ∧
    ((homed 0).parts = [part] ∧ part.n = (1 : BitVec 4).toNat) ∧
    (∀ buf ∈ [[], [(1, 3, MOp.word panWord 5 0xFF)]], let s := running buf none .taskDone
      s.me.stat = .taskDone ∧ s.me.txn.doom = none ∧ s.me.unacked = 0 ∧
      partitionOf queued.tile s = some { part with frontier := some queued.key } ∧ txnBusy s.me.txn.id s = false ∧
      roomFor (heldOps s.me) s = true ∧ commitWaits s.me s = false ∧ Memory.wf s.mem = true ∧ wordBad panWord s = false) ∧
    (let s := running [] (some (1, 0)) .running
     present s.me = true ∧ s.me.txn.depth ≠ 0 ∧ s.me.unacked = 0 ∧ s.me.txn.doom = some (1, 0)) ∧
    (let m : AmReq := ⟨5, 2, 1, 7, 0, Cap.root1, .user, 0, TrapBank.init 0, TrapBank.init 0, 0, 0⟩
     (getCell 0 (setCell 0 { Cell.init with amq := [m] } kern)).amq = [m] ∧ slotFree 15 kern = true) := by
  refine ⟨?_, ?_, ?_, ?_, ?_, ?_, ?_, ?_⟩ <;> decide +kernel

/-- R316, R318: across a RING over a whole die, 64 hops have two waypoints, and the turn list ejects at the first, whichever way
the tile faces its router; the closing link leads from (7, 0) to (0, 0). -/
theorem test_ring_legs : let p := { part with topo := 1 }
    let route := tileAt 0 0 0 :: meshPath p (tileAt 0 0 0) (tileAt 0 4 0) (homed 0)
    waypoints route.tail = [tileAt 0 1 0, tileAt 0 3 1] ∧
    (∀ f < 4, let l := joinLanes 2 (turnCodes p f (route.take 32))
      let d := turnPort f (l % 4)
      l < 2 ^ 64 ∧ ejectTile p 31 (linkTo p (tileAt 0 0 0) d) d (l / 4) = tileAt 0 1 0) ∧
    meshPath p (tileAt 0 7 0) (tileAt 0 0 1) (homed 0) = [tileAt 0 0 0, tileAt 0 0 1] := by decide +kernel

theorem test_fenced_route : let s := { homed 0 with parts := [{ part with whole := true }], fenced := [tileAt 0 0 1] }
    meshPath { part with whole := true } (tileAt 0 0 0) (tileAt 0 0 2) s =
      [tileAt 0 1 0, tileAt 0 1 1, tileAt 0 1 2, tileAt 0 0 2] := by decide +kernel

/-- R316: of two shortest paths round fenced tiles, the one with the longer run of columns. -/
theorem test_fenced_run : let s := { homed 0 with
      parts := [{ part with whole := true }]
      fenced := [tileAt 0 1 5, tileAt 0 2 4, tileAt 0 2 5, tileAt 0 2 6, tileAt 0 0 3] }
    meshPath { part with whole := true } (tileAt 0 0 5) (tileAt 0 4 5) s =
      [tileAt 0 0 6, tileAt 0 0 7, tileAt 0 1 7, tileAt 0 2 7, tileAt 0 3 7, tileAt 0 3 6, tileAt 0 3 5, tileAt 0 4 5] := by
  decide +kernel

/-- R317: a RING's row turns at its end, its native link there stands and the other is off; the closing link taps. -/
theorem test_prisms : let s := { homed 0 with parts := [{ part with topo := 1 }] }
    prismAt (tileAt 0 0 15) 2 s = .native ∧ prismAt (tileAt 0 0 0) 2 s = .nothing ∧ prismAt (tileAt 0 0 0) 0 s = .tap ∧
    prismAt (tileAt 0 7 0) 2 s = .tap ∧ prismAt (tileAt 1 0 0) 0 s = .native := by decide +kernel

/-! ### Vectors, the matrix unit and semaphores -/

/-- VectorLaneResults, VectorWholeRegisterResults: the gates are ready, stochastic and three-register ones too, for
well-formed words. -/
theorem witness_vectors : (∀ g ∈ [vGate (.vadd 0x82 0x81 0x80) (needsAB 0x82 0x81) [.vec 0],
      vGate (.vfma 0x82 0x91 0xA0) (needsAB 0x82 0x91 ++ [vecNeed .D 0] ++ [.vec 3 4 1]) [.vec 0],
      vGate (.vabs 0x81 0x80) [vecNeed .A 1] [.vec 0], vGate (.vsel 0x82 0x81 0x80) (needsAB 0x82 0x81 ++ [vecNeed .D 0]) [.vec 0],
      vGate (.vbcast 0x80 0x80) [srcNeed .d .A 0x80 0 kern.me] [.vec 0],
      vGate (.vcvt 4 3 0x81 0x80) (vecNeed .A 1 :: [.vec 2 4 3, .vec 2 4 4]) [.vec 0],
      vGate (.visect 0x82 0x81 0x50) (needsAB 0x82 0x81) [.vec 0, .vec 1]], Ready g kern) ∧
    (∀ i ∈ [Instr.vadd 0x82 0x81 0x80, .vfma 0x82 0x91 0xA0, .vmin 0x82 0x81 0x80, .vabs 0x81 0x80, .vpopc 0x81 0x80, .vand 0x82 0x81 0x80,
      .vshl 0x82 0x81 0x80, .vcmp 0x92 0x91 0x80, .vsel 0x82 0x81 0x80, .vbcast 0x80 0x80, .vperm 0x82 0x81 0x80,
      .vcomp 0x82 0x81 0x80, .vexp 0x82 0x81 0x80, .vcvt 4 3 0x81 0x80, .vred 1 0x81 0x80, .vdot 0x02 0x01 0x80,
      .visect 0x82 0x81 0x50], WellFormed i) := by
  refine ⟨?_, ?_⟩ <;> decide +kernel

/-- R209: an 8-bit lane wraps, or is clamped where B asks. -/
theorem test_vadd : ∃ t, exec (.vadd 0x01 0x01 0x02) (on { hart 0 .kernel with v := [0, 0x7F] ++ List.replicate 14 0 }) = .next t ∧
    t.me.v.getD 2 0 = 0xFE := ⟨_, rfl, by decide +kernel⟩

theorem test_vadd_clamps : ∃ t, exec (.vadd 0x11 0x01 0x02) (on { hart 0 .kernel with v := [0, 0x7F] ++ List.replicate 14 0 }) = .next t ∧
    t.me.v.getD 2 0 = 0x7F := ⟨_, rfl, by decide +kernel⟩

/-- R220: 127 * 127 four times at 8 bits, summed at 32. -/
theorem test_vdot : ∃ t, exec (.vdot 0x01 0x01 0x82) (on { hart 0 .kernel with v := [0, 0x7F7F7F7F] ++ List.replicate 14 0 }) = .next t ∧
    t.me.v.getD 2 0 = 64516 := ⟨_, rfl, by decide +kernel⟩

/-- VectorMemory: a line and a block in the own pan, and gathers and scatters with every lane skipped and with lane 0
alone. -/
def skipping (v : Line) : State := on { hart 0 .kernel with v := [0, v] ++ List.replicate 14 0 }

theorem witness_vector_lines : Passes (tagged (vGate (.vld 0xD0 0x80 1) (memNeeds (.byte .d 0xD0) 0 1 kern.me) [.vec 0]) (readParts (panAcc 0 64)))
      (kern.me.c.getD 1 Cap.null) 0 pR false false 512 .line (panAcc 0 64) kern ∧
    Passes (vGate (.vst 0xD0 0x10 1) (vecNeed .A 0 :: memNeeds (.byte .d 0xD0) 0 1 kern.me) []) (kern.me.c.getD 1 Cap.null) 0 pW true true
      0 (.block 8) (panAcc 0 64) kern :=
  ⟨passes_of (by decide +kernel), passes_of (by decide +kernel)⟩

/-- Located lanes, computed. -/
def lanesAre (r : LanesLocated) (l : List (Option Acc)) : Bool :=
  match r with
  | .ok x => x == l
  | _ => false

theorem ok_of_lanesAre {r : LanesLocated} {l : List (Option Acc)} (h : lanesAre r l = true) : r = .ok l := by
  cases r <;> simp_all [lanesAre]

/-- Every lane skipped, and every lane but the first. -/
def allSkip : Line := BitVec.allOnes 512
def firstOnly : Line := BitVec.ofNat 512 (2 ^ 512 - 2 ^ 32)
def noLanes : List (Option Acc) := List.replicate 16 none
def oneLane : List (Option Acc) := some (panAcc 0 4) :: List.replicate 15 none

theorem witness_vector_lanes : (∀ p ∈ [(pR, false), (pW, true)],
      locateLanes (skipping allSkip).me Cap.root1 p.1 p.2 32 (skipping allSkip) (laneIndices 32 32 allSkip.toNat) = .ok noLanes ∧
      locateLanes (skipping firstOnly).me Cap.root1 p.1 p.2 32 (skipping firstOnly) (laneIndices 32 32 firstOnly.toNat) = .ok oneLane) ∧
    ∀ x ∈ [(skipping allSkip, noLanes), (skipping firstOnly, oneLane)],
      Ready (tagged (vGate (.vgat 0x81 0x80 1) [.cap 1, vecNeed .B 1] [.vec 0]) (lanesParts x.2)) x.1 ∧
      Ready (vGate (.vsct 0x81 0x80 1) [vecNeed .A 0, .cap 1, vecNeed .B 1] []) x.1 ∧
      (x.2.all fun o => o.all fun a => migrates x.1.me a false == none && migrates x.1.me a true == none) = true ∧
      lanesFault x.1.me 32 x.2 x.1 = none := by
  refine ⟨?_, by decide +kernel⟩
  simp only [List.forall_mem_cons, List.not_mem_nil, false_imp_iff, implies_true, and_true]
  refine ⟨⟨?_, ?_⟩, ?_, ?_⟩ <;> exact ok_of_lanesAre (by decide +kernel)

/-- A hart of the stager's cell whose slices and xm0 hold numbers, with slot 0 in a state. -/
def staging (v xm : Nat) (slot : Slot) : State :=
  setTile 0 { Tile.init with slots := slot :: List.replicate 15 Slot.init } (on { hart 256 .kernel with
    slices := BitVec.ofNat 1024 v, xm := [BitVec.ofNat 32 xm, 0, 0, 0] })
def claimed : Slot := { Slot.init with state := .claimed, fmt := 58 }

/-- StageInstructions: all slots taken, the lowest free one, a slot that is not open, an open one without and with fills;
a square that does not fit, one without R, one from the own pan; a uniform scale, one of a format without a strip, and
scales from the pan. -/
theorem witness_stages :
    (let s := setTile 0 { Tile.init with slots := List.replicate 16 claimed } stager
     Ready (unitOf (.mclaim 58 0x80) .S [] [dstTgt .d .D 0x80 s.me]) s ∧ (getTile (ownTile s) s).slots.length = 16 ∧
     (getTile (ownTile s) s).slots.all (fun v => v.state != .free) = true) ∧
    (let s := staging 0 0 claimed
     Ready (unitOf (.mclaim 58 0x80) .S [] [dstTgt .d .D 0x80 s.me]) s ∧ (slotAt 1 s).state = .free ∧ (slotAt 0 s).state ≠ .free) ∧
    (∀ v ∈ [Slot.init, claimed, { claimed with fills := 1 }], let s := staging 0 0 v
     Ready (unitOf (.mrel 0x80) .S [srcNeed .d .A 0x80 0 s.me] []) s) ∧
    (claimed.state = .claimed ∧ claimed.pins = 0 ∧ Slot.init.state ≠ .claimed) ∧
    (∀ x ∈ [(2 ^ 6, 1), (0, 2), (0, 1 + 32 * 2 ^ 4)], let s := staging x.1 x.2 claimed
     Ready (unitOf (.mfill 0x88 0x80) .S [srcNeed .d .A 0x80 0 s.me, srcNeed .d .B 0x88 0 s.me, .cap (x.2 % 16)] []) s) ∧
    (2 ^ 6 / 2 ^ 6 % 2 ^ 7 % 32 ≠ 0 ∧ slotK 58 = 512 ∧ capFault Cap.null pR = some cCapTag ∧ capFault Cap.root1 pR = none ∧
      capSpace Cap.root1 = 1) ∧
    ((List.range 1024).all fun z => unitInBlock Cap.root1 32 z) = true ∧
    (∀ x ∈ [0, 16], let s := staging x 1 claimed
     Ready (unitOf (.mscale 0x88 0x80) .S ([srcNeed .d .A 0x80 0 s.me, srcNeed .d .B 0x88 0 s.me] ++
       if x.testBit 4 then [.cap 1] else []) []) s) ∧
    (hasStrip 58 = true ∧ hasStrip 32 = false ∧ ((List.range 4096).all fun z => unitInBlock Cap.root1 0 z) = true) := by
  refine ⟨?_, ?_, ?_, ?_, ?_, ?_, ?_, ?_, ?_⟩ <;> decide +kernel

/-- FillsEnd: a square of 32 by 32 from the own pan, and scales, uniform and from the pan. -/
def filling (op : FillOp) : Fill :=
  { id := 4, slot := 0, op := op, off := 0, n := 1024, cap := Cap.root1, pan := some 0, fmt := 32, maps := [], key := 16, after := [] }

theorem witness_fills : ∀ op ∈ [FillOp.square false 0 0 32, .uniform 3, .scales],
    let s := setTile 0 { Tile.init with fills := [filling op], slots := { claimed with fills := 1 } :: List.replicate 15 Slot.init } kern
    let f := filling op
    ((getTile 0 s).fills.find? (fun g => g.id == f.id) = some f ∧ (getTile 0 s).fills.find? (fun g => g.slot == f.slot) = some f ∧
      f.slot < (getTile 0 s).slots.length) ∧
    fillUnit f 1023 = some (panFrame 0 Cap.root1, 32, 1023, none) ∧
    badWord (unitWords (panFrame 0 Cap.root1) 0 5) f.key s = none ∧ NoRepair (fillWords f) s := by
  unfold NoRepair
  decide +kernel

/-- FillsEnd: a unit that cannot be read, and a fill of global memory with a line to rebuild. -/
theorem witness_fill_fails : let s := { kern with mem := setSide kern.mem (panBase / 64) { SideBand.init with badWords := 1 } }
    badWord (unitWords (panFrame 0 Cap.root1) 0 5) 16 s ≠ none := by decide +kernel

/-- No channel has failed while nothing is listed (R347). -/
theorem no_failmap (side : List (Nat × SideBand)) (k : Nat) (h : k < 128) :
    rawWord ⟨[], side⟩ ((0x2400 + 8 * k) / 8) % 2 ^ 32 = 0 :=
  (by decide +kernel : ∀ k < 128, rawWord ⟨[], []⟩ ((0x2400 + 8 * k) / 8) % 2 ^ 32 = 0) k h

def fromMemory : Fill := { filling .scales with pan := none, cap := Cap.root0, off := 0x10000, n := 1, maps := [codePage] }
def damaged : State := setTile 0 { Tile.init with fills := [fromMemory] }
  { kern with mem := setSide kern.mem 0x400 { SideBand.init with wiped := false, ecc := true } }

theorem damaged_failmap (l : Nat) : failmap (stackOf l damaged % 128) damaged = 0 := no_failmap _ _ (Nat.mod_lt _ (by decide))

theorem witness_fill_repairs : (getTile 0 damaged).fills = [fromMemory] ∧
    ((fillWords fromMemory).map fun w => w / 8).find? (fun l => eccFails l damaged && rebuilds l damaged) = some 0x400 := by
  refine ⟨by decide +kernel, ?_⟩
  have h : (fillWords fromMemory).map (fun w => w / 8) = [0x400] := by decide +kernel
  have hs : getSide damaged.mem 0x400 = { SideBand.init with wiped := false, ecc := true } := by decide +kernel
  have hm : isHbm 0x400 = true := by decide +kernel
  rw [h]
  simp [eccFails, rebuilds, channelFailed, failedIn, damaged_failmap, hs, hm, SideBand.init, bitAt, popCount, bit]

/-- R237 to R244: `msem.p`, `msem.v`, `mmask`, `mmac`, `macc.clr` and `macc.rd` in their cells; with a full queue, and with
slots that are and are not ready, paired, failed. -/
def driving (v : Nat) (t : Tile) : State := setTile 0 t (on { hart 272 .kernel with slices := BitVec.ofNat 1024 v })
def loaded (v w : Slot) (n : Nat) : Tile := { Tile.init with
  slots := v :: w :: List.replicate 14 Slot.init, mq := List.replicate n (.clr 9 0) }

theorem witness_matrix : (Ready (plainGate (.msemP 2) [] []) kern ∧ Ready (plainGate (.msemV 2) [] []) kern) ∧
    (∀ n ∈ [0, 4], let s := driving (1 * 16) (loaded claimed claimed n)
      Ready (unitOf (.mmac 1 0x80) .M [srcNeed .d .A 0x80 0 s.me] []) s ∧ Ready (unitOf (.maccClr 1) .M [] []) s) ∧
    (∀ n ∈ [0, 4], let s := driving (1 * 16) (loaded claimed claimed n)
      Ready (unitOf (.mmask 0x88 0x80) .M [srcNeed .d .A 0x80 0 s.me, srcNeed .d .B 0x88 0 s.me] []) s ∧
      Ready (tagged (unitOf (.maccRd 0x88 0x80 4) .M [srcNeed .d .A 0x80 0 s.me, srcNeed .d .B 0x88 0 s.me] [.vec 4]) 1) s) ∧
    ((loaded claimed claimed 4).mq.length = 4 ∧ claimed.fills = 0 ∧ ({ claimed with fills := 1 } : Slot).fills ≠ 0 ∧
      slotK claimed.fmt = slotK claimed.fmt ∧ claimed.fmt ≠ 56 ∧ kern.care.full = false ∧
      ({ claimed with fmt := 56 } : Slot).fmt = 56 ∧ ({ claimed with found := true } : Slot).found = true ∧
      claimed.found = false) := by
  refine ⟨⟨?_, ?_⟩, ?_, ?_, ?_⟩ <;> decide +kernel

/-- MatrixUnitAndSemaphores: a semaphore above 0 and at 0, an `msem.v` that is due, one at the greatest count, and one behind
work; a product, a clear and a read in the queue. -/
def semW : Nat := 2 ^ 52
def semV : SemV := { id := 3, src := 0, w := semW, deps := [], hist := [], txn := none }
def counted (n : Nat) (t : Tile) : State :=
  setTile 0 t { kern with mem := setRawWord kern.mem semW n, reqs := [asks (.semP semW) false], pends := [{ waits with dest := .none }] }

theorem witness_semaphores : (∀ n ∈ [0, 5, 65535], let s := counted n { Tile.init with semv := [semV] }
      let r := asks (.semP semW) false
      (reqById 1 s = some r ∧ reqReady r s = true ∧ pendOf r s = some { waits with dest := .none }) ∧
      (viewVal (viewOf semW s) = n ∧ rawWord s.mem semW = n ∧ wordBad semW s = false ∧ Memory.wf s.mem = true) ∧
      (getTile 0 s).semv.find? (fun x => x.id == semV.id) = some semV) ∧
    2048 ≤ semW ∧ semTile semW = 0 ∧ lineReads (semW / 8) 16 kern = true ∧
    (let s := setTile 0 { Tile.init with semv := [{ semV with deps := [7] }], mq := [.clr 7 0] } kern
     workLive 7 s = true) := by
  refine ⟨?_, ?_, ?_, ?_, ?_⟩ <;> decide +kernel

theorem witness_queue : (∀ x ∈ [MJob.clr 1 0, .rd 1 0 5 [(2, 0)]], jobBank x ≠ 1 ∧ isMmac x = false) ∧
    isClr (.mmac 1 0 0 1 0 0) = false ∧ isRd (.clr 1 0) = false ∧ ([(2, 0), (3, 1)].map Prod.fst).Nodup ∧
    slotK claimed.fmt = slotK claimed.fmt := by
  decide +kernel

/-- R243: `macc.clr` leaves +0; R239: a mask of the low 5. -/
theorem test_clear : ∃ t, exec (.maccClrRun 0) (setTile 0 { Tile.init with mq := [.clr 7 1], acc1 := [(5, 0x3F800000)] } kern) = .next t ∧
    bankElem (getTile 0 t) 1 0 5 = 0 ∧ (getTile 0 t).mq = [] := ⟨_, rfl, by decide +kernel, by decide +kernel⟩

theorem test_mask : ∃ t, exec (.mmask 0x88 0x80) (driving (5 + 4 * 2 ^ 32) Tile.init) = .next t ∧ (getTile 0 t).rm = 0x1F :=
  ⟨_, rfl, by decide +kernel⟩

/-! ### Chains, engines and fences -/

/-- Words stored one after another. -/
def withWords (l : List (Nat × Nat)) (s : State) : State :=
  { s with mem := l.foldl (fun m x => setRawWord m x.1 x.2) s.mem }

/-- A chain of tile 0 whose header is the first 64 bytes of its pan, with words of the header. -/
def chain : Chain :=
  { hdr := panBase, stale := false, cap := Cap.root1, fw := false, blk := (27, 0), maps := [], adv := 0, hist := [] }
def head (n : Nat) : Nat := panBase / 8 + n
def chained (words : List (Nat × Nat)) (run : Option CmdRun) : State :=
  withWords words (setTile 0 { Tile.init with copy := ⟨[chain], run, none⟩, quant := ⟨[chain], run, none⟩ } kern)

/-- What an engine asks of its chain. -/
def chainOk (s : State) : Bool :=
  Memory.wf s.mem && chain.hdr % 64 == 0 && decide (2048 ≤ chain.hdr / 8) &&
    ((List.range 8).all fun i => !wordBad (8 * (chain.hdr / 64) + i) s) && !engStops 0 false s && !engStops 0 true s

/-- ChainsAndPublication: `chadv` and `publish` through a capability without a permission, out of bounds, misaligned, with
no room, and through c1. -/
def advancing (xm : Nat) (c : Cap) : State := on { hart 0 .kernel with
  xm := [0, BitVec.ofNat 32 xm, BitVec.ofNat 32 xm, 0], c := [Cap.root0, Cap.root1, c] ++ List.replicate 13 Cap.null }

theorem witness_chains : (∀ xm ∈ [1, 2, 17], ∀ c ∈ [Cap.null], let s := advancing xm c
      Ready { plainGate (.chadv 0x80) [srcNeed .d .A 0x80 0 s.me, .cap (xm % 16)] [] with bars := true } s ∧
      Ready { plainGate (.publish 0x80) [srcNeed .d .A 0x80 0 s.me, .cap (xm % 16)] [] with bars := true } s) ∧
    (capFault Cap.null (pR + pW + pLcap) = some cCapTag ∧ capFault Cap.root1 (pR + pW + pLcap) = none ∧
      capFault Cap.null pW = some cCapTag ∧ capFault Cap.root1 pW = none) ∧
    (2048 ≤ blockUnits Cap.root1 ∧ addrOk Cap.root1 2047 = true ∧ capPath Cap.root1 % 64 = 0 ∧ capSpace Cap.root1 = 1) ∧
    (let small := capOf { fieldsOf Cap.root1 with depth := 27 }
     blockUnits small < 64 ∧ capFault small (pR + pW + pLcap) = none) ∧
    (chainRoom panBase 0 false kern = true ∧
      chainRoom panBase 0 false (setTile 0 { Tile.init with quant := ⟨[chain], none, none⟩ } kern) = false) ∧
    (blockDepth 0 = 0 ∧ capDepth Cap.root1 = 17 ∧ blockDepth (17 * 2 ^ 56) = 17 ∧ inBlock 0 17 (capPath Cap.root1) = true) := by
  refine ⟨?_, ?_, ?_, ?_, ?_, ?_⟩ <;> decide +kernel

theorem witness_advance : (∀ op ∈ [HomeOp.chadv chain 3 0 false, .publish (some 0) 17 0],
      let r := asks op true
      reqById 1 (serving [r]) = some r ∧ reqReady r (serving [r]) = true) ∧ chainOk (chained [] none) = true ∧
    (let p : PendWrite := ⟨panWord, 5, 0xFF, true, none, 16, []⟩
     lineInRegion (asks (.publish (some 0) 17 0) true) (some 0) 17 0 (p.w / 8) kern = true ∧ 2048 ≤ p.w ∧ wordBad p.w kern = false) := by
  refine ⟨?_, ?_, ?_⟩ <;> decide +kernel

/-- EnginesRunCommands: a chain without a command, one whose CUR is misaligned, and one whose command can be read. -/
theorem witness_command_read : ∀ l ∈ [[(head 7, 1)], [(head 7, 1), (head 2, 1), (head 1, 3)], [(head 7, 1), (head 2, 1), (head 1, 0x400)]],
    let s := chained l none
    chainOk s = true ∧ header chain.hdr 7 s % 4 = 1 ∧ (getTile 0 s).copy = ⟨[chain], none, none⟩ ∧
    (l.length = 1 ∨ header chain.hdr 0 s < header chain.hdr 2 s) := by
  decide +kernel

/-- EnginesRunCommands: the header may be written and the command line read, which has failed or not. -/
theorem witness_command_free : ∀ bad ∈ [0, 1],
    let s := chained [(head 7, 1), (head 2, 1), (head 1, 0x400)] none
    let s := { s with mem := setSide s.mem (panBase / 64 + 16) { getSide s.mem (panBase / 64 + 16) with badWords := bad } }
    let words := (List.range 8).map fun i => panBase / 8 + 128 + i
    chainOk s = true ∧ NoRepair [chain.hdr / 8] s ∧ Free 0 chain (hdrHist chain.hdr s) s ∧
    Free 0 chain (afterReads (hdrHist chain.hdr s) words s) s ∧
    readDelay (chain.hist ++ hdrHist chain.hdr s) (sideWalk 0 false chain.cap 0x400 s) s = none ∧
    readDelay (chain.hist ++ afterReads (hdrHist chain.hdr s) words s) words s = none ∧
    (bad = 0 ∨ badWord words 16 s = some (panBase / 8 + 128)) := by
  unfold NoRepair Free
  decide +kernel

theorem witness_command_line : inBlock 0x400 (capDepth Cap.root1) (capPath Cap.root1) = true ∧ addrOk Cap.root1 0x400 = true ∧
    (3 : Nat) % 64 ≠ 0 ∧ badWord ((List.range 8).map fun i => panBase / 8 + 128 + i) 16 kern = none := by
  decide +kernel

/-- A command: its words, at unit z. -/
def command (words : List Nat) (z : Nat) : CmdRun :=
  { hdr := panBase, cur := 0x400, fw := false, words := words.map (BitVec.ofNat 64), tag0 := true, tag1 := true, z := z, srcFmt := none
    dstFmt := none, amax := 0, bins := [], units := [], hist := [] }
def low (c : Cap) : Nat := c.bits.toNat % 2 ^ 64
def high (c : Cap) : Nat := c.bits.toNat / 2 ^ 64

/-- A copy of one byte, at 0x2000, to 0x3000 of the pan, with FMT RAW; w4, w6 and w7 can be changed. -/
def copying (w4 w6 w7 : Nat) : CmdRun :=
  command [low Cap.root1, high Cap.root1, low Cap.root1, high Cap.root1, w4, 0x3000, w6, w7] 0

/-- Its state of an engine. -/
theorem witness_copy_state : ∀ r ∈ [copying 0x2000 0 0, copying 0x2000 0 (2 ^ 60), copying (2 ^ 53) 0 0, copying 0x2000 (2 ^ 24) 0],
    let s := chained [(head 7, 1), (head 2, 1)] (some r)
    chainOk s = true ∧ (getTile 0 s).copy.run = some r ∧ (getTile 0 s).copy.chains.find? (fun c => c.hdr == r.hdr) = some chain ∧
    Free 0 chain r.hist s ∧ Walks 0 r.fw r.hist Cap.root1 0x2000 s ∧
    Settled 0 r.fw r.hist Cap.root1 0x2000 (unitWords (panFrame 0 Cap.root1) 0 0x2000) s := by
  unfold Free Settled Walks
  decide +kernel

/-- A source whose walk ends unmapped: no partition maps it. -/
theorem witness_copy_unmapped : let s := chained [(head 7, 1), (head 2, 1)] (some (copying 0x2000 0 0))
    sideAt 0 false none false Cap.root0 0 0x2000 s = .fault cMemUnmapped 27 0x2000 ∧ Walks 0 false [] Cap.root0 0x2000 s := by
  unfold Walks
  refine ⟨rfl, ?_⟩
  decide +kernel

/-- The checks of a unit: fields that are and are not as they must be, capabilities that pass and one that does not, a
unit outside its block, outside the extents and inside them, a place that may be pending. -/
theorem witness_copy_checks : SharedFields (copying 0x2000 0 0) ∧ cmdWord (copying 0x2000 0 (2 ^ 60)) 7 / 2 ^ 60 ≠ 0 ∧
    (let r := copying 0x2000 0 0
     let s := chained [(head 7, 1), (head 2, 1)] (some r)
     cmdCap r 0 true = Cap.root1 ∧ cmdCap r 2 true = Cap.root1 ∧ capFault (cmdCap r 0 false) pR = some cCapTag ∧
     capFault Cap.root1 pR = none ∧ capFault Cap.root1 pW = none ∧ unitInBlock Cap.root1 0 0x2000 = true ∧
     unitInBlock Cap.root1 0 (2 ^ 53) = false ∧ unitInside Cap.root1 0 0x2000 = true ∧ addrOk Cap.root1 0 = true ∧
     badWord (unitWords (panFrame 0 Cap.root1) 0 0x2000) 16 s = none ∧
     canPend (some 0) none (unitOps (panFrame 0 Cap.root1) 0 0x3000 0) s = true) ∧
    (let small := capOf { fieldsOf Cap.root1 with rows := 0, cols := 0 }
     unitInBlock small 0 5 = true ∧ unitInside small 0 5 = false) := by
  unfold SharedFields
  refine ⟨?_, ?_, ?_, ?_⟩ <;> decide +kernel

theorem witness_copy_place (s : State) : sideAt 0 false none false Cap.root1 0 0x2000 s = .ok (panFrame 0 Cap.root1) 0 0x2000 none 17 0 := by
  have h : capTileOf 0 Cap.root1 = some 0 := by decide +kernel
  have h3 : capSpace Cap.root1 = 1 := by decide +kernel
  have hd : capDepth Cap.root1 = 17 := by decide +kernel
  have hp : capPath Cap.root1 = 0 := by decide +kernel
  have hk : fmtKind 0 ≠ .reserved := by decide
  simp only [sideAt, h, h3, hd, hp, hk]
  rfl

theorem witness_copy_code (code : Nat) (value : FVal) : Converts 0 0 code value false false none 0 0 code := by
  unfold Converts
  simp [show hasStrip 0 = false from rfl]

/-- A copy to a stream that hart 0 has bound. -/
theorem witness_copy_stream : let s := { chained [(head 7, 1), (head 2, 1)] (some (copying 0x2000 (2 ^ 24) 0)) with
      me := { hart 0 .kernel with streams := [(1, ⟨0, []⟩)] } }
    streamHart 0 0 s = some (s.me, 1) ∧ s.me.streams = [(1, ⟨0, []⟩)] ∧ fmtKind 0 ≠ .reserved := by
  decide +kernel

/-- A quantize command of one square from the pan to global memory, through a source whose extents hold nothing of it, at a
unit. -/
def quantizing (w4 w6 : Nat) : CmdRun :=
  let src := capOf { fieldsOf Cap.root1 with rows := 0, cols := 0 }
  command [low src, high src, low Cap.root0, high Cap.root0, w4, 0, w6, 2 ^ 60] 0

theorem witness_quantize : (∀ x ∈ [(5 * 2 ^ 54 + 2 ^ 10, 0), (5 * 2 ^ 54 + 2 ^ 10, 2 ^ 15), (4 * 2 ^ 54, 0), (5 * 2 ^ 54, 2 ^ 28)],
      let r := quantizing x.1 x.2
      let s := chained [(head 7, 1), (head 2, 1)] (some r)
      chainOk s = true ∧ (getTile 0 s).quant.run = some r) ∧
    (let r := quantizing (5 * 2 ^ 54 + 2 ^ 10) 0
     SharedFields r ∧ cmdWord r 7 / 2 ^ 60 = 1 ∧ (cmdWord r 6).testBit 15 = false ∧ (cmdWord (quantizing 0 (2 ^ 15)) 6).testBit 15 = true ∧
     capSpace (cmdCap r 2 true) = 0 ∧ capFault (cmdCap r 2 true) pW = none ∧ cmdWord r 5 % 2 ^ 54 % 1024 = 0) ∧
    (let src := cmdCap (quantizing 0 0) 0 true
     addrOk src (capPath src) = true ∧ unitInBlock src 0 (2 ^ 10) = true ∧ unitInside src 0 (2 ^ 10) = false ∧
     offInBlock Cap.root0 0 = true ∧ offInside Cap.root0 0 = true) ∧
    hasPerm (capOf { fieldsOf Cap.root1 with perm := 3 }) pAtom = false := by
  unfold SharedFields
  refine ⟨?_, ?_, ?_, ?_⟩ <;> decide +kernel

/-- The destination of a unit: a page of an MX format with a shadow, and one of the host. -/
def placed (mode fmt : Nat) (z : Nat) : State :=
  let r := { quantizing (5 * 2 ^ 54 + 2 ^ 10) 0 with z := z }
  let s := chained ([(head 7, 1), (head 2, 1)] ++ ([0, mode * 2 ^ 60 + fmt * 2 ^ 54 + (2 ^ 54 - 1), 0x40000, 0, 2 ^ 63 + 64, 0x80000].zipIdx.map
    fun x => (0x20000 / 8 + x.2, x.1))) (some r)
  { s with parts := [part], host := { s.host with iface := .run } }

theorem witness_quantize_place : (∀ z ∈ [0, 1023], let s := placed 1 58 z
      chainOk s = true ∧ Walks 0 false [] Cap.root0 z s ∧ Free 0 chain [] s ∧
      (match sideAt 0 false none true Cap.root0 0 z s with
        | .ok frame g u (some m) _ _ =>
          frame == 0x40000 && g == 58 && u == z && hasStrip g && m.shadow.isSome && m.src != 3
        | _ => false) = true) ∧
    (match sideAt 0 false none true Cap.root0 0 0 (placed 3 0 0) with
      | .ok _ _ _ (some m) _ _ => m.src == 3
      | _ => false) = true ∧
    ((List.range 32).all fun l => (List.range 8).all fun i => !wordBad (8 * (panBase / 64 + l) + i) (placed 1 58 1023)) = true ∧
    (let s := placed 1 58 1023
     ∀ r ∈ [quantizing (5 * 2 ^ 54 + 2 ^ 10) 0, quantizing (5 * 2 ^ 54 + 2 ^ 10) (2 ^ 27)],
       (reportDelay 0 chain r (reportHist 0 chain r s) s).isNone = true) := by
  unfold Walks Free
  refine ⟨?_, ?_, ?_, ?_⟩ <;> decide +kernel

/-- The unit of a format with a scale whose value is known. -/
theorem test_quantize_unit : ∃ t, exec (.quantizeCommand 0) (placed 1 58 0) = .next t ∧
    ((getTile 0 t).quant.run.map fun r => (r.z, r.units.length, r.dstFmt)) = some (1, 1, some 58) ∧ t.pendw = [] :=
  ⟨_, rfl, by decide +kernel, by decide +kernel⟩

/-- A square with no present element has the scale 127, and one whose element is 1.0 at percentile 1,024 that of its
exponent. -/
theorem witness_scale : IsScale 2 1024 [] 127 ∧ IsScale 2 1024 [floatVal fp32 0x3F800000] 125 := by
  unfold IsScale
  refine ⟨⟨fun _ => rfl, fun h => absurd rfl h⟩, fun h => absurd h (by simp), fun _ => ⟨127, by decide, ?_⟩⟩
  decide +kernel

/-- FencesAndInvalidation: a fence and `rinv` of each scope, with nothing outstanding, with a message under way, with a posted
increment, and with a request that may use a translation. -/
def posting : State := setTile 0 { Tile.init with semv := [semV] } (holding 0)

theorem witness_fences : (∀ s ∈ [holding 0, posting, { holding 0 with me := { (holding 0).me with hist := [3] }, msgs := [message 3 512 0] }],
      Ready { plainGate .fenceTile [] [] with bars := true } s ∧ Ready { plainGate .fenceDomain [] [] with bars := true } s) ∧
    (∀ v ∈ [0, 2 ^ 32, 2 * 2 ^ 32, 3 * 2 ^ 32], let s := holding v
      Ready { plainGate (.rinv 0x88 0x80) [srcNeed .d .A 0x80 0 s.me, srcNeed .d .B 0x88 0 s.me] [] with bars := true, set := .Y } s ∧
      (readOp .d .B 0x88 0 s.me).1 % 4 = v / 2 ^ 32) ∧
    droppedIn 1 { holding 0 with reqs := [asks (.read panWord) false] } ((asks (.read panWord) false).src / 2 ^ 16) := by
  refine ⟨?_, ?_, rfl⟩ <;> decide +kernel

/-- FencesAndInvalidation: a unit that the quantizer has located in a block. -/
theorem witness_located : let q : QElem := ⟨0, none, some (0x10000, 0, codePage)⟩
    let s := setTile 0 { Tile.init with quant := ⟨[], some { quantizing 0 0 with units := [q] }, none⟩ } (holding 0)
    droppedIn 1 s 0 ∧ (getTile 0 s).quant.run = some { quantizing 0 0 with units := [q] } ∧ (quantizing 0 0).fw = false ∧
    overlaps 21 0x10000 codePage.depth codePage.path = true := by
  refine ⟨rfl, ?_, ?_, ?_⟩ <;> decide +kernel

theorem witness_outstanding : Outstanding .domain { holding 0 with me := { (holding 0).me with hist := [3] }, msgs := [message 3 512 0] } ∧
    Outstanding .tile posting ∧ ¬Outstanding .domain (holding 0) := by
  refine ⟨.inr (.inl ⟨message 3 512 0, by simp, by decide, trivial⟩), .inr (.inr (.inl ?_)), ?_⟩
  · exact ⟨(0, { Tile.init with semv := [semV] }), by decide +kernel, rfl, semV, by decide +kernel, .inl rfl⟩
  rintro (⟨x, hx, -⟩ | ⟨m, hm, -⟩ | ⟨x, hx, -⟩ | ⟨r, hr, -⟩)
  · have h : (getCell ((holding 0).me.name.toNat / 16) (holding 0)).stq = [] := by decide +kernel
    rw [h] at hx
    exact absurd hx (List.not_mem_nil)
  · exact absurd hm (List.not_mem_nil)
  · exact absurd hx (List.not_mem_nil)
  · exact absurd hr (List.not_mem_nil)

/-! ### Translation, walks and parks -/

/-- A kernel hart whose partition has one range entry, its last as the entry says, and words elsewhere. -/
def mappedBy (entry : List Nat) (more : List (Nat × Nat)) (st : Stat) : State :=
  withWords (((List.range entry.length).map fun k => (0x20000 / 8 + k, entry.getD k 0)) ++ more)
    { on { hart 0 .kernel with stat := st } with parts := [part] }

/-- The two words of a range entry that hold its depth and path, its mode, format and LIMIT. -/
def rangeHead (depth path mode fmt limit : Nat) : List Nat :=
  [depth * 2 ^ 56 + path, mode * 2 ^ 60 + fmt * 2 ^ 54 + limit]

/-- TranslationsAndWalks, the maps: an address of memory and one of none under the firmware map; no partition; a partition
whose entries map nothing. -/
theorem witness_maps : (namesMemory 0x10000 kern = true ∧ namesMemory (2 ^ 53) kern = false) ∧ partitionOf 0 kern = none ∧
    (let s := mappedBy [] [] .running
     partitionOf 0 s = some part ∧ (getDie 0 s).ranges = [] ∧
     (∀ i < 64, lineReads (part.rangetab / 64 + i) part.n s = true) ∧
     ∀ i < 64, bits (rawWord s.mem ((part.rangetab + 64 * i) / 8 + 1)) 60 3 = 0) := by
  refine ⟨?_, ?_, ?_, ?_, ?_, ?_⟩ <;> decide +kernel

/-- The word of entry 0 that a state holds. -/
def w0 (s : State) (k : Nat) : Nat := rawWord s.mem ((part.rangetab + 64 * 0) / 8 + k)

/-- Entry 0 matches 0x10000: malformed; past its LIMIT and at it; in its hole and beside it; formats that are and are not
reserved; direct to memory and to none; and to the host. -/
theorem witness_ranges :
    (∀ e ∈ [rangeHead 0 0 4 0 0, rangeHead 0 0 1 0 0 ++ [1], rangeHead 0 0 3 2 0, rangeHead 10 0 2 0 0,
        rangeHead 0 0 1 0 0xFFFF, rangeHead 0 0 1 0 0x10000, rangeHead 0 0 1 0 (2 ^ 54 - 1) ++ [0, 2 ^ 63 + 21 * 2 ^ 56 + 0x10000],
        rangeHead 0 0 1 0 (2 ^ 54 - 1) ++ [0, 2 ^ 63 + 21 * 2 ^ 56 + 0x11000], rangeHead 0 0 1 2 (2 ^ 54 - 1),
        rangeHead 0 0 1 0 (2 ^ 54 - 1) ++ [2 ^ 53], rangeHead 0 0 3 1 (2 ^ 54 - 1)],
      let s := mappedBy e [] .running
      let w := w0 s
      bits (w 1) 60 3 ≠ 0 ∧ bits (w 0) 56 5 ≤ 27 ∧ 0x10000 / 4 ^ (27 - bits (w 0) 56 5) = bits (w 0) 0 54 / 4 ^ (27 - bits (w 0) 56 5)) ∧
    (let w := w0 (mappedBy (rangeHead 0 0 4 0 0) [] .running)
     BadRange w) ∧
    (∀ e ∈ [rangeHead 0 0 1 0 0xFFFF, rangeHead 0 0 1 0 0x10000], let w := w0 (mappedBy e [] .running); ¬BadRange w) ∧
    bits (w0 (mappedBy (rangeHead 0 0 1 0 0xFFFF) [] .running) 1) 0 54 < 0x10000 - 0 ∧
    fmtKind 2 = .reserved ∧ fmtKind 1 ≠ .reserved ∧ namesMemory 0x10000 (mappedBy (rangeHead 0 0 1 0 0x10000) [] .running) = true := by
  unfold BadRange sameBlock
  refine ⟨?_, ?_, ?_, ?_, ?_, ?_, ?_⟩ <;> decide +kernel

/-- A table entry over 2^36 units whose node at 0x30000 has an entry for 0x10000, and that of a second node at 0x30400. -/
def tabled (e0 e1 : Nat) (st : Stat) : State :=
  mappedBy (rangeHead 9 0 2 0 (2 ^ 36 - 1) ++ [0x30000]) [(0x30000 / 8, e0), (0x30400 / 8, e1)] st

/-- What the walk finds at depth 12 and, past a pointer, at depth 15: nothing, an absent entry, a leaf of a reserved format and
one of a format, each clean; the lines are readable, and one that fails its check is not. -/
theorem witness_tables : (∀ st ∈ [Stat.running, .missed 0x10000], ∀ e ∈ [0, 3 * 2 ^ 62, 2 * 2 ^ 62 + 2 * 2 ^ 56, 2 * 2 ^ 62, 2 ^ 62 + 0x30400],
      let s := tabled e (2 * 2 ^ 62) st
      let w := w0 s
      ¬BadRange w ∧ 0x10000 - bits (w 0) 0 54 ≤ bits (w 1) 0 54 ∧ bits (w 3) 63 1 = 0 ∧ bits (w 1) 60 3 = 2 ∧
      rawWord s.mem (0x30000 / 8) = e ∧ lineReads (0x30000 / 64) part.n s = true ∧ lineReads (0x30400 / 64) part.n s = true ∧
      bits e 54 2 = 0 ∧ rawWord s.mem (0x30000 / 8 + 1) = 0 ∧
      (0x30000 + 16 * (0x10000 / 4 ^ (27 - 12) % 64)) / 8 = 0x30000 / 8 ∧ (0x30400 + 16 * (0x10000 / 4 ^ (27 - 15) % 64)) / 8 = 0x30400 / 8 ∧
      namesMemory 0x30400 s = true ∧ 0x30400 % 2 ^ 10 = 0 ∧ namesMemory (4 ^ (27 - 12) * 8 / 8 - 1) s = true) ∧
    (let s := { tabled 0 0 .running with mem := setSide (tabled 0 0 .running).mem (0x30000 / 64) { SideBand.init with wiped := false, bad := true, key := 1, gen := 1 } }
     lineReads (0x30000 / 64) part.n s = false) := by
  unfold BadRange sameBlock
  refine ⟨?_, ?_⟩ <;> decide +kernel

/-- TranslationsAndWalks, the ends of walks: for a hart that missed, each outcome; the ring of its partition has room, and
none. -/
theorem witness_walks : (∀ s ∈ [on { hart 0 .firmware with stat := .missed 0x10000 }], present s.me = true ∧
      resolve true 0 0x10000 s = .ok codePage ∧ covers codePage 0x10000 = true) ∧
    (let s := mappedBy (rangeHead 0 0 1 2 (2 ^ 54 - 1)) [] (.missed 0x10000)
     s.me.stat = .missed 0x10000 ∧ resolve false 0 0x10000 s = .badFmt 0 0) ∧
    resolve false 0 0x10000 (mappedBy [] [] (.missed 0x10000)) = .unmapped 27 0x10000 ∧
    (let s := tabled 0 0 (.missed 0x10000)
     resolve false 0 0x10000 { s with mem := setSide s.mem (0x30000 / 64) { SideBand.init with wiped := false, bad := true, key := 1, gen := 1 } } = .failing false 0xC00) ∧
    (let s := tabled 0 0 (.missed 0x10000)
     resolve false 0 0x10000 { s with mem := setSide s.mem (0x30000 / 64) { SideBand.init with wiped := false, sliceBad := true, key := 1, gen := 1 } } = .failing true 0xC00) ∧
    (let s := tabled (2 * 2 ^ 62) 0 (.missed 0x10000)
     hasWalker s.me s = true ∧ walkWaits (sharers s.me s) s = false ∧ ownTile s ∉ s.fenced ∧ sharers s.me s = [s.me] ∧
      NoRepair (walkWords [s.me] s) s) ∧
    (let s := { tabled (2 * 2 ^ 62) 0 (.missed 0x10000) with reqs := [{ asks (.write [.word 0x6000 1 1]) true with line := 0x20000 / 64 }] }
     let s := { s with me := { s.me with hist := [1] } }
     present s.me = true ∧ walkWaits (sharers s.me s) s = true) ∧
    (let s := tabled 0 0 (.missed 0x10000)
     let s := { s with
       harts := (List.range 128).map fun k => { s.me with name := BitVec.ofNat 22 (k + 1), stat := .missed (2 ^ 50 + k) }
       misses := (List.range 128).map fun k => k + 1 }
     present s.me = true ∧ hasWalker s.me s = false) ∧
    (let s := tabled (3 * 2 ^ 62) 0 (.missed 0x10000)
     resolve false 0 0x10000 s = .absent (0x30000 / 64) 12 0 ∧ hartPartition s.me s = some part) ∧
    Memory.wf (tabled (3 * 2 ^ 62) 0 (.missed 0x10000)).mem = true ∧ part.syspage % 2 ^ 14 = 0 ∧ 2048 ≤ part.syspage / 8 := by
  unfold NoRepair
  refine ⟨?_, ?_, ?_, ?_, ?_, ?_, ?_, ?_, ?_, ?_, ?_, ?_⟩ <;> decide +kernel

/-- A walk that meets a line to rebuild, whose check fails too. -/
def worn : State :=
  let s := tabled (2 * 2 ^ 62) 0 (.missed 0x10000)
  { s with mem := setSide s.mem 0xC00 { SideBand.init with wiped := false, bad := true, ecc := true } }

theorem worn_failmap (l : Nat) : failmap (stackOf l worn % 128) worn = 0 :=
  (by decide +kernel : ∀ k < 128, failmap k worn = 0) _ (Nat.mod_lt _ (by decide))

theorem worn_eccFails (l : Nat) : eccFails l worn = (isHbm l && !(getSide worn.mem l).wiped && (getSide worn.mem l).ecc) := by
  simp [eccFails, channelFailed, worn_failmap, bitAt]

theorem worn_rebuilds (l : Nat) : rebuilds l worn = !(getSide worn.mem l).lost := by
  simp [rebuilds, failedIn, worn_failmap, popCount, bit]

theorem witness_walk_repairs : present worn.me = true ∧ worn.me.stat = .missed 0x10000 ∧ hasWalker worn.me worn = true ∧
    walkWaits (sharers worn.me worn) worn = false ∧ ownTile worn ∉ worn.fenced ∧
    ((walkWords (sharers worn.me worn) worn).map fun w => w / 8).find? (fun l => eccFails l worn && rebuilds l worn) =
      some 0xC00 := by
  refine ⟨by decide +kernel, by decide +kernel, by decide +kernel, by decide +kernel, by decide +kernel, ?_⟩
  simp only [worn_eccFails, worn_rebuilds]
  decide +kernel

/-- Where no stack has two failed channels, no line fails for that (R348). -/
theorem not_twoFailed (s : State) (l : Nat) (h : ((List.range 128).all fun k => decide (popCount (failmap k s) 32 < 2)) = true) :
    twoFailed l s = false := by
  have hk := List.all_eq_true.mp h (stackOf l s % 128) (List.mem_range.mpr (Nat.mod_lt _ (by decide)))
  have hn := of_decide_eq_true hk
  simp only [twoFailed, failedIn, Bool.and_eq_false_iff]
  exact .inl (.inr (decide_eq_false (Nat.not_le.mpr hn)))

/-- A line of memory with the wipe mark is sealable under the key set of a partition that is open. -/
theorem sealable_of (s : State) (key l : Nat) (h : ((List.range 128).all fun k => decide (popCount (failmap k s) 32 < 2)) = true)
    (hl : (decide (64 * l < panBase) && lineReads l key s && (keyGen key s).isSome) = true) : Sealable key l s := by
  simp only [Bool.and_eq_true, decide_eq_true_eq] at hl
  unfold Sealable
  rw [if_neg (Nat.not_le.mpr hl.1.1)]
  exact ⟨hl.1.2, not_twoFailed s l h, Option.isSome_iff_ne_none.mp hl.2⟩

/-- The hypotheses on the ring. -/
theorem witness_ring : let s := tabled (3 * 2 ^ 62) 0 (.missed 0x10000)
    let ring := part.syspage + 0x1000
    (∀ x, x = ring / 64 ∨ x = (part.syspage + 0x210) / 64 → x ≠ 0x30000 / 64 ∧ Sealable part.n x s) ∧
    (viewOf (ring / 8) s).fe = true ∧
    (viewOf (ring / 8) { s with mem := setSide s.mem (ring / 64) { SideBand.init with fe := 0 } }).fe = false := by
  refine ⟨?_, ?_, ?_⟩
  · rintro x (rfl | rfl) <;> exact ⟨by decide +kernel, sealable_of _ _ _ (by decide +kernel) (by decide +kernel)⟩
  all_goals decide +kernel

/-- TranslationsAndWalks, the host's part: an access parked for a translation, for the page and for the translation again. -/
def hosted (st : Stat) : State :=
  let s := on { hart 0 .kernel with stat := st, walked := [⟨3, 0, 0, 2 ^ 54 - 1, none, 0, 0, 0, none, 5⟩] }
  { s with host := { s.host with iface := .run, atc := [⟨5, 16, true, false⟩] } }

theorem witness_host_translations : (∀ ph ∈ [0, 1, 2], ∀ b ∈ [true, false], let s := hosted (.hostPark 0x10000 b ph)
      present s.me = true ∧ s.me.stat = .hostPark 0x10000 b ph ∧ s.host.iface = .run ∧ (mappingOf s.me 0x10000 s).isSome = true) ∧
    (∃ e ∈ (hosted .running).host.atc, e.pasid = 5 ∧ e.page = 16) ∧
    ∃ h ∈ everyHart (nested 1 none false), h.txn.depth = 1 ∧
      (.host 5 0x10008 0 0 : MOp) ∈ ({ h.txn with buf := [(1, 3, .host 5 0x10008 0 0)] } : Txn).buf.map fun o => o.2.2 := by
  refine ⟨?_, ?_, ?_⟩ <;> decide +kernel

/-- TranslationsAndWalks, an engine's part: one that asks the host for the page of an address, in each phase, of a tile whose
partition maps it to the host; and a request to the host that uses a page. -/
theorem witness_engine_translations : (∀ ph ∈ [0, 1, 2], ∀ eng ∈ [true, false],
      let base := mappedBy (rangeHead 0 0 3 1 (2 ^ 54 - 1)) [] .running
      let e : Engine := ⟨[], none, some (0x10000, ph)⟩
      let s := setTile 0 { Tile.init with copy := e, quant := e } { base with host := { base.host with iface := .run } }
      (engineOf eng (getTile 0 s)).ats = some (0x10000, ph) ∧ s.host.iface = .run ∧
      (match resolve false 0 0x10000 s with
        | .ok m => m.src == 3
        | _ => false) = true) ∧
    (∃ r ∈ (serving [asks (.hostRead 5 0x10008) false]).reqs, usesHost 5 16 1 r) ∧
    namesEngine (hosted (.hostPark 0x10000 true 0)).me.name.toNat = false := by
  refine ⟨by decide +kernel, ⟨_, .head _, ?_⟩, ?_⟩
  · exact ⟨rfl, by decide, by decide⟩
  · decide +kernel

/-! ### The partition manager -/

/-- A trained machine whose manager's page holds words, with open partitions, counters and fenced tiles. -/
def managed (words : List (Nat × Nat)) (parts : List Partition) : State :=
  withWords words { kern with dies := [(0, { Die.init with trained0 := true })], parts := parts }
def commanded (op cmd : Nat) (s : State) : Bool :=
  (getDie 0 s).trained0 && (viewOf 0 s).fe && (wordHist 0 (2 ^ 64 - 1) s).isEmpty && Memory.wf s.mem &&
    rawWord s.mem 0 == cmd && cmd / 2 ^ 56 == op && bits cmd 48 8 == 0
theorem commands_of {op cmd s} (h : commanded op cmd s = true) : Commands op cmd s := by
  simp only [commanded, Bool.and_eq_true, beq_iff_eq, List.isEmpty_iff] at h
  obtain ⟨⟨⟨⟨⟨⟨a, b⟩, c⟩, d⟩, e⟩, f⟩, g⟩ := h
  exact ⟨a, b, c, d, e.symm, f, g⟩

/-- The words of descriptor 1 for all of die 0, with more bits of its first word, and a command for it. -/
def described (bits : Nat) (more : List (Nat × Nat)) : List (Nat × Nat) :=
  [(0, 2 ^ 56 + 2 ^ 40), (144, 7 * 2 ^ 8 + 15 + bits), (145, 1), (146, 0x20000), (147, 0x24000), (148, 0x28000)] ++ more
def partNew (hostf : Bool) : Partition := { part with hostf := hostf, gen := 1 }

/-- PartitionManager, OPEN: a descriptor number out of range, a descriptor that is open, a bad one, tiles of another
partition, a fenced tile, a second host partition, and a partition that opens. -/
theorem witness_open : Commands 1 (2 ^ 56 + 16 * 2 ^ 40) (managed [(0, 2 ^ 56 + 16 * 2 ^ 40)] []) ∧
    (∀ s ∈ [managed (described (2 ^ 62) []) [], managed (described 0 [(150, 1)]) [], managed (described 0 []) [part],
        { managed (described 0 []) [] with fenced := [5] },
        managed (described (2 ^ 60) []) [{ part with n := 2, hostf := true, die := 1 }], managed (described 0 []) []],
      commanded 1 (2 ^ 56 + 2 ^ 40) s = true) ∧
    Describes 1 (partNew false) (managed (described 0 []) []) ∧ Describes 1 (partNew false) (managed (described (2 ^ 62) []) []) ∧
    bits (pd 1 0 (managed (described (2 ^ 62) []) [])) 62 2 ≠ 0 ∧ bits (pd 1 0 (managed (described 0 []) [])) 62 2 = 0 ∧
    BadDescriptor 1 (partNew false) (managed (described 0 [(150, 1)]) []) := by
  refine ⟨commands_of (by decide +kernel), by decide +kernel, ?_, ?_, ?_, ?_, ?_⟩
  · unfold Describes; decide +kernel
  · unfold Describes; decide +kernel
  · decide +kernel
  · decide +kernel
  · exact .inr (.inr (.inr (.inl ⟨6, by decide, by decide, by decide +kernel⟩)))

/-- A descriptor whose parts all pass. -/
theorem good_descriptor : ¬BadDescriptor 1 (partNew false) (managed (described 0 []) []) := by
  rintro (h | h | h | ⟨k, h6, hk, h⟩ | h)
  · exact absurd h (by decide +kernel)
  · exact absurd h (by decide +kernel)
  · exact absurd h (by decide +kernel)
  · exact absurd ⟨h6, h⟩ ((by decide +kernel : ∀ k < 16, ¬(6 ≤ k ∧ pd 1 k (managed (described 0 []) []) ≠ 0)) k hk)
  · exact absurd h (by decide +kernel)

theorem witness_opens : (let s := managed (described 0 []) []
      ¬BadDescriptor 1 (partNew false) s ∧ fenceFails (partNew false) s = false ∧ s.parts = [] ∧ 2 ^ 14 ≤ (partNew false).syspage ∧
      isRom (partNew false).syspage = false ∧ inPartition (partNew false) (ownTile s) = true ∧
      (partTiles (partNew false) s).head? = some 0) ∧
    (let s := managed (described 0 []) [part]
     ∃ t ∈ areaTiles (partNew false), ∃ q ∈ s.parts, inPartition q t = true) ∧
    fenceFails (partNew false) { managed (described 0 []) [] with fenced := [5] } = true ∧
    (let s := managed (described (2 ^ 60) []) [{ part with n := 2, hostf := true, die := 1 }]
     Describes 1 (partNew true) s ∧ ¬(∃ t ∈ areaTiles (partNew true), ∃ q ∈ s.parts, inPartition q t = true)) := by
  refine ⟨⟨good_descriptor, ?_, ?_, ?_, ?_, ?_, ?_⟩, ?_, ?_, ?_, ?_⟩
  all_goals first | (unfold Describes; decide +kernel) | decide +kernel

/-- PartitionManager, CLOSE: a number out of range, a closed one, one with a hart, and one with nothing in it. -/
def closing (h : Hart) : State := { managed [(0, 2 * 2 ^ 56 + 2 ^ 40)] [part] with me := h }

theorem witness_close : Commands 2 (2 * 2 ^ 56 + 16 * 2 ^ 40) (managed [(0, 2 * 2 ^ 56 + 16 * 2 ^ 40)] []) ∧
    Commands 2 (2 * 2 ^ 56 + 2 ^ 40) (managed [(0, 2 * 2 ^ 56 + 2 ^ 40)] []) ∧
    (∀ h ∈ [hart 0 .kernel, hart (2 ^ 16) .firmware], commanded 2 (2 * 2 ^ 56 + 2 ^ 40) (closing h) = true ∧
      (closing h).parts.find? (fun p => p.n == 1) = some part) ∧
    (∃ h ∈ everyHart (closing (hart 0 .kernel)), inPartition part (h.name.toNat / 512) = true) ∧
    (let s := closing (hart (2 ^ 16) .firmware)
     (∀ h ∈ everyHart s, inPartition part (h.name.toNat / 512) = false) ∧ s.tiles = [] ∧ uncommitted part s = [] ∧
      part.hostf = false) :=
  ⟨commands_of (by decide +kernel), commands_of (by decide +kernel), by decide +kernel, by decide +kernel, by decide +kernel⟩

/-- PartitionManager, fences and counters: a die that the domain lacks, a tile of an open partition and one of none; a
counter's number out of range, one in use and one that is not; and words that are no command. -/
theorem witness_fence_spans : (∀ x ∈ [(3, 3 * 2 ^ 56 + 4 * 128, ([] : List Partition)), (3, 3 * 2 ^ 56 + 5, [part]), (3, 3 * 2 ^ 56 + 5, []),
        (4, 4 * 2 ^ 56 + 5, []), (5, 5 * 2 ^ 56 + 64 * 2 ^ 40, []), (5, 5 * 2 ^ 56 + 2 ^ 40, []), (6, 6 * 2 ^ 56 + 64 * 2 ^ 40, []),
        (6, 6 * 2 ^ 56 + 2 ^ 40, [])],
      commanded x.1 x.2.1 (managed [(0, x.2.1)] x.2.2) = true) ∧
    (∀ spans ∈ [[], [(⟨1, 1, 0, 16, 0⟩ : Span)]], commanded 5 (5 * 2 ^ 56 + 2 ^ 40) { managed [(0, 5 * 2 ^ 56 + 2 ^ 40)] [] with spans := spans } = true ∧
      commanded 6 (6 * 2 ^ 56 + 2 ^ 40) { managed [(0, 6 * 2 ^ 56 + 2 ^ 40)] [] with spans := spans } = true) ∧
    inPartition part 5 = true ∧
    (∀ cmd ∈ [0, 7 * 2 ^ 56, 2 ^ 56 + 2 ^ 48], let s := managed [(0, cmd)] []
      (getDie 0 s).trained0 = true ∧ (viewOf 0 s).fe = true ∧ wordHist 0 (2 ^ 64 - 1) s = [] ∧ Memory.wf s.mem = true ∧ rawWord s.mem 0 = cmd) := by
  refine ⟨?_, ?_, ?_, ?_⟩ <;> decide +kernel

/-- PartitionManager, traces and leaders: TCMD for bank 3 of a tile of another partition and of this one; a leader with a
replica and one without. -/
def tracing (cmd : Nat) (rep : Option Nat) : State :=
  setTile 1 { Tile.init with rings := [(3, ⟨[⟨5, 0, 1, 0, true⟩], 0, []⟩)] }
    (managed [(part.syspage / 8 + 64, cmd)] [{ part with replica := rep }])

theorem witness_traces : (∀ cmd ∈ [128 * 512 + 3, 512 + 3], let s := tracing cmd none
      s.parts.find? (fun p => p.n == 1) = some part ∧ Memory.wf s.mem = true ∧ (viewOf (part.syspage / 8 + 64) s).fe = true ∧
      wordHist (part.syspage / 8 + 64) (2 ^ 64 - 1) s = []) ∧
    (part.syspage % 2 ^ 14 = 0 ∧ 2 ^ 14 ≤ part.syspage ∧ part.syspage + 2 ^ 14 ≤ panBase) ∧
    (holdsTile part (bits (128 * 512 + 3) 9 13) (tracing 0 none) = false ∧
      holdsTile part (bits (512 + 3) 9 13) (tracing 0 none) = true) ∧
    (∀ rep ∈ [none, some 1], let s := { tracing 0 rep with
        spans := [⟨4, 1, 10, 16, 8⟩]
        reqs := [{ asks (.spanAck 4 2 64 0 0) false with id := 9 }] }
      (s.parts.map fun p => p.n).Nodup ∧ ledBy 0 rep.isSome s ⟨4, 1, 10, 16, 8⟩ = true ∧
      ∀ r ∈ s.reqs, Claims.counting r.op = some (4, 2, 64)) := by
  refine ⟨?_, ?_, ?_, ?_⟩ <;> decide +kernel

theorem witness_trace_lines : ∀ l < 256, Sealable part.n (part.syspage / 64 + l) (tracing (512 + 3) none) := by
  have hs : ((List.range 256).all fun l => decide (64 * (part.syspage / 64 + l) < panBase) &&
      lineReads (part.syspage / 64 + l) part.n (tracing (512 + 3) none) && (keyGen part.n (tracing (512 + 3) none)).isSome) = true := by
    decide +kernel
  intro l hl
  exact sealable_of _ _ _ (by decide +kernel) (List.all_eq_true.mp hs l (List.mem_range.mpr hl))

/-- PartitionManager, mailboxes: a host partition in RUN, with a full and an empty mailbox; outside RUN; and no host
partition. -/
def hosting (fe : BitVec 8) (iface : Iface) (hostf : Bool) : State :=
  let s := managed [] [{ part with hostf := hostf }]
  { s with host := { s.host with iface := iface }, mem := setSide s.mem (part.syspage / 64) { SideBand.init with fe := fe } }

theorem witness_mailboxes : (∀ fe ∈ [0, 255], ∀ i ∈ [Iface.run, .quiesced], let s := hosting fe i true
      s.host.iface = i ∧ s.parts.find? (fun p => p.hostf) = some { part with hostf := true } ∧ Memory.wf s.mem = true ∧
      part.syspage % 2 ^ 14 = 0 ∧ 2 ^ 14 ≤ part.syspage ∧ (viewOf (part.syspage / 8) s).fe = (fe == 255) ∧
      failCause part.n (part.syspage / 8 + 0x1F8 / 8) s = none) ∧
    (hosting 0 .locked true).host.iface ∉ [Iface.run, .quiesced] ∧
    Sealable part.n (part.syspage / 8 / 8) (hosting 0 .run true) := by
  refine ⟨?_, ?_, sealable_of _ _ _ (by decide +kernel) (by decide +kernel)⟩ <;> decide +kernel

/-- PartitionManager, writes to the page: a word of each kind. -/
theorem witness_page : (∀ op ∈ [HomeOp.write [.word 0 1 (2 ^ 64 - 1)], .amo .add 0 0 64 5 0, .fadd 0 (.num 4) 0],
      let s := serving [{ asks op true with line := 0 }]
      ∃ r ∈ s.reqs, Due r s ∧ r.remote = false ∧ r.fw = false) ∧
    Memory.wf kern.mem = true ∧ (∀ w ∈ [0, 128, 129, 0x2008 / 8, 0x2010 / 8, 0x2018 / 8, 0x2020 / 8, 1, 4, 384, 0x2000 / 8], w < 2 ^ 11) := by
  unfold Due
  refine ⟨?_, ?_, ?_⟩ <;> decide +kernel

/-- R347: SCRUBI keeps 256 as its least value, and its bit 16. -/
theorem test_scrubi_least : ∃ t, exec (.registerWrite 0x2010 0x10005) kern = .next t ∧
    rawWord t.mem (0x2010 / 8) = 0x10100 := ⟨_, rfl, by decide +kernel⟩

/-! ### The host interface and the life cycle -/

/-- The host port in a state of the interface, with and without link keys and a host partition. -/
def faced (i : Iface) (keys drain : Bool) (parts : List Partition) : State :=
  let s := { kern with parts := parts }
  { s with host := { s.host with iface := i, ideKeys := keys, session := keys, draining := drain, nonce := 9 } }
def hostPartition : Partition := { part with hostf := true }

/-- HostInterface, the states: a lock that is served and one that is not, a start with the right nonce, in each state; a drain
that is complete and one with a host read due; an error, and a stop with and without a host partition. -/
theorem witness_interface : (let s := faced .unlocked true false [hostPartition]
      s.host.iface = .unlocked ∧ s.host.ideKeys = true ∧ (∃ p ∈ s.parts, p.hostf = true) ∧
      s.parts.find? (fun p => p.hostf) = some hostPartition ∧ hostPartition.n < 16) ∧
    (faced .unlocked false false [hostPartition]).host.ideKeys = false ∧
    ((faced .locked true false []).host.iface = .locked ∧ (9 : BitVec 256) = (faced .locked true false []).host.nonce ∧
      (10 : BitVec 256) ≠ (faced .locked true false []).host.nonce) ∧
    (let s := faced .run true true []
     s.host.iface = .run ∧ s.host.draining = true ∧ s.reqs = []) ∧
    (let s := { faced .run true true [] with reqs := [asks (.hostRead 0 0x1000) false] }
     ∃ r ∈ s.reqs, r.op = .hostRead 0 0x1000) ∧
    (∀ i ∈ [Iface.locked, .run, .quiesced, .error], (faced i true false []).host.iface = i ∧
      ∀ p ∈ (faced i true false []).parts, p.hostf = false) := by
  refine ⟨?_, ?_, ?_, ?_, ?_, ?_⟩ <;> decide +kernel

/-- HostInterface, sessions and stops: life-cycle states that serve and that do not; a session and none; a key set of no
partition, and that of one with and without the host function. -/
theorem witness_sessions : (∀ l ∈ [LifeCycle.blank, .provider, .leased, .recovery, .retired],
      { kern with trust := { kern.trust with life := l } }.trust.life = l) ∧
    (faced .run true false []).host.session = true ∧ (faced .run false false []).host.session = false ∧
    (∀ p ∈ [part, hostPartition], (faced .run true false [p]).parts.find? (fun q => q.n == (1 : BitVec 5).toNat) = some p ∧
      (faced .run true false [p]).parts.find? (fun q => q.n == (2 : BitVec 5).toNat) = none) := by
  refine ⟨?_, ?_, ?_, ?_⟩ <;> decide +kernel

/-- HostInterface, measurements: in BLANK and out of it, with and without a tenant image. -/
theorem witness_measurements : { kern with trust := { kern.trust with life := .blank } }.trust.life = .blank ∧
    kern.trust.life ≠ .blank ∧ kern.trust.activeTenant = none := by
  refine ⟨?_, ?_, ?_⟩ <;> decide +kernel

/-- A security block in a life-cycle state whose last counter is 4. -/
def secured (l : LifeCycle) (scrubbing done : Bool) : State :=
  { kern with parts := [part], trust := { kern.trust with life := l, counter := 4, recCounter := 4, scrubbing := scrubbing, scrubDone := done } }

/-- LifeCycleAndActivation, tokens: each kind fits a state, with a counter of 5, and not with one of 4. -/
theorem witness_tokens : (∀ l ∈ [LifeCycle.blank, .provider, .leased], let s := secured l false true
      (true = true ∧ Config.deviceHash = Config.deviceHash ∧ s.trust.counter < 5 ∧ s.trust.life = l ∧ s.trust.scrubDone = true) ∧
      ¬s.trust.counter < 4) := by
  intro l hl s
  exact ⟨⟨rfl, rfl, (by decide : 4 < 5), rfl, rfl⟩, (by decide : ¬4 < 4)⟩

/-- LifeCycleAndActivation, scrubs: one that begins, one that is refused, one that ends clean and one that does not; in
RECOVERY with the provider image started. -/
theorem witness_scrubs : (∀ l ∈ [LifeCycle.provider, .leased, .recovery], let s := secured l false false
      s.trust.counter < 5 ∧ s.trust.recCounter < 5 ∧ s.trust.life ∈ [LifeCycle.provider, .leased, .recovery] ∧
        s.trust.scrubbing = false) ∧
    (secured .provider true false).trust.scrubbing = true ∧ LifeCycle.blank ∉ [LifeCycle.provider, .leased, .recovery] ∧
    (let s := { secured .recovery true false with dies := [(0, { Die.init with boot := 6 })] }
     s.trust.scrubbing = true ∧ s.trust.life = .recovery ∧ (getDie 0 s).boot.toNat % 16 = 6) ∧
    (let s := { kern with trust := { kern.trust with scrubRec := some ([1], 2) } }
     s.trust.scrubRec = some ([1], 2) ∧ s.trust.life = .provider) ∧ kern.trust.scrubRec = none := by
  refine ⟨?_, ?_, ?_, ?_, ?_, ?_⟩ <;> decide +kernel

/-- A staged image in QUIESCED. -/
def staged (good tenant : Bool) (version : Nat) (pend : Bool) : State :=
  let s := faced .quiesced true false []
  { s with trust := { s.trust with
      staging := some ⟨7, version, 0x44, good, tenant⟩, actpend := pend, active := some ⟨6, 3, 0x40, true, false⟩
      activeTenant := some ⟨5, 3, 0x40, true, true⟩ } }

/-- LifeCycleAndActivation, activation: a staged image of each kind, of the other kind and none; and commits of an image that
verifies, with a version that rises, stays and falls. -/
theorem witness_activation : (∀ b ∈ [true, false], let s := staged true b 4 false
      s.host.iface = .quiesced ∧ s.trust.staging.any (fun i => i.tenant == b) = true ∧
      s.trust.staging.any (fun i => i.tenant == !b) = false) ∧ kern.trust.staging = none ∧
    (let s := staged true true 2 true
     let t := staged false true 4 true
     s.trust.staging = some ⟨7, 2, 0x44, true, true⟩ ∧ ¬imageVersion s.trust.activeTenant ≤ 2 ∧
      t.trust.staging = some ⟨7, 4, 0x44, false, true⟩) ∧
    (∀ b ∈ [true, false], ∀ v ∈ [3, 4], let s := staged true b v true
      s.trust.staging = some ⟨7, v, 0x44, true, b⟩ ∧ s.trust.actpend = true ∧ s.host.iface = .quiesced ∧
      imageVersion (if b then s.trust.activeTenant else s.trust.active) ≤ v) ∧
    present (staged true true 4 true).me = true := by
  refine ⟨?_, ?_, ?_, ?_, ?_⟩ <;> decide +kernel

/-! ### Boot, memory care, and what every step keeps -/

/-- The boot hart of a die at a step of its ROM, with a security block, trained dies and a message. -/
def booting (die k : Nat) (t : Trust) (ready : List Nat) (rx : Option Nat) : State :=
  { on { Hart.boot die with stat := .booting k, rxFull := rx.isSome, rx := BitVec.ofNat 64 (rx.getD 0) } with
    trust := t, dies := ready.map fun d => (d, { Die.init with trained0 := true }) }
def flashed (l : LifeCycle) (i : Option Image) : Trust := { Trust.init with life := l, flashProvider := i, minVersion := 3 }

/-- BootAndMemoryCare, the ROM's steps: each one due on die 0 and on another. -/
theorem witness_rom_steps : ∀ die ∈ [0, 1], ∀ k ∈ [0, 1, 2, 3, 5, 6, 7, 8, 9], let s := booting die k Trust.init [] none
    s.choices = [] ∧ present s.me = true ∧ s.me.name.toNat = die * 2 ^ 16 ∧ s.me.stat = .booting k := by decide +kernel

/-- R353: the first move after reset shows step 1 in die 0's word. -/
theorem test_first_step : (match step State.reset with
    | .next t => (getDie 0 t).boot == 1 && t.me.stat == .booting 1
    | _ => false) = true := by decide +kernel

/-- BootAndMemoryCare, the boot of a die: training that ends on die 0 and on another; at die 0's last steps a life-cycle state
that enters no image, no image, one that is not good, one that is too old, and one that starts, in PROVIDER, LEASED and RECOVERY; the
other stack of a die, due, done and of no die; and messages for a waiting die. -/
theorem witness_boot : (∀ die ∈ [0, 1], let s := booting die 3 Trust.init (if die = 0 then [] else [0]) none
      present s.me = true ∧ s.me.name.toNat = die * 2 ^ 16 ∧ s.me.stat = .booting 3 ∧
      (die ≠ 0 → (getDie 0 s).trained0 = true) ∧ s.me.txn.depth = 0 ∧ s.me.task = none ∧ Memory.wf s.mem = true ∧
      ((List.range 32).filter fun k => (rawWord s.mem (0x2400 / 8 + 2 * die)).testBit k).length < 2) ∧
    (∀ t ∈ [flashed .blank none, flashed .retired none, flashed .provider none, flashed .provider (some ⟨1, 3, 0, false, false⟩),
        flashed .provider (some ⟨1, 2, 0, true, false⟩), flashed .provider (some ⟨1, 3, 0, true, false⟩),
        flashed .leased (some ⟨1, 3, 0, true, false⟩), flashed .recovery (some ⟨1, 3, 0, true, false⟩)],
      ∀ k ∈ [6, 7, 8], let s := booting 0 k t [] none
      present s.me = true ∧ s.me.name.toNat = 0 ∧ s.me.stat = .booting k ∧ s.trust = t ∧ s.choices = [] ∧
      s.me.txn.depth = 0 ∧ s.me.task = none ∧
      Memory.wf s.mem = true ∧ s.trust.minVersion = 3 ∧ s.trust.scrubDone = false) ∧
    (let s := booting 0 3 Trust.init [0] none
     ((getDie 0 s).trained0 = true ∧ 3 < 4 * s.pkgs ∧ (getDie 3 s).trained1 = false ∧ Memory.wf s.mem = true) ∧ ¬4 < 4 * s.pkgs) ∧
    (∀ rx ∈ [0x10000, 0x10001, 2 ^ 53], let s := booting 1 4 Trust.init [0, 1] (some rx)
      present s.me = true ∧ s.me.name.toNat = 2 ^ 16 ∧ s.me.stat = .booting 4 ∧ s.me.rxFull = true ∧ s.me.rx.toNat = rx) ∧
    (namesMemory 0x10000 kern = true ∧ namesMemory (2 ^ 53) kern = false) := by
  refine ⟨?_, ?_, ?_, ?_, ?_⟩ <;> decide +kernel

/-- BootAndMemoryCare, trackers: a row with an entry and one without, in a tracker with room and in one without; a row at
the threshold. -/
def rows (l : List (Nat × Nat)) (limit : Nat) : State :=
  withWords [(0x2010 / 8, limit)] { kern with care := { kern.care with trackers := [(5, ⟨l, false⟩)] } }

theorem witness_trackers : rowCount 5 7 (rows [(7, 3)] 4096) = some 3 ∧ rowCount 5 8 (rows [(7, 3)] 4096) = none ∧
    rawWord (rows [(7, 3)] 4096).mem (0x2010 / 8) % 2 ^ 16 = 4096 ∧ rawWord (rows [(7, 3)] 4).mem (0x2010 / 8) % 2 ^ 16 = 4 ∧
    (let full := (List.range 32).map fun i => (i + 10, 2)
     rowCount 5 7 (rows full 4096) = none ∧ full.length = 32 ∧ (full.map Prod.fst).Nodup) := by
  refine ⟨?_, ?_, ?_, ?_, ?_⟩ <;> decide +kernel

/-- BootAndMemoryCare, scrubbers: that of a trained stack, in a pass and at its last line, before its deadline, past it, and
escalated; and those of a stack that is not trained and of one that the domain lacks. -/
def scrubbed (v : Scrub) (b : SideBand) (failed cycle : Nat) : State :=
  withWords [(0x2400 / 8, failed), (0x2020 / 8, 1)] { kern with
    dies := [(0, { Die.init with trained0 := true })]
    cycle := cycle
    mem := setSide kern.mem 0x8000 b
    care := { kern.care with scrubs := [(0, v)] } }

theorem witness_scrubbers : (∀ v ∈ [(⟨0, 0, false, 0, []⟩ : Scrub), ⟨2 ^ 30 - 1, 0, false, 0, []⟩, ⟨0, 0, true, 0, []⟩],
      let s := scrubbed v SideBand.init 0 0
      Scrubbing 0 s ∧ Memory.wf s.mem = true ∧ scrubber 0 s = v ∧ s.cycle < dueAt v s) ∧
    (let s := scrubbed ⟨0, 0, false, 0, []⟩ SideBand.init 0 (2 ^ 20)
     Scrubbing 0 s ∧ ¬s.cycle < dueAt (scrubber 0 s) s) ∧
    ∀ k ∈ [1, 2, 8, 127], ¬Scrubbing k (scrubbed ⟨0, 0, false, 0, []⟩ SideBand.init 0 0) := by
  unfold Scrubbing
  refine ⟨?_, ?_, ?_⟩ <;> decide +kernel

/-- Where the hash puts line 0x8000 of channel 3 at the first place of stack 0, the scrubber finds it repaired, logged with
its channel healthy, and logged with its channel failed, with 15 before it or none. -/
theorem witness_scrubbed_lines (h : Config.stackLine 0 0 = 0x8000) (hs : Config.homeSector 0x8000 = 0)
    (hc : Config.channel 0x8000 = 3) : ∀ n ∈ [0, 15],
    let s (lost : Bool) (failed : Nat) : State := scrubbed ⟨0, 0, false, 0, [(3, n)]⟩
      { SideBand.init with wiped := false, ecc := true, lost := lost } failed 0
    let l (s : State) : Nat := Config.stackLine 0 (scrubber 0 s).pos
    let reads (s : State) : Prop := isHbm (l s) = true ∧ stackOf (l s) s = 0 ∧ namesMemory (64 * l s) s = true ∧
      (getSide s.mem (l s)).wiped = false
    (reads (s false 0) ∧ eccFails (l (s false 0)) (s false 0) = true ∧ rebuilds (l (s false 0)) (s false 0) = true) ∧
    (reads (s true 0) ∧ eccFails (l (s true 0)) (s true 0) = true ∧ rebuilds (l (s true 0)) (s true 0) = false ∧
      uncorrectable (l (s true 0)) (s true 0) = true) ∧
    (reads (s true 8) ∧ eccFails (l (s true 8)) (s true 8) = false ∧ uncorrectable (l (s true 8)) (s true 8) = true) ∧
    (lookupNat (Config.channel (l (s true 0)) % 32) (scrubber 0 (s true 0)).uncorr).getD 0 = n := by
  intro n hn
  have hp : ∀ b f, (scrubber 0 (scrubbed ⟨0, 0, false, 0, [(3, n)]⟩ b f 0)).pos = 0 := fun _ _ => rfl
  simp only [hp, h, eccFails, rebuilds, uncorrectable, twoFailed, failedIn, channelFailed, channelOf, stackOf, sectorFor, hs, hc]
  clear hp
  revert n
  decide +kernel

/-- BootAndMemoryCare, full service: one that is ready, and one with a partition open. -/
def serviced (parts : List Partition) : State := { kern with
  parts := parts
  dies := (List.range 4).map fun d => (d, ⟨6, true, true, [], false⟩)
  care := { kern.care with scrubs := (List.range 8).map fun k => (k, ⟨0, 0, false, 1, []⟩) } }

theorem witness_full_service : (let s := serviced []
      s.care.full = false ∧ s.parts = [] ∧ (∀ d < 4 * s.pkgs, (getDie d s).trained0 = true ∧ (getDie d s).trained1 = true) ∧
      0 < s.pkgs ∧ (∀ k < 8 * s.pkgs, 1 ≤ (scrubber k s).passes) ∧ s.tiles = [] ∧ Memory.wf s.mem = true) ∧
    (serviced [part]).parts ≠ [] ∧
    ∃ x ∈ (setTile 0 { Tile.init with mq := [.clr 3 1] } (serviced [])).tiles, x.2.mq ≠ [] := by
  refine ⟨⟨?_, ?_, ?_, ?_, ?_, ?_, ?_⟩, ?_, ?_⟩ <;> decide +kernel

/-- MemoryFormKeptByEveryStep: the state after reset, with an instruction placed, has the form and takes a step. -/
theorem witness_form : Memory.wf (State.reset.withFetchWord 32 0x06025001).mem = true ∧
    (match step (State.reset.withFetchWord 32 0x06025001) with
      | .next _ => true
      | _ => false) = true := by
  refine ⟨?_, ?_⟩ <;> decide +kernel

theorem reset_form : memoryOk State.reset := rfl

/-! ### Ill-formed terms are refused -/

theorem test_refuses_return_operands : ¬WellFormed (.jr 0x80 0x38) ∧ WellFormed (.jr 0x38 0x80) := by decide

end Sys2Proof.Tests
end

section
/-! PROOF. Branches, jumps, calls, returns and `win` (R164 to R169, R143): the values that a transfer of control works on,
what each operation does once its instruction is ready, and O13. -/

namespace Sys2Proof.Laws

open Sys2Proof Sys2Proof.Machine Sys2Proof.Safety Sys2Proof.Claims

/-! ### Numbers of the model as bit vectors -/

theorem ofNat_wrap (x : Int) (w : Nat) : BitVec.ofNat w (wrap x w) = BitVec.ofInt w x := by
  apply BitVec.eq_of_toNat_eq
  have hlt : wrap x w < 2 ^ w := by
    have h := Int.emod_lt_of_pos x (b := (2 ^ w : Int)) (by positivity)
    have hc : ((2 ^ w : Nat) : Int) = 2 ^ w := by push_cast; rfl
    unfold wrap
    omega
  rw [BitVec.toNat_ofNat, Nat.mod_eq_of_lt hlt, BitVec.toNat_ofInt, wrap]
  push_cast
  rfl

/-- The model's target is that of R135. -/
theorem target_eq_targetOf (h : Hart) (off : Int) : target h.pc off = targetOf h off := by
  rw [target, ofNat_wrap, BitVec.ofInt_add, BitVec.ofInt_natCast, BitVec.ofNat_toNat, BitVec.setWidth_eq, targetOf]

theorem toSigned_eq_toInt (v w : Nat) : toSigned v w = (BitVec.ofNat w v).toInt := by
  cases w with
  | zero => simp [toSigned, Nat.mod_one, BitVec.of_length_zero]
  | succ w =>
    rw [toSigned, BitVec.toInt_eq_toNat_cond, BitVec.toNat_ofNat, Nat.add_sub_cancel, pow_succ]
    push_cast
    split_ifs <;> omega

/-- A source read by its class (R54, R165) is the same integer in the model and in the statements. -/
theorem readInt_eq_int (c : Cls) (x : Val) : readInt c x.1 x.2 = int c x := by
  cases c with
  | S => exact toSigned_eq_toInt x.1 x.2
  | Z => simp [readInt, int, raw]

theorem holds_iff (k : Cond) (c : Cls) (x y : Val) : holds k c x y = true ↔
    match k with
    | .eq => int c x = int c y
    | .ne => int c x ≠ int c y
    | .lt => int c x < int c y
    | .ge => int c y ≤ int c x := by
  cases k <;> simp [holds, readInt_eq_int]

/-! ### Sources -/

theorem readSlices_lt (f : BitVec 1024) (a n : Nat) : readSlices f a n < 2 ^ (4 * n) :=
  Nat.mod_lt _ (by positivity)

theorem streamElem_lt (k i : Nat) (h : Hart) : (streamElem k i h).1 < 2 ^ (streamElem k i h).2 := by
  unfold streamElem
  split
  · split
    · exact Nat.mod_lt _ (by positivity)
    · positivity
  · positivity

/-- A source fits its own width. -/
theorem readOp_lt (sc : Scale) (p : Pos) (x : Byte) (prev : Nat) (h : Hart) :
    (readOp sc p x prev h).1 < 2 ^ (readOp sc p x prev h).2 := by
  unfold readOp
  split_ifs
  · exact Nat.mod_lt _ (by positivity)
  · exact streamElem_lt _ _ h
  · exact Nat.mod_lt _ (by positivity)
  · positivity
  · exact readSlices_lt _ _ _

theorem granVal_toNat (g : BitVec 5) (h : Hart) : (granVal g h).toNat = readSlices h.slices (8 * g.toNat) 8 := by
  rw [granVal, BitVec.toNat_ofNat, Nat.mod_eq_of_lt (readSlices_lt _ _ 8)]

theorem granule_zero_iff (g : BitVec 5) (h : Hart) : (readOpd .D (.gran g) 0 h).1 = 0 ↔ granVal g h = 0 := by
  rw [BitVec.toNat_eq, granVal_toNat]
  rfl

/-- R164: the decrement modulo 2^w. -/
theorem ext_sub_one_toNat {x : Val} (hx : x.1 < 2 ^ x.2) (w : Nat) :
    (ext .Z x w - 1).toNat = (x.1 + 2 ^ w - 1) % 2 ^ w := by
  cases w with
  | zero => simp [Nat.mod_one, BitVec.of_length_zero]
  | succ w =>
    have hone : (1 : BitVec (w + 1)).toNat = 1 := BitVec.toNat_one (by omega)
    have hpos : 0 < 2 ^ (w + 1) := by positivity
    rw [BitVec.toNat_sub, hone, ext, raw, BitVec.toNat_setWidth, BitVec.toNat_ofNat, Nat.mod_eq_of_lt hx,
      Nat.add_mod_mod]
    congr 1
    omega

/-- R131: the address after a word of 4 bytes. -/
theorem npc_of_long {i : Instr} (hl : lenOf i = 4) (h : Hart) : npc i h = (h.pc + 4).toNat := by
  rw [npc, hl, BitVec.toNat_add]
  rfl

/-! ### The operations on a ready instruction -/

/-- An instruction that issues and then goes to a target under a condition branches. -/
theorem branches_of_gotoIf {i : Instr} {needs : Hart → List Need} {off : Int} {b : Hart → Bool} {P : Hart → Prop}
    (hx : ∀ s, exec i s = .next (issue (plainGate i (needs s.me) []) (gotoIf (b s.me) (target s.me.pc off)) s))
    (hb : ∀ h, b h = true ↔ P h) : Branches i needs off P := by
  intro s hr
  rw [hx, issue_of_ready hr, target_eq_targetOf]
  constructor
  · intro ht
    rw [(hb s.me).2 ht]
    rfl
  · intro ht
    rw [Bool.eq_false_iff.2 (mt (hb s.me).1 ht)]
    rfl

/-- `bz` and `bnz` of an operand of either word size. -/
theorem branches_of_opBz {i : Instr} {onZero : Bool} {off : Int} {d : Opd} {P : Hart → Prop}
    (hx : ∀ s, exec i s = .next (opBz i onZero off d s)) (hb : ∀ h, (readOpd .D d 0 h).1 = 0 ↔ P h) :
    Branches i (fun h => [opdNeed .D d 0 h]) off fun h => P h ↔ onZero = true := by
  refine branches_of_gotoIf (b := fun h => ((readOpd .D d 0 h).1 == 0) == onZero) hx fun h => ?_
  rw [← hb h, beq_iff_eq, Bool.eq_iff_iff, beq_iff_eq]

theorem branches_of_opBranch {i : Instr} {k : Cond} {c : Cls} {b a : Byte} {o : BitVec 8} {P : Int → Int → Prop}
    (hx : ∀ s, exec i s = .next (opBranch i k c b a o s))
    (hp : ∀ x y : Val, holds k c x y = true ↔ P (int c x) (int c y)) :
    Branches i (fun h => [srcNeed .d .A a 0 h, srcNeed .d .B b (sameStream a b) h]) o.toInt fun h =>
      P (int c (readOp .d .A a 0 h)) (int c (readOp .d .B b (sameStream a b) h)) :=
  branches_of_gotoIf (b := fun h => holds k c (readOp .d .A a 0 h) (readOp .d .B b (sameStream a b) h)) hx
    fun _ => hp _ _

theorem branches_of_opJump {i : Instr} {off : Int} (hx : ∀ s, exec i s = .next (opJump i off s)) :
    Branches i (fun _ => []) off fun _ => True :=
  branches_of_gotoIf (b := fun _ => true) hx fun _ => by simp

/-- R164: a ready `dbnz` writes D less 1, and goes to its target while that is not 0. -/
theorem opDbnz_of_ready {i : Instr} {off : Int} {sc : Scale} {d : Byte} {s : State}
    (hr : Ready (plainGate i [srcNeed sc .D d 0 s.me] [dstTgt sc .D d s.me]) s) :
    let g := plainGate i [srcNeed sc .D d 0 s.me] [dstTgt sc .D d s.me]
    let v := ext .Z (readOp sc .D d 0 s.me) (opBits sc d) - 1
    opDbnz i off (.byte sc d) s = gotoIf (decide (v ≠ 0)) (targetOf s.me off) (writeOp sc .D d v.toNat (advance g s)) := by
  intro g v
  have hv : ((readOp sc .D d 0 s.me).1 + 2 ^ opBits sc d - 1) % 2 ^ opBits sc d = v.toNat :=
    (ext_sub_one_toNat (readOp_lt sc .D d 0 s.me) _).symm
  have hz : (v.toNat != 0) = decide (v ≠ 0) := by
    rw [Bool.eq_iff_iff, bne_iff_ne, decide_eq_true_iff, ne_eq, ne_eq, BitVec.toNat_eq]
    rfl
  calc opDbnz i off (.byte sc d) s
      = gotoIf (((readOp sc .D d 0 s.me).1 + 2 ^ opBits sc d - 1) % 2 ^ opBits sc d != 0) (target s.me.pc off)
          (writeOp sc .D d (((readOp sc .D d 0 s.me).1 + 2 ^ opBits sc d - 1) % 2 ^ opBits sc d) (advance g s)) :=
        issue_of_ready (k := fun t => gotoIf _ _ (writeOp sc .D d _ t)) hr
    _ = _ := by rw [hv, hz, target_eq_targetOf]

/-- The two outcomes of a ready `dbnz`, as O13 words them. -/
theorem exec_dbnz {i : Instr} {off : Int} {sc : Scale} {d : Byte} {s : State}
    (hx : exec i s = .next (opDbnz i off (.byte sc d) s)) :
    let g := plainGate i [srcNeed sc .D d 0 s.me] [dstTgt sc .D d s.me]
    let v := ext .Z (readOp sc .D d 0 s.me) (opBits sc d) - 1
    Ready g s →
    (v ≠ 0 → exec i s = .next (modMe (fun h => { h with pc := targetOf s.me off })
      (writeOp sc .D d v.toNat (advance g s)))) ∧
    (v = 0 → exec i s = .next (writeOp sc .D d v.toNat (advance g s))) := by
  intro g v hr
  rw [hx, opDbnz_of_ready hr]
  constructor
  · intro hv
    rw [decide_eq_true hv]
    rfl
  · intro hv
    rw [decide_eq_false (not_not_intro hv)]
    rfl

/-- R167: the checks that `jr` makes before those of its link to tx pass where all of them do. -/
theorem gate_before_link_of_ready {g : Gate} {s : State} (hr : Ready g s) :
    gate { g with bars := g.tgts.contains .tx, tgts := g.tgts.filter fun x => x != .tx } s = none := by
  obtain ⟨hmode, htxn, hset, hbound, hsound, hfull, hfree, htags, -⟩ := hr
  refine gate_of_ready ⟨hmode, fun ht => ⟨?_, ?_⟩, hset, hbound, hsound, hfull, ?_, htags, ?_⟩
  · simpa using (htxn ht).2
  · simp
  · exact fun t ht => hfree t (List.mem_of_mem_filter ht)
  · simp

/-- R167: `jr` and `ret` go to an even target after they write the link, and trap at an odd one. -/
theorem opJr_of_ready {i : Instr} {a d : Byte} {s : State} (hl : lenOf i = 4) (hr : Ready (gate1 i .d a d s) s) :
    let t := (readOp .d .A a 0 s.me).1 % 2 ^ 54
    (t % 2 = 0 → opJr i a d s = modMe (fun h => { h with pc := BitVec.ofNat 54 t })
      (writeOp .d .D d (s.me.pc + 4).toNat (advance (gate1 i .d a d s) s))) ∧
    (t % 2 = 1 → opJr i a d s = cause (cInstAlign 1) t s) := by
  intro t
  constructor
  · intro ht
    have heven : ∀ b : Bool, ¬(t % 2 == 1 && b) = true := by simp [ht]
    rw [← npc_of_long hl]
    exact (if_neg (heven _)).trans (issue_of_ready hr)
  · intro ht
    have hgate := gate_before_link_of_ready hr
    exact if_pos (Bool.and_eq_true_iff.2 ⟨beq_iff_eq.2 ht, Option.isNone_iff_eq_none.2 hgate⟩)

/-! ### The parts of O13 -/

theorem zeroBranches : ZeroBranches := by
  refine ⟨?bzN, ?bzD, ?bnzN, ?bnzD, ?bzC, ?bnzC, ?dbnzN, ?dbnzD⟩
  case bzN => exact fun o d => branches_of_opBz (d := .byte .n d) (fun _ => rfl) fun _ => Iff.rfl
  case bzD => exact fun o d => branches_of_opBz (d := .byte .d d) (fun _ => rfl) fun _ => Iff.rfl
  case bnzN => exact fun o d => branches_of_opBz (d := .byte .n d) (fun _ => rfl) fun _ => Iff.rfl
  case bnzD => exact fun o d => branches_of_opBz (d := .byte .d d) (fun _ => rfl) fun _ => Iff.rfl
  case bzC => exact fun o g => branches_of_opBz (d := .gran g) (fun _ => rfl) (granule_zero_iff g)
  case bnzC => exact fun o g => branches_of_opBz (d := .gran g) (fun _ => rfl) (granule_zero_iff g)
  case dbnzN => exact fun o d s => exec_dbnz rfl
  case dbnzD => exact fun o d s => exec_dbnz rfl

theorem compareBranches : CompareBranches := by
  refine ⟨?eq, ?ne, ?lt, ?ge, ?ltu, ?geu⟩
  case eq => exact fun _ _ _ => branches_of_opBranch (P := (· = ·)) (fun _ => rfl) (holds_iff .eq .S)
  case ne => exact fun _ _ _ => branches_of_opBranch (P := (· ≠ ·)) (fun _ => rfl) (holds_iff .ne .S)
  case lt => exact fun _ _ _ => branches_of_opBranch (P := (· < ·)) (fun _ => rfl) (holds_iff .lt .S)
  case ge => exact fun _ _ _ => branches_of_opBranch (P := fun x y => y ≤ x) (fun _ => rfl) (holds_iff .ge .S)
  case ltu => exact fun _ _ _ => branches_of_opBranch (P := (· < ·)) (fun _ => rfl) (holds_iff .lt .Z)
  case geu => exact fun _ _ _ => branches_of_opBranch (P := fun x y => y ≤ x) (fun _ => rfl) (holds_iff .ge .Z)

theorem exec_jal (o : BitVec 16) (d : Byte) (s : State) (hr : Ready (gate0 (.jal o d) .d d s) s) :
    exec (.jal o d) s = .next (modMe (fun h => { h with pc := targetOf s.me o.toInt })
      (writeOp .d .D d (s.me.pc + 4).toNat (advance (gate0 (.jal o d) .d d s) s))) := by
  rw [← target_eq_targetOf, ← npc_of_long (i := .jal o d) rfl]
  exact congrArg Host.Outcome.next (issue_of_ready hr)

theorem exec_win (b a d : Byte) (s : State) (hr : Ready (plainGate (.win b a d) [] []) s) :
    exec (.win b a d) s = .next (modMe (fun h => { h with xw := 0#8 ++ b ++ a ++ d })
      (advance (plainGate (.win b a d) [] []) s)) :=
  congrArg Host.Outcome.next (issue_of_ready hr)

theorem exec_jr_or_ret {i : Instr} {a d : Byte} (hi : i = .jr a d ∨ i = .ret a ∧ d = 0x38) (s : State) :
    lenOf i = 4 ∧ exec i s = .next (opJr i a d s) := by
  obtain rfl | ⟨rfl, rfl⟩ := hi
  · exact ⟨rfl, rfl⟩
  · exact ⟨rfl, rfl⟩

theorem jumpsAndWindows : JumpsAndWindows := by
  refine ⟨?jump, ?jC, exec_jal, ?jr, exec_win⟩
  case jump => exact fun o => branches_of_opJump fun _ => rfl
  case jC => exact fun o => branches_of_opJump fun _ => rfl
  case jr =>
    intro i a d s hi t hr
    obtain ⟨hl, hx⟩ := exec_jr_or_ret hi s
    obtain ⟨heven, hodd⟩ := opJr_of_ready hl hr
    exact ⟨fun ht => by rw [hx, heven ht], fun ht => by rw [hx, hodd ht]⟩

/-- Settles O13: a transfer of control issues as its operation says (`branches_of_gotoIf`, `opDbnz_of_ready`,
`opJr_of_ready`), and the model's target is (PC + 2 × OFF) mod 2^54 (`target_eq_targetOf`). -/
theorem controlTransfers : Obligations.ControlTransfers := ⟨⟨zeroBranches, compareBranches⟩, jumpsAndWindows⟩

end Sys2Proof.Laws
end

section
/-! PROOF. Special registers (R171 to R173, R259, R280): which modes may use them, what the instructions on a register that
is not timed and sends nothing do once they are ready, and O17. -/

namespace Sys2Proof.Laws

open Sys2Proof Sys2Proof.Machine Sys2Proof.Safety Sys2Proof.Claims

/-! ### Modes -/

/-- The model's rule of R280, by the number divided by 256, is that by bounds, for every number. -/
theorem csrAllowed_eq_mayUse (n : BitVec 12) (h : Hart) : csrAllowed n.toNat h = mayUse n h := by
  unfold csrAllowed mayUse
  split
  case h_1 hq =>
    have hlt : n.toNat < 0x100 := by omega
    simp [hlt]
  case h_2 hq =>
    have hge : ¬n.toNat < 0x100 := by omega
    have hlt : n.toNat < 0x200 := by omega
    simp only [hge, hlt]
    cases h.mode <;> rfl
  case h_3 h0 h1 =>
    replace h0 : n.toNat / 256 ≠ 0 := h0
    replace h1 : n.toNat / 256 ≠ 1 := h1
    have hge : ¬n.toNat < 0x100 := by omega
    have hge' : ¬n.toNat < 0x200 := by omega
    simp [hge, hge']

theorem csrGate_eq (i : Instr) (n : BitVec 12) (writes : Bool) (needs : List Need) (tgts : List Tgt) (s : State) :
    csrGate i n.toNat writes needs tgts s = csrGate' i n writes (mayUse n s.me) needs tgts := by
  rw [csrGate, csrAllowed_eq_mayUse, csrGate']

theorem gate_of_not_moded {g : Gate} (hm : g.moded = false) (s : State) :
    gate g s = some (cause cPrivMode (wordNat g.i) s) := by
  simp [gate, hm]

theorem csrGate_of_not_mayUse {n : BitVec 12} {s : State} (hm : mayUse n s.me = false) (i : Instr) (writes : Bool)
    (needs : List Need) (tgts : List Tgt) :
    gate (csrGate i n.toNat writes needs tgts s) s = some (cause cPrivMode (wordNat i) s) :=
  gate_of_not_moded ((csrAllowed_eq_mayUse n s.me).trans hm) s

theorem opCsrr_of_not_mayUse {n : BitVec 12} {s : State} (hm : mayUse n s.me = false) (i : Instr) (d : Byte) :
    opCsrr i n.toNat d s = cause cPrivMode (wordNat i) s := by
  simp only [opCsrr, issue, csrGate_of_not_mayUse hm]

/-- The check of the mode comes before that of an interrupt to send. -/
theorem opCsrw_of_not_mayUse {n : BitVec 12} {s : State} (hm : mayUse n s.me = false) (i : Instr)
    (f : Nat → Nat → Nat → Nat) (d : Byte) : opCsrw i f n.toNat d s = cause cPrivMode (wordNat i) s := by
  simp [opCsrw, issue, csrGate_of_not_mayUse hm]

/-- R280: the four instructions on a register above the hart's mode trap alike. -/
theorem exec_csr_of_not_mayUse {n : BitVec 12} {s : State} (hm : mayUse n s.me = false) (d : Byte) :
    ∀ i ∈ [Instr.csrr n d, .csrw n d, .csrs n d, .csrc n d],
      exec i s = .next (cause cPrivMode (wordOf (encode i)).toNat s) := by
  simp only [List.forall_mem_cons]
  refine ⟨?read, ?write, ?set, ?clear, by simp⟩
  case read => exact congrArg Host.Outcome.next (opCsrr_of_not_mayUse hm _ d)
  case write => exact congrArg Host.Outcome.next (opCsrw_of_not_mayUse hm _ _ d)
  case set => exact congrArg Host.Outcome.next (opCsrw_of_not_mayUse hm _ _ d)
  case clear => exact congrArg Host.Outcome.next (opCsrw_of_not_mayUse hm _ _ d)

/-! ### Reads and writes of a ready instruction -/

/-- A source brought to width w as an unsigned number. -/
theorem ext_Z_toNat {x : Val} (hx : x.1 < 2 ^ x.2) (w : Nat) : (ext .Z x w).toNat = x.1 % 2 ^ w := by
  rw [ext, raw, BitVec.toNat_setWidth, BitVec.toNat_ofNat, Nat.mod_eq_of_lt hx]

/-- R171, R173: a register whose value does not move with time, and that the issue itself leaves as it is. -/
theorem csrReads_of {n : BitVec 12} {w : Nat} {get : State → BitVec w} (htime : csrTimed n.toNat = false)
    (hget : ∀ s, csrGet n.toNat s = (get s).toNat)
    (hkept : ∀ g s, g.needs = [] → get (advance g s) = get s) : CsrReads n get := by
  intro d s hr
  set g := csrGate' (.csrr n d) n false (mayUse n s.me) [] [dstTgt .d .D d s.me]
  have hread : opCsrr (.csrr n d) n.toNat d s = writeOp .d .D d (csrGet n.toNat (advance g s)) (advance g s) := by
    simp only [opCsrr, csrGate_eq, htime, Bool.false_eq_true, if_false]
    exact issue_of_ready hr
  rw [← hkept g s rfl, ← hget, ← hread]
  rfl

theorem ipiFault_of_ne {n : Nat} (hn : n ≠ 0x108) (v : Nat) (s : State) : ipiFault n v s = none :=
  if_neg fun h => hn h.1

/-- R171: a ready write of any register but HIPI puts what `f` makes of the old value and the operand. -/
theorem opCsrw_of_ready {i : Instr} {n : BitVec 12} {d : Byte} {s : State} (f : Nat → Nat → Nat → Nat)
    (hipi : n.toNat ≠ 0x108) (hr : Ready (csrGate' i n true (mayUse n s.me) [srcNeed .d .D d 0 s.me] []) s) :
    opCsrw i f n.toNat d s =
      csrPut n.toNat
        (f (csrWidth n.toNat) (csrGet n.toNat s) (ext .Z (readOp .d .D d 0 s.me) (csrWidth n.toNat)).toNat)
        (advance (csrGate' i n true (mayUse n s.me) [srcNeed .d .D d 0 s.me] []) s) := by
  simp only [opCsrw, csrGate_eq, ipiFault_of_ne hipi, ite_self, ext_Z_toNat (readOp_lt .d .D d 0 s.me)]
  exact issue_of_ready hr

/-- R171: the three writes of a register other than HIPI. -/
theorem csrWrites_of {n : BitVec 12} {w : Nat} {get : State → BitVec w} {put : BitVec w → State → State}
    (hipi : n.toNat ≠ 0x108) (hwidth : csrWidth n.toNat = w) (hget : ∀ s, csrGet n.toNat s = (get s).toNat)
    (hput : ∀ v s, csrPut n.toNat (BitVec.toNat v) s = put v s) : CsrWrites n get put := by
  subst hwidth
  intro d s g v
  refine ⟨?write, ?set, ?clear⟩
  case write =>
    intro hr
    rw [← hput, ← opCsrw_of_ready (fun _ _ x => x) hipi hr]
    rfl
  case set =>
    intro hr
    rw [← hput, BitVec.toNat_or, ← hget, ← opCsrw_of_ready (fun _ o x => o ||| x) hipi hr]
    rfl
  case clear =>
    intro hr
    rw [← hput, BitVec.toNat_and, BitVec.toNat_not, ← hget,
      ← opCsrw_of_ready (fun w o x => o &&& (2 ^ w - 1 - x)) hipi hr]
    rfl

/-! ### HWAITLIM and O17 -/

/-- R280: a number below 0x100 names a register of every mode. -/
theorem mayUse_of_lt {n : BitVec 12} (hn : n.toNat < 0x100) (h : Hart) : mayUse n h = true := by
  simp [mayUse, hn]

/-- R84, R171: HWAITLIM holds 32 bits, read and written as they stand. -/
theorem csrRow_hwaitlim : CsrRow (w := 32) 0x10 (fun h => h.hwaitlim) (fun v h => { h with hwaitlim := v }) := by
  constructor
  · refine csrReads_of rfl (fun _ => rfl) fun g s hg => ?_
    simp [advance, hg, consume, modMe]
  · refine csrWrites_of (by decide) rfl (fun _ => rfl) fun v s => ?_
    have hv : BitVec.ofNat 32 v.toNat = v := by simp
    simp [csrPut, hv]

/-- Settles O17: every mode may use a register below 0x100, HWAITLIM is read and written as it stands
(`csrRow_hwaitlim`), and the check of the mode comes first in all four instructions (`exec_csr_of_not_mayUse`). -/
theorem registerPrivilege : Obligations.RegisterPrivilege :=
  ⟨mayUse_of_lt (by decide), csrRow_hwaitlim, fun _ d _ _ hm => exec_csr_of_not_mayUse hm d⟩

end Sys2Proof.Laws
end
